-- ==== Sys2Proof/Word.lean ====
section
/-! DEFINITION. The word types of the SX24: bytes of the shared RAM and of the serial lines, the host's
halfwords, the RAM port's words. -/

namespace Sys2Proof

/-- One byte of shared memory, or one byte on a serial line. -/
abbrev Byte := BitVec 8

/-- One halfword on the host's 16 data lines, or the value of a register (R173, R186). -/
abbrev Halfword := BitVec 16

/-- One 32-bit word, or a 32-bit count that wraps at 2^32 (R3, R181). -/
abbrev Word := BitVec 32

end Sys2Proof
end

