-- ==== Sys2Proof/Syntax.lean ====
section
/-! DEFINITION. The commands the part takes: one constructor for each row of spec/opcode_table.json, with the
row's operands. The table gives no fields, so the operands are what the rule of the row needs. -/

namespace Sys2Proof

/-- The ORDER strap (R174, R186): which byte of a multi-byte field stands at the lowest address. -/
inductive ByteOrder where
  /-- ORDER low: the least significant byte is at the lowest address. -/
  | leastFirst
  /-- ORDER high: the most significant byte is at the lowest address. -/
  | mostFirst
  deriving DecidableEq, Repr

/-- The eight roles of the resident set (R165). -/
inductive Role where
  | activeSong
  | shadowSong
  | activeScene
  | shadowScene
  | click (sound : Fin 4)
  deriving DecidableEq, Repr

/-- A place in one frame, told against the click generator's two acts: taking the click event (R44, R45) and
rendering the frame (R48). -/
inductive FramePlace where
  | beforeClick
  | beforeRender
  | afterRender
  deriving DecidableEq, Repr

/-- The order in which the blocks take what the timeline hands them in one frame. The spec leaves it open
(R33, R50, R52, R122), so it is an operand (log 4). -/
structure FrameOrder where
  /-- where the scene loader takes the announcement -/
  loader : FramePlace
  /-- where the cue unit executes the cues that are due, or none when their execution is left to the
  CUE_EXECUTE steps that follow the frame -/
  cues : Option FramePlace
  /-- in a place that both share, whether the cue unit goes before the scene loader -/
  cuesFirst : Bool
  deriving DecidableEq, Repr

/-- A register access of the host made while RESETn is low (R173). -/
inductive LowAccess where
  | read (register : BitVec 3)
  | write (register : BitVec 3) (value : Halfword)
  deriving DecidableEq, Repr

/-- The interval of a power-on reset: the register accesses the host makes while RESETn is low (R173), and the level of
the ORDER strap when it returns high (R174). -/
structure ResetInterval where
  accesses : List LowAccess
  strap : ByteOrder
  deriving DecidableEq, Repr

/-- The commands: one constructor for each row of the table. -/
inductive Instr where
  /-- RESETn low, then high (R174). -/
  | powerOnReset (interval : ResetInterval)
  /-- A CONTROL write with RUN 1 and ENGINE_RESET 0 (R175). -/
  | engineStart (value : Halfword)
  /-- A CONTROL write with RUN 0 and ENGINE_RESET 0 (R175, R176). -/
  | engineStop (value : Halfword)
  /-- A CONTROL write with ENGINE_RESET 1 (R178). -/
  | engineReset (value : Halfword)
  /-- The grant that reads the last directory word (R154). -/
  | directoryReadComplete
  /-- The end of Starting's reads (R154). -/
  | engineBecomesRunning
  /-- The end of the Stopping drain (R177). -/
  | stoppingDrainEnd
  /-- A write to IDENT, STATUS, MAIL_OUT or register number 7 (R173). -/
  | registerWriteIgnored (register : BitVec 3) (value : Halfword)
  /-- A write to INT_STATUS (R185). -/
  | intStatusWrite (value : Halfword)
  /-- A write to INT_MASK (R185). -/
  | intMaskWrite (value : Halfword)
  /-- A read of MAIL_OUT (R179). -/
  | mailOutRead
  /-- A MAIL_IN write with command code 1 (R180). -/
  | panic (argument : BitVec 12)
  /-- A MAIL_IN write with command code 2 (R180). -/
  | halt (argument : BitVec 12)
  /-- A MAIL_IN write with command code 3 (R180). -/
  | tap (argument : BitVec 12)
  /-- A MAIL_IN write with command code 4 (R180). -/
  | whereAmI (argument : BitVec 12)
  /-- A MAIL_IN write with a command code that names none of the four (R180). -/
  | unknownCommand (code : BitVec 4) (argument : BitVec 12)
  /-- One frame event from the source in force (R2). -/
  | frameEvent (order : FrameOrder)
  /-- A rising edge on the word-clock input (R22); the order is used only where the edge is a frame event. -/
  | wordClockEdge (order : FrameOrder)
  /-- A held switch's countdown has reached 0 (R130). -/
  | holdExpiry
  /-- A resident entry's settle countdown has reached 0 (R167). -/
  | settleEnd (role : Role)
  /-- The external clock monitor turns Absent while running External (R22). -/
  | clockFallback
  /-- A low-to-high transition on the TAP pin (R12). -/
  | tapPinRise
  /-- A player port receives a byte (R56). -/
  | byteArrival (port : Fin 4) (byte : Byte)
  /-- A player port receives a byte with a low stop bit (R55). -/
  | framingError (port : Fin 4)
  /-- A voice port reaches a byte boundary (R106). -/
  | byteBoundary (port : Fin 8)
  /-- A host RAM write of one halfword; the address is that of the 17 halfword address lines (R161). -/
  | hostWrite (address : BitVec 17) (data : Halfword)
  /-- A host RAM read of one halfword (R160). -/
  | hostRead (address : BitVec 17)
  /-- The arbiter grants one word access to an engine requester (R170). -/
  | engineWordAccess
  /-- The cue unit starts reading the head slot of the posted list (R138). -/
  | takeReadStart
  /-- The grant that reads the slot's last word (R141). -/
  | takeReadComplete
  /-- The grant that reads the last word of a fetch (R115). -/
  | fetchComplete
  /-- The grant that reads the last word of a Remap's table (R147). -/
  | remapReadComplete
  /-- The grant that writes the state byte of a result (R148). -/
  | cueResultWritten
  /-- The grant that writes the written-count word after an entry (R183). -/
  | journalEntryWritten
  /-- The next due and ready cue executes (R144). -/
  | cueExecute
  /-- The switch that is due is made (R127). -/
  | sceneSwitch
  /-- A write to MAIL_IN (R179). -/
  | mailInWrite (value : Halfword)
  /-- The external clock monitor turns Absent (R22). -/
  | externalClockAbsent
  deriving DecidableEq, Repr

end Sys2Proof
end

