-- ==== Sys2Proof/Decode.lean ====
section
/-! DEFINITION. The table gives no bits for any row: a command of this block is an access, an event or a grant,
not a word. So no word spells a command (log 36). -/

namespace Sys2Proof

/-- The command a word spells by the table's bits. No row gives bits, so every word is rejected. -/
def decodeTableWord (_nbits _w : Nat) : Option Instr := none

end Sys2Proof
end

