-- ==== Sys2Proof/Config.lean ====
section
/-! DEFINITION. What the implementation fixes, and the one free value the spec leaves open. -/

namespace Sys2Proof.Config

/-- Bytes of shared RAM: 0x00000 to 0x3FFFF (Introduction, Shared memory). -/
def ramBytes : Nat := 0x40000

/-- What an address that memory does not list reads as.
DESIGN CHOICE (log 5): the spec gives the RAM no contents at reset. Unsafe. -/
def unlistedByte : Byte := 0

/-- The contents of the RAM after a power-on reset, which R135 calls undefined. It has no body, so nothing
can be proved about it; the argument counts the power-on resets taken, so that each leaves contents of its
own (log 6). -/
opaque undefinedRam : Nat → List (Nat × Byte)

/-- Entries of a voice port's queue (R101). -/
def queueSize : Nat := 64

/-- Entries of the held-note table (R82). -/
def tableSize : Nat := 128

/-- Places in the arm list (R134). -/
def armSize : Nat := 8

/-- Places in the notice unit's accepted list (R181). -/
def acceptedSize : Nat := 16

/-- Samples of click memory per sound (R42). -/
def soundSize : Nat := 2048

end Sys2Proof.Config
end

