-- ==== Sys2Proof/Machine/State.lean ====
section
/-! DEFINITION. The state of the SX24 as plain data, block by block, and its value after a power-on reset.
Everything the part itself holds stands in Part; the shared RAM, the strap, the host's data lines and the queue
of commands stand beside it in State. -/

namespace Sys2Proof.Machine

/-! ### Shared memory -/

/-- The shared RAM as its listed cells; an address not listed reads as Config.unlistedByte. -/
structure Memory where
  cells : List Host.Cell
  deriving DecidableEq, Repr

/-! ### Engine and registers (Chapter 11) -/

/-- The engine states (R175). -/
inductive EngineState where
  | stopped | starting | running | stopping
  deriving DecidableEq, Repr

/-- The error of the last failed Start (R155, R175). -/
inductive StartError where
  | none | badSignature | badVersion | badRate | badArea | badMap
  deriving DecidableEq, Repr

/-- The two mailbox registers, each a value and a full flag (R179). -/
structure Mail where
  inValue : Halfword
  inFull : Bool
  outValue : Halfword
  outFull : Bool
  deriving DecidableEq, Repr

/-- INT_STATUS and INT_MASK: one bit per cause, in the order of R188. -/
structure Interrupts where
  status : BitVec 5
  mask : BitVec 5
  deriving DecidableEq, Repr

/-- The five interrupt causes (R185), in the order of their bits (R188). -/
inductive Cause where
  | journalLevel | cueNotice | replyReady | guard | clockFault
  deriving DecidableEq, Repr

/-- The addresses the directory gives (R156) that the cue unit, the watch and the scene loader use. -/
structure Layout where
  cueBoard : Nat
  songIndex : Nat
  sceneIndex : Nat
  deriving DecidableEq, Repr

/-! ### Timeline (Chapter 1) -/

inductive SampleRate where
  | khz44 | khz48 | khz96
  deriving DecidableEq, Repr

inductive ClockSource where
  | internal | external
  deriving DecidableEq, Repr

/-- What the external clock monitor reads (R22). -/
inductive Monitor where
  | present | absent
  deriving DecidableEq, Repr

inductive ClockState where
  | idle | parked | countIn | playing | paused
  deriving DecidableEq, Repr

/-- The running states a Pause can be taken in (R16). -/
inductive RunState where
  | countIn | playing
  deriving DecidableEq, Repr

/-- The override record (1.1, R9): base c, target t, ramp length M, beats taken j, Keep flag. -/
structure Override where
  base : Nat
  target : Nat
  ramp : Nat
  taken : Nat
  keep : Bool
  deriving DecidableEq, Repr

/-- Whether a Start byte is still to be requested (R20), and with which sync pulse. -/
inductive StartByte where
  /-- none is owed -/
  | none
  /-- with the sync pulse of the frame in which the pending entry lands -/
  | atLanding
  /-- with the next sync pulse -/
  | nextPulse
  /-- one with the next sync pulse, and another with the sync pulse of the pending entry's landing -/
  | pulseAndLanding
  deriving DecidableEq, Repr

/-- The timeline's state (1.1). The tempo plan's source is Override exactly when plan holds a record. -/
structure Timeline where
  rate : SampleRate
  source : ClockSource
  monitor : Monitor
  clock : ClockState
  pausedFrom : Option RunState
  startPending : Bool
  acc : Nat
  beatOpen : Bool
  tempo : Nat
  plan : Option Override
  lastTap : Option Word
  intervals : List Nat
  tapFollow : Bool
  frame : Word
  startByte : StartByte
  deriving DecidableEq, Repr

/-! ### Songs, scenes and the song pointer (Chapters 2, 5 and 12) -/

inductive Phase where
  | countIn | song
  deriving DecidableEq, Repr

/-- The kinds of boundary, each also of the kinds before it (R29). -/
inductive BoundaryKind where
  | beat | bar | newSection
  deriving DecidableEq, Repr

/-- The causes of a SectionEntered entry (R34). -/
inductive EntryCause where
  | start | advance | vamp | loopLast | early | segue | jump | refresh
  deriving DecidableEq, Repr

/-- The causes of a pending entry (2.2). -/
inductive PendingCause where
  | segue | jump
  deriving DecidableEq, Repr

/-- An entry that the next beat boundary lands on (R32). -/
structure PendingEntry where
  target : Nat
  cause : PendingCause
  deriving DecidableEq, Repr

/-- The song pointer (2.2). -/
structure SongPointer where
  loaded : Bool
  startSection : Nat
  phase : Phase
  sectionIndex : Nat
  pass : Nat
  bar : Nat
  countInBar : Nat
  beat : Nat
  lastTick : Nat
  vamp : Bool
  leave : Bool
  entry : Option PendingEntry
  barsPlayed : Nat
  deriving DecidableEq, Repr

/-- A position stamp (Introduction, Records named throughout). -/
structure Stamp where
  phase : Phase
  sectionIndex : Nat
  pass : Nat
  bar : Nat
  beat : Nat
  tick : Nat
  frame : Word
  deriving DecidableEq, Repr

/-- The click classes (3.2). -/
inductive ClickClass where
  | downbeat | beat | sub | countIn
  deriving DecidableEq, Repr

/-- One number for each click class. -/
structure ByClass where
  downbeat : Nat
  beat : Nat
  sub : Nat
  countIn : Nat
  deriving DecidableEq, Repr

/-- A section entry of a song as stored (R23, R117); no scene means Keep. -/
structure SongSection where
  bars : Nat
  beats : Nat
  subdivision : Nat
  startTempo : Nat
  endTempo : Nat
  scene : Option Nat
  deriving DecidableEq, Repr

/-- A song as stored in a song store, with its number (R112, R117). -/
structure Song where
  number : Nat
  countIn : Nat
  loopLast : Bool
  clickSound : ByClass
  sections : List SongSection
  deriving DecidableEq, Repr

/-- A destination: voice port and channel. The channel field is the MIDI channel minus 1. -/
structure Dest where
  voice : Fin 8
  channel : Fin 16
  deriving DecidableEq, Repr

inductive Subject where
  | key | velocity
  deriving DecidableEq, Repr

inductive Compare where
  | any | equal | below | atOrAbove
  deriving DecidableEq, Repr

/-- One zone test of a layer (5.1). -/
structure ZoneTest where
  subject : Subject
  compare : Compare
  value : Nat
  deriving DecidableEq, Repr

inductive Combine where
  | and | or
  deriving DecidableEq, Repr

/-- A layer entry (5.1). The pass list holds the numbers of its entries that are not empty. -/
structure Layer where
  sources : BitVec 4
  testA : ZoneTest
  testB : ZoneTest
  combine : Combine
  dest : Dest
  transpose : Int
  gain : Nat
  offset : Int
  passList : List Nat
  passBend : Bool
  passPressure : Bool
  passSustain : Bool
  deriving DecidableEq, Repr

/-- A serial message: its bytes with the full status byte first (R101). -/
abbrev Message := List Byte

/-- A setup message with its voice port (R117). -/
structure SetupMessage where
  voice : Fin 8
  message : Message
  deriving DecidableEq, Repr

/-- A scene as stored in a scene store, with its number (R112, R117). -/
structure Scene where
  number : Nat
  layers : List Layer
  setup : List SetupMessage
  deriving DecidableEq, Repr

/-! ### Click generator (Chapter 3) -/

/-- One sound of click memory: the samples up to the last one written (those after it are 0) and the length. -/
structure Sound where
  samples : List Halfword
  length : Nat
  deriving DecidableEq, Repr

/-- A mix's playback cursor (3.1). -/
structure Cursor where
  sound : Option (Fin 4)
  position : Nat
  level : Nat
  running : Bool
  deriving DecidableEq, Repr

/-- A mix record with its cursor (3.1). -/
structure Mix where
  levels : ByClass
  trim : Nat
  mute : Bool
  cursor : Cursor
  deriving DecidableEq, Repr

structure ClickGen where
  sounds : Vector Sound 4
  mixes : Vector Mix 8
  deriving DecidableEq, Repr

/-! ### Player ports (Chapter 4) -/

inductive Parser where
  | idle | collecting | skipping
  deriving DecidableEq, Repr

/-- A port's channel filter; the channel is the MIDI channel minus 1 (R54). -/
inductive ChannelFilter where
  | omni
  | only (channel : Fin 16)
  deriving DecidableEq, Repr

inductive Pedal where
  | up | down
  deriving DecidableEq, Repr

/-- A player port (4.1). -/
structure PlayerPort where
  enabled : Bool
  filter : ChannelFilter
  tapController : Option Nat
  parser : Parser
  running : Option Byte
  expected : Nat
  held : Option Byte
  skip : Nat
  pedal : Pedal
  tapHigh : Bool
  deriving DecidableEq, Repr

/-! ### Note tracker (Chapter 6) -/

/-- A note destination of a held-note entry, with its delivered flag (6.1). -/
structure NoteDest where
  dest : Dest
  key : Nat
  delivered : Bool
  deriving DecidableEq, Repr

/-- Sounding, or Owed with the release velocity recorded (6.1). -/
inductive HeldState where
  | sounding
  | owed (velocity : Nat)
  deriving DecidableEq, Repr

/-- A held-note entry (6.1); its age is its place in the table. -/
structure HeldEntry where
  player : Fin 4
  key : Nat
  state : HeldState
  dests : List NoteDest
  deriving DecidableEq, Repr

/-- A destination in a fan-out set: Held, or UpOwed (R91). -/
structure FanEntry where
  dest : Dest
  upOwed : Bool
  deriving DecidableEq, Repr

/-- An UpOwed destination in a voice port's up-owed order, with the player port whose set holds it (R91). -/
structure UpOwed where
  player : Fin 4
  dest : Dest
  deriving DecidableEq, Repr

structure Tracker where
  table : List HeldEntry
  fan : Vector (List FanEntry) 4
  upOwed : Vector (List UpOwed) 8
  deriving DecidableEq, Repr

/-! ### Voice ports (Chapter 7) -/

/-- The real-time bytes the timeline requests (R108). -/
inductive RtByte where
  | clock | start | resume | stop
  deriving DecidableEq, Repr

/-- Where the byte in progress came from. -/
inductive TxSource where
  | queue
  | slot
  /-- a byte under way at a reset, completed although its message or slot is gone (R111) -/
  | cut
  deriving DecidableEq, Repr

inductive Transmitter where
  | idle
  | sending (byte : Byte) (source : TxSource)
  deriving DecidableEq, Repr

/-- A voice port (7.1). The field sent is the message in progress: the head message, with how many of its bytes
have been sent. -/
structure VoicePort where
  enabled : Bool
  clockOut : Bool
  queue : List Message
  slot : List RtByte
  tx : Transmitter
  sent : Option Nat
  deriving DecidableEq, Repr

/-- The eight voice ports with the reserve count they share (R100). -/
structure Voices where
  reserve : Nat
  ports : Vector VoicePort 8
  deriving DecidableEq, Repr

/-! ### Library watch (Chapter 10) -/

/-- The region kinds in their order of strictness, least first (10.3). -/
inductive RegionKind where
  /-- Open -/
  | openWrite
  | live
  | staged
  | guarded
  deriving DecidableEq, Repr

inductive Policy where
  | normal | hold | freeze
  deriving DecidableEq, Repr

/-- An enabled window of the region table: base, the size's power of two, kind (R157). -/
structure Window where
  base : Nat
  sizeLog : Nat
  kind : RegionKind
  deriving DecidableEq, Repr

/-- A valid region table with its library policy (R157); a disabled window is none. -/
structure RegionTable where
  pages : Vector RegionKind 16
  windows : Vector (Option Window) 4
  policy : Policy
  deriving DecidableEq, Repr

inductive RecordKind where
  | song | scene | click
  deriving DecidableEq, Repr

/-- The state of a resident entry; Settling carries its countdown (R165). -/
inductive ResidentState where
  | current
  | settling (countdown : Nat)
  | refreshing
  | stale
  deriving DecidableEq, Repr

/-- A present entry of the resident set (R165). -/
structure Resident where
  kind : RecordKind
  number : Nat
  base : Nat
  length : Nat
  state : ResidentState
  refetch : Nat
  deriving DecidableEq, Repr

/-- The resident set: one entry for each role (R165). -/
structure ResidentSet where
  activeSong : Option Resident
  shadowSong : Option Resident
  activeScene : Option Resident
  shadowScene : Option Resident
  clicks : Vector (Option Resident) 4
  deriving DecidableEq, Repr

/-- The engine state of an engine-owned slot (R134). -/
inductive SlotState where
  | posted | working | waiting
  deriving DecidableEq, Repr

/-- An entry of the slot ownership table (R134). -/
inductive SlotOwner where
  | host
  | engine (state : SlotState)
  deriving DecidableEq, Repr

structure Watch where
  region : RegionTable
  residents : ResidentSet
  owners : Vector SlotOwner 32
  takenCopy : Word
  deriving DecidableEq, Repr

/-! ### Cue unit (Chapter 9) -/

inductive Boundary where
  | now | beat | bar | newSection
  deriving DecidableEq, Repr

inductive TransportAction where
  | start | stop | pause | resume
  deriving DecidableEq, Repr

/-- The kinds of cue with their parameters, as read at take (R140). -/
inductive Cue where
  | songLoad (song : Nat) (start : Nat) (autoStart : Bool)
  | sectionJump (target : Nat)
  | vampSet
  | vampRelease (nextBar : Bool)
  | transport (action : TransportAction)
  | tempoSet (target : Nat) (ramp : Nat) (keep : Bool)
  | tapFollow (on : Bool)
  | mixSet (mix : Fin 8) (levels : ByClass) (trim : Nat) (mute : Bool)
  | clickSoundLoad (sound : Fin 4) (address : Nat) (length : Nat)
  | sceneRefresh
  | remap (address : Nat)
  | clockSelect (source : ClockSource)
  deriving DecidableEq, Repr

/-- The outcomes of a cue (9.7). -/
inductive CueOutcome where
  | ok | okLate | okPartial | superseded | blank | reserved | unknown | badParam | badSong | badScene
  | notReady | armFull | unstable | engineStopped | badMap
  deriving DecidableEq, Repr

/-- The values of a slot's state byte (12.4). -/
inductive BoardState where
  | free | posted | working | waiting | done | refused | withdrawn | withdraw
  deriving DecidableEq, Repr

/-- An armed cue (9.1). wait is the boundary it now waits for: its own, or Bar for a late Section cue (R125).
working is its readiness (R143). atBoundary says that it fell due on an announcement, and not at once (R124, R125,
R126). read holds the words of a Remap's table read in progress, table the table it
read (R147). -/
structure ArmedCue where
  slot : Fin 32
  cue : Cue
  boundary : Boundary
  notify : Bool
  working : Bool
  due : Bool
  atBoundary : Bool
  wait : Boundary
  missed : Nat
  read : Option (List Byte)
  table : Option RegionTable
  deriving DecidableEq, Repr

/-- A take read in progress: the slot and the bytes read (9.1). -/
structure TakeRead where
  slot : Fin 32
  bytes : List Byte
  deriving DecidableEq, Repr

/-- A word of a cue slot that the part writes (12.4): the state word, word 4 with the answer, or words 5, 6 and 7
with the stamp. -/
inductive SlotWord where
  | state (value : BoardState)
  | answer (outcome : CueOutcome) (missed : Nat) (shortPorts : BitVec 8)
  | position (stamp : Stamp)
  | positionEnd (stamp : Stamp)
  | frameCount (stamp : Stamp)
  deriving DecidableEq, Repr

/-- An item of the write list: the words of the slot still to be written, in order; whether it is a result, and
whether its end raises CueNotice (R148). -/
structure WriteItem where
  slot : Fin 32
  words : List SlotWord
  result : Bool
  notice : Bool
  deriving DecidableEq, Repr

structure CueUnit where
  posted : List (Fin 32)
  take : Option TakeRead
  arms : List ArmedCue
  writes : List WriteItem
  deriving DecidableEq, Repr

/-! ### Scene loader (Chapter 8) -/

/-- The owner of the shadow (R112). A Refresh names the record being refreshed and whether the active scene is
still to be refreshed after it (R146). A Lookahead names the scene it holds or fetches. -/
inductive ShadowOwner where
  | cue (slot : Fin 32)
  | lookahead (scene : Nat)
  | refreshSong (sceneNext : Bool)
  | refreshScene
  deriving DecidableEq, Repr

/-- What the next word of a shadow fetch belongs to (R115). -/
inductive FetchStage where
  | songIndex | songRecord | sceneIndex | sceneRecord
  deriving DecidableEq, Repr

/-- A shadow fetch in progress (R112, R115): its stage, the numbers of the records it fetches, the base and the
bytes of the record it is reading. songLoad: a scene part follows the song part. indexed: the fetch began at the
index, so a restart goes back to it. start: the start section that R116 checks. also: the other shadow record is to
be refetched after this one, in a fetch of its own (R120; log 14). count: its refetch count (R118). -/
structure ShadowFetch where
  stage : FetchStage
  songLoad : Bool
  indexed : Bool
  song : Nat
  scene : Nat
  start : Option Nat
  also : Bool
  base : Nat
  bytes : List Byte
  count : Nat
  deriving DecidableEq, Repr

/-- The last lookahead trigger (R40). -/
inductive Trigger where
  | toSection (target : Nat)
  | toEnd
  deriving DecidableEq, Repr

/-- The causes of a switch that is no cue's (R122, R123). -/
inductive SectionCause where
  | sectionEntry | park
  deriving DecidableEq, Repr

/-- A late section switch (R112, R122). waiting: the fetch begins only when the shadow is freed. atOnce: it is
made as soon as the shadow is ready, in every clock state. announced: the announcements counted for SwitchLate,
or none when no SwitchLate is journaled for it. -/
structure LateSwitch where
  target : Nat
  scene : Nat
  cause : SectionCause
  waiting : Bool
  atOnce : Bool
  announced : Option Nat
  deriving DecidableEq, Repr

/-- What a held switch is for (R112, R128). A section's carries the section, its scene and the count of
announcements if it was late. -/
inductive HeldCause where
  | cue (slot : Fin 32)
  | entry (target : Nat) (scene : Nat) (cause : SectionCause) (announced : Option Nat)
  deriving DecidableEq, Repr

structure HeldSwitch where
  cause : HeldCause
  countdown : Nat
  deriving DecidableEq, Repr

/-- Why a click sound is being fetched: by Starting (R43), by a ClickSoundLoad (R51), or in place (R52). -/
inductive ClickFetchKind where
  | starting | load | refresh
  deriving DecidableEq, Repr

/-- A click sound fetch in progress: base, the sound's length when it ends, words in all and words read. -/
structure ClickFetch where
  kind : ClickFetchKind
  base : Nat
  length : Nat
  words : Nat
  done : Nat
  deriving DecidableEq, Repr

structure Loader where
  activeSong : Option Song
  activeScene : Option Scene
  shadowSong : Option Song
  shadowScene : Option Scene
  owner : Option ShadowOwner
  ready : Bool
  fetch : Option ShadowFetch
  trigger : Option Trigger
  late : Option LateSwitch
  held : Option HeldSwitch
  holdLimit : Nat
  clickFetches : Vector (Option ClickFetch) 4
  turn : Fin 5
  deriving DecidableEq, Repr

/-! ### Memory arbiter (10.6) -/

/-- The engine requesters in the rotation's order (R170). -/
inductive Requester where
  | cueUnit | sceneLoader | noticeUnit
  deriving DecidableEq, Repr

structure Arbiter where
  rotation : Requester
  hostRun : Nat
  hostRunLimit : Nat
  deriving DecidableEq, Repr

/-! ### Journal (11.4) -/

inductive PanicSource where
  | mail | stopping
  deriving DecidableEq, Repr

/-- Why a lookahead's fetch failed (R119), or a refresh (R133). -/
inductive BadReason where
  | invalid | unstable
  deriving DecidableEq, Repr

/-- The reasons of RecordStale (R168). -/
inductive StaleReason where
  | staged | deferred | displaced | invalid | unstable | remap
  deriving DecidableEq, Repr

/-- What a SceneSwitched or SwitchPartial entry names as the cause of its switch (R130, R132). -/
inductive SwitchCause where
  | cue | sectionEntry | park
  deriving DecidableEq, Repr

/-- What a SwitchLate entry reports: a cue's slot with its boundary, or a section (R122, R125). -/
inductive LateSource where
  | cue (slot : Fin 32) (boundary : Boundary)
  | sectionEntry (target : Nat)
  deriving DecidableEq, Repr

/-- The journal kinds with their detail fields (11.4, 12.5). -/
inductive JournalEvent where
  | songChanged (outSong : Option Nat) (inSong : Nat) (outScene : Option Nat) (inScene : Option Nat)
      (layers : BitVec 8) (start : Nat) (outcome : CueOutcome)
  | sectionEntered (cause : EntryCause) (target : Nat) (pass : Nat)
  | sceneSwitched (cause : SwitchCause) (target : Nat) (outScene : Option Nat) (inScene : Nat)
      (layers : BitVec 8)
  | switchLate (source : LateSource) (missed : Nat)
  | switchPartial (cause : SwitchCause) (shortPorts : BitVec 8) (dropped : Nat)
  | sectionSceneSkipped (target : Nat) (scene : Nat)
  | sceneBad (scene : Nat) (reason : BadReason)
  | noteStolen (player : Fin 4) (key : Nat) (owed : Nat)
  | noteDroppedTableFull (player : Fin 4) (key : Nat) (count : Nat)
  | noteDroppedPortFull (player : Fin 4) (key : Nat) (count : Nat)
  | controlDropped (dest : Dest) (controller : Nat)
  | guardRefused (roles : List Role) (address : Nat) (policy : Policy) (directory : Bool)
  | recordStale (role : Role) (kind : RecordKind) (number : Nat) (reason : StaleReason)
  | recordRefreshed (role : Role) (kind : RecordKind) (number : Nat)
  | clickSkipped (cls : ClickClass) (sound : Nat)
  | clockFallback
  | tapMeasured (count : Nat) (tempo : Nat)
  | withdrawLate (slot : Fin 32)
  | panic (source : PanicSource) (released : Nat) (owed : Nat)
  | songEnded (song : Nat)
  | gap (unwritten : Nat)
  deriving DecidableEq, Repr

/-- An accepted entry: the event and the stamp taken when it was handed over (R182). -/
structure JournalEntry where
  event : JournalEvent
  stamp : Stamp
  deriving DecidableEq, Repr

/-- The journal's place, size in entries and threshold, from the directory (R181). -/
structure JournalConfig where
  base : Nat
  size : Nat
  threshold : Nat
  deriving DecidableEq, Repr

/-- The notice unit's journal state (R181). wordsDone counts the words of the oldest accepted entry already
written; headPending is the 0 still to be written into the written-count word when Running begins. -/
structure Notice where
  config : Option JournalConfig
  written : Word
  taken : Word
  overflow : Bool
  unwritten : Nat
  accepted : List JournalEntry
  wordsDone : Nat
  headPending : Bool
  deriving DecidableEq, Repr

/-! ### The directory as taken (R156) -/

structure VoiceConfig where
  enabled : Bool
  clockOut : Bool
  deriving DecidableEq, Repr

structure PlayerConfig where
  enabled : Bool
  filter : ChannelFilter
  tapController : Option Nat
  deriving DecidableEq, Repr

/-- An entry of the click sound table: address and length, clamped to 2048 (R43). -/
structure SoundEntry where
  address : Nat
  length : Nat
  deriving DecidableEq, Repr

structure MixDefault where
  levels : ByClass
  trim : Nat
  mute : Bool
  deriving DecidableEq, Repr

/-- The directory's values after the checks, each clamped as R156 states. -/
structure Directory where
  rate : SampleRate
  source : ClockSource
  reserve : Nat
  holdMs : Nat
  hostRunLimit : Nat
  journal : JournalConfig
  layout : Layout
  voices : Vector VoiceConfig 8
  players : Vector PlayerConfig 4
  sounds : Vector SoundEntry 4
  mixes : Vector MixDefault 8
  region : RegionTable
  deriving DecidableEq, Repr

/-- How far Starting has come (R154): the directory bytes read, or the checked directory while the click sounds
are read. -/
inductive Starting where
  | none
  | reading (bytes : List Byte)
  | loading (directory : Directory)
  deriving DecidableEq, Repr

/-! ### The part and the whole state -/

/-- Everything the part holds but the strap. -/
structure Part where
  engine : EngineState
  startError : StartError
  starting : Starting
  layout : Layout
  mail : Mail
  irq : Interrupts
  timeline : Timeline
  pointer : SongPointer
  click : ClickGen
  tdm : Vector Word 8
  players : Vector PlayerPort 4
  flags : BitVec 8
  tracker : Tracker
  voices : Voices
  loader : Loader
  cues : CueUnit
  watch : Watch
  arbiter : Arbiter
  notice : Notice
  deriving DecidableEq, Repr

/-- The state: the commands waiting, first in first out; the shared RAM; the sampled ORDER strap; the host's data
lines as a read last drove them; the counter of free values drawn (log 6); the part. -/
structure State where
  pending : List Instr
  mem : Memory
  order : ByteOrder
  hostData : Halfword
  freeCount : Nat
  part : Part
  deriving DecidableEq, Repr

/-- The reasons a step can end the machine. The spec gives the part no stop: every error it names is an outcome,
a start error, a journal entry or an interrupt cause. So no reason exists and no step faults. -/
inductive Fault where
  deriving DecidableEq, Repr

/-- The reasons a step can be refused. -/
inductive Refusal where
  /-- An instruction that has no meaning yet, by its mnemonic. Raised by no arm of exec; safe. -/
  | notModelled (mnemonic : String)
  deriving DecidableEq, Repr

/-! ### Values after a power-on reset -/

/-- R1. -/
def Timeline.reset : Timeline where
  rate := .khz48
  source := .internal
  monitor := .absent
  clock := .idle
  pausedFrom := none
  startPending := false
  acc := 0
  beatOpen := true
  tempo := 12000
  plan := none
  lastTap := none
  intervals := []
  tapFollow := false
  frame := 0
  startByte := .none

/-- R24. -/
def SongPointer.reset : SongPointer where
  loaded := false
  startSection := 0
  phase := .song
  sectionIndex := 0
  pass := 1
  bar := 1
  countInBar := 1
  beat := 1
  lastTick := 0
  vamp := false
  leave := false
  entry := none
  barsPlayed := 0

/-- An ended cursor as R42 leaves it. -/
def Cursor.ended : Cursor := { sound := none, position := 0, level := 0, running := false }

/-- R42. -/
def ClickGen.reset : ClickGen where
  sounds := Vector.replicate 4 { samples := [], length := 0 }
  mixes := Vector.replicate 8
    { levels := { downbeat := 0, beat := 0, sub := 0, countIn := 0 }, trim := 0, mute := false,
      cursor := Cursor.ended }

/-- R54; the expected data count has no reset value in the spec (log 21). -/
def PlayerPort.reset : PlayerPort where
  enabled := false
  filter := .omni
  tapController := none
  parser := .idle
  running := none
  expected := 1
  held := none
  skip := 0
  pedal := .up
  tapHigh := false

/-- R81. -/
def Tracker.reset : Tracker where
  table := []
  fan := Vector.replicate 4 []
  upOwed := Vector.replicate 8 []

/-- R100, with the transmitter Idle. -/
def VoicePort.reset : VoicePort where
  enabled := false
  clockOut := false
  queue := []
  slot := []
  tx := .idle
  sent := none

/-- R100. -/
def Voices.reset : Voices := { reserve := 8, ports := Vector.replicate 8 VoicePort.reset }

/-- R112: 50 ms at 48 kHz is 2,400 frames. -/
def Loader.reset : Loader where
  activeSong := none
  activeScene := none
  shadowSong := none
  shadowScene := none
  owner := none
  ready := false
  fetch := none
  trigger := none
  late := none
  held := none
  holdLimit := 2400
  clickFetches := Vector.replicate 4 none
  turn := 0

/-- R135. -/
def CueUnit.reset : CueUnit := { posted := [], take := none, arms := [], writes := [] }

/-- R159: every page Open, every window disabled, policy Normal. -/
def RegionTable.reset : RegionTable where
  pages := Vector.replicate 16 .openWrite
  windows := Vector.replicate 4 none
  policy := .normal

/-- R165: every entry absent. -/
def ResidentSet.reset : ResidentSet where
  activeSong := none
  shadowSong := none
  activeScene := none
  shadowScene := none
  clicks := Vector.replicate 4 none

/-- R135, R159, R165. -/
def Watch.reset : Watch where
  region := RegionTable.reset
  residents := ResidentSet.reset
  owners := Vector.replicate 32 .host
  takenCopy := 0

/-- R172. -/
def Arbiter.reset : Arbiter := { rotation := .cueUnit, hostRun := 0, hostRunLimit := 8 }

/-- R181. -/
def Notice.reset : Notice where
  config := none
  written := 0
  taken := 0
  overflow := false
  unwritten := 0
  accepted := []
  wordsDone := 0
  headPending := false

/-- The part after a power-on reset. -/
def Part.reset : Part where
  engine := .stopped
  startError := .none
  starting := .none
  layout := { cueBoard := 0, songIndex := 0, sceneIndex := 0 }
  mail := { inValue := 0, inFull := false, outValue := 0, outFull := false }
  irq := { status := 0, mask := 0 }
  timeline := Timeline.reset
  pointer := SongPointer.reset
  click := ClickGen.reset
  tdm := Vector.replicate 8 0
  players := Vector.replicate 4 PlayerPort.reset
  flags := 0
  tracker := Tracker.reset
  voices := Voices.reset
  loader := Loader.reset
  cues := CueUnit.reset
  watch := Watch.reset
  arbiter := Arbiter.reset
  notice := Notice.reset

/-- The machine right after a power-on reset, with no command waiting and nothing listed in memory. -/
def State.reset : State where
  pending := []
  mem := { cells := [] }
  order := .leastFirst
  hostData := 0
  freeCount := 0
  part := Part.reset

end Sys2Proof.Machine
end

