-- ==== Sys2Proof/Machine/Ops.lean ====
section
/-! DEFINITION. The operations every block uses: reading and writing the shared RAM, fields in the strap's byte
order, position stamps, handing an event to the journal, raising an interrupt cause. -/

namespace Sys2Proof.Machine

/-! ### Shared RAM -/

/-- The RAM port names 2^16 words (11.6), so an address is taken modulo 256 KiB (log 40). -/
def ramAddress (address : Nat) : Nat := address % Config.ramBytes

/-- The value of a cell list at an address. -/
def cellsRead : List Host.Cell → Nat → Byte
  | [], _ => Config.unlistedByte
  | (b, v) :: rest, a => if a = b then v else cellsRead rest a

/-- Writing one byte into a cell list in canonical form. -/
def cellsWrite : List Host.Cell → Nat → Byte → List Host.Cell
  | [], a, v => if v = Config.unlistedByte then [] else [(a, v)]
  | (b, w) :: rest, a, v =>
    if a < b then
      if v = Config.unlistedByte then (b, w) :: rest else (a, v) :: (b, w) :: rest
    else if a = b then
      if v = Config.unlistedByte then rest else (a, v) :: rest
    else (b, w) :: cellsWrite rest a v

/-- A cell list is canonical from an address on: addresses rise strictly, lie in the RAM, and no cell holds the
unlisted value. -/
def cellsWf : Nat → List Host.Cell → Bool
  | _, [] => true
  | low, (a, v) :: rest =>
    decide (low ≤ a) && decide (a < Config.ramBytes) && v != Config.unlistedByte && cellsWf (a + 1) rest

/-- The canonical form of memory. -/
def Memory.wf (m : Memory) : Bool := cellsWf 0 m.cells

/-- One byte of shared memory. -/
def Memory.read (m : Memory) (address : Nat) : Byte := cellsRead m.cells (ramAddress address)

/-- Memory with one byte written. -/
def Memory.write (m : Memory) (address : Nat) (value : Byte) : Memory :=
  { cells := cellsWrite m.cells (ramAddress address) value }

/-- Memory with a run of bytes written from an address upward. -/
def Memory.writeBytes : Memory → Nat → List Byte → Memory
  | m, _, [] => m
  | m, a, v :: rest => (m.write a v).writeBytes (a + 1) rest

/-- The four bytes of the word at an address, lowest address first. -/
def Memory.readWord (m : Memory) (address : Nat) : List Byte :=
  [m.read address, m.read (address + 1), m.read (address + 2), m.read (address + 3)]

/-- The memory that holds the listed cells, later ones over earlier ones. -/
def Memory.ofCells (cells : List (Nat × Byte)) : Memory :=
  cells.foldl (fun m c => m.write c.1 c.2) { cells := [] }

/-! ### Fields in the strap's byte order (R186) -/

/-- The number a run of bytes holds, least significant byte first. -/
def leastFirstValue : List Byte → Nat
  | [] => 0
  | b :: rest => b.toNat + 256 * leastFirstValue rest

/-- The unsigned number that a field's bytes hold, given lowest address first. -/
def fieldValue (order : ByteOrder) (bytes : List Byte) : Nat :=
  match order with
  | .leastFirst => leastFirstValue bytes
  | .mostFirst => leastFirstValue bytes.reverse

/-- The bytes of a number, least significant first. -/
def leastFirstBytes : Nat → Nat → List Byte
  | 0, _ => []
  | n + 1, v => BitVec.ofNat 8 v :: leastFirstBytes n (v / 256)

/-- The bytes of a field of the given size, lowest address first. -/
def fieldBytes (order : ByteOrder) (size value : Nat) : List Byte :=
  match order with
  | .leastFirst => leastFirstBytes size value
  | .mostFirst => (leastFirstBytes size value).reverse

/-- The field of the given size at an offset of a record. -/
def fieldAt (order : ByteOrder) (bytes : List Byte) (offset size : Nat) : Nat :=
  fieldValue order ((bytes.drop offset).take size)

/-- The byte at an offset of a record. -/
def byteAt (bytes : List Byte) (offset : Nat) : Byte := bytes.getD offset 0

/-- The byte at an offset of a record as a number. -/
def numAt (bytes : List Byte) (offset : Nat) : Nat := (byteAt bytes offset).toNat

/-- One bit of the byte at an offset of a record. -/
def flagAt (bytes : List Byte) (offset bit : Nat) : Bool := (byteAt bytes offset).getLsbD bit

/-! ### Rates -/

/-- Frames per second. -/
def SampleRate.hz : SampleRate → Nat
  | .khz44 => 44100
  | .khz48 => 48000
  | .khz96 => 96000

/-- D, the accumulator's denominator (Introduction, Time). -/
def SampleRate.d (rate : SampleRate) : Nat := 6000 * rate.hz

/-- T, the accumulator units of one fine tick (Introduction, Time). -/
def SampleRate.t (rate : SampleRate) : Nat := rate.d / 960

/-- The settle time in frames (R167). -/
def SampleRate.settleTime (rate : SampleRate) : Nat := rate.hz / 1000

/-- A hold limit in milliseconds as frames (R112). -/
def SampleRate.holdFrames (rate : SampleRate) (ms : Nat) : Nat := ms * rate.hz / 1000

/-! ### Position stamps and the journal -/

/-- The position stamp of this moment (R24). -/
def Part.stamp (p : Part) : Stamp :=
  if p.pointer.loaded then
    { phase := p.pointer.phase, sectionIndex := p.pointer.sectionIndex, pass := p.pointer.pass,
      bar := if p.pointer.phase = .countIn then p.pointer.countInBar else p.pointer.bar,
      beat := p.pointer.beat, tick := p.pointer.lastTick, frame := p.timeline.frame }
  else
    { phase := .song, sectionIndex := 0, pass := 1, bar := 1, beat := 1, tick := 0,
      frame := p.timeline.frame }

/-- The fill: the written count minus the taken count, modulo 2^32 (R181). -/
def Notice.fill (n : Notice) : Nat := (n.written - n.taken).toNat

/-- Whether an entry can be accepted (R182). -/
def Notice.canAccept (n : Notice) : Bool :=
  match n.config with
  | none => false
  | some c =>
    decide (n.fill + n.accepted.length < c.size) && decide (n.accepted.length < Config.acceptedSize)

/-- An event handed to the notice unit: accepted, counted as unwritten, or, with no journal configured, neither
(R181, R182). -/
def Notice.handOver (n : Notice) (entry : JournalEntry) : Notice :=
  match n.config with
  | none => n
  | some _ =>
    if n.canAccept then { n with accepted := n.accepted ++ [entry] }
    else { n with unwritten := min (n.unwritten + 1) (2 ^ 32 - 1), overflow := true }

/-- A Gap entry is accepted when events are counted as unwritten and an entry can be accepted (R182). -/
def Notice.acceptGap (n : Notice) (stamp : Stamp) : Notice :=
  if decide (0 < n.unwritten) && n.canAccept then
    { n with accepted := n.accepted ++ [{ event := .gap n.unwritten, stamp := stamp }],
             unwritten := 0, overflow := false }
  else n

/-- A block hands an event over, with a stamp taken before. -/
def Part.journalAt (p : Part) (stamp : Stamp) (event : JournalEvent) : Part :=
  { p with notice := p.notice.handOver { event := event, stamp := stamp } }

/-- A block hands an event over, with the stamp of this moment. -/
def Part.journal (p : Part) (event : JournalEvent) : Part := p.journalAt p.stamp event

/-! ### Interrupt causes (R185) -/

/-- The bit of a cause in INT_STATUS and INT_MASK (R188). -/
def Cause.bit : Cause → Nat
  | .journalLevel => 0
  | .cueNotice => 1
  | .replyReady => 2
  | .guard => 3
  | .clockFault => 4

/-- Raising a cause sets its sticky bit. -/
def Interrupts.raise (i : Interrupts) (cause : Cause) : Interrupts :=
  { i with status := i.status ||| BitVec.twoPow 5 cause.bit }

def Part.raise (p : Part) (cause : Cause) : Part := { p with irq := p.irq.raise cause }

/-! ### Running and the shape of outcomes -/

/-- Whether the clock is CountIn or Playing. -/
def Part.clockRuns (p : Part) : Bool := p.timeline.clock = .countIn || p.timeline.clock = .playing

/-- A state with the part changed and all else kept. -/
def State.withPart (s : State) (f : Part → Part) : State := { s with part := f s.part }

/-- The outcome of a command that goes on to a state. -/
def go (s : State) : Host.Outcome State Fault Refusal := .next s

end Sys2Proof.Machine
end

