-- ==== Sys2Proof/Machine/CueList.lean ====
section
/-! DEFINITION. The cue unit's lists (Chapter 9): slot ownership, the write list, the arm list's marks. -/

namespace Sys2Proof.Machine

/-- The ownership of one slot changed (R134). -/
def Part.setOwner (p : Part) (slot : Fin 32) (owner : SlotOwner) : Part :=
  { p with watch := { p.watch with owners := p.watch.owners.set slot owner } }

def Part.ownerOf (p : Part) (slot : Fin 32) : SlotOwner := p.watch.owners[slot]

/-- The armed cue of a slot. -/
def Part.armOf (p : Part) (slot : Fin 32) : Option ArmedCue := p.cues.arms.find? fun a => a.slot == slot

/-- The armed cue of a slot changed. -/
def Part.mapArm (p : Part) (slot : Fin 32) (f : ArmedCue → ArmedCue) : Part :=
  { p with cues := { p.cues with arms := p.cues.arms.map fun a => if a.slot = slot then f a else a } }

/-- A slot's cue taken out of the arm list. -/
def Part.dropArm (p : Part) (slot : Fin 32) : Part :=
  { p with cues := { p.cues with arms := p.cues.arms.filter fun a => a.slot != slot } }

/-- An item queued: it takes the place of a state word of its slot still in the list, else the young end
(R148). -/
def queueWrite (item : WriteItem) : List WriteItem → List WriteItem
  | [] => [item]
  | w :: rest => if w.slot = item.slot ∧ ¬ w.result then item :: rest else w :: queueWrite item rest

def Part.queueItem (p : Part) (item : WriteItem) : Part :=
  { p with cues := { p.cues with writes := queueWrite item p.cues.writes } }

/-- A state word queued for an engine-owned slot (R143, R148). -/
def Part.queueState (p : Part) (slot : Fin 32) (working : Bool) : Part :=
  p.queueItem { slot := slot, words := [.state (if working then .working else .waiting)],
                result := false, notice := false }

/-- The slot state a final outcome leaves (R144, 9.7). -/
def CueOutcome.final : CueOutcome → BoardState
  | .ok | .okLate | .okPartial | .superseded => .done
  | _ => .refused

/-- The words of a result after word 4: the stamp, then the state word (R148). -/
def resultTail (stamp : Stamp) (final : BoardState) : List SlotWord :=
  [.position stamp, .positionEnd stamp, .frameCount stamp, .state final]

/-- A result queued with the stamp of this moment (R148). -/
def Part.queueResult (p : Part) (slot : Fin 32) (outcome : CueOutcome) (missed : Nat) (short : BitVec 8)
    (notify : Bool) : Part :=
  p.queueItem { slot := slot, words := .answer outcome missed short :: resultTail p.stamp outcome.final,
                result := true, notice := notify }

/-- A Withdrawn result: word 4 is not written (R148, R150, R151). -/
def Part.queueWithdrawn (p : Part) (slot : Fin 32) (notify : Bool) : Part :=
  p.queueItem { slot := slot, words := resultTail p.stamp .withdrawn, result := true, notice := notify }

/-- A cue over: it leaves the arm list, its slot becomes host-owned and its result is queued (R144). -/
def Part.endCue (p : Part) (a : ArmedCue) (outcome : CueOutcome) (short : BitVec 8) : Part :=
  ((p.dropArm a.slot).setOwner a.slot .host).queueResult a.slot outcome a.missed short a.notify

/-- An armed cue becomes Working or Waiting: its readiness, its slot's engine state and a state word (R143). -/
def Part.setWorking (p : Part) (slot : Fin 32) (working : Bool) : Part :=
  ((p.mapArm slot fun a => { a with working := working }).setOwner slot
    (.engine (if working then .working else .waiting))).queueState slot working

/-- The clock has left the running states: every armed cue still waiting becomes due at once (R124). -/
def Part.cuesDueAtOnce (p : Part) : Part :=
  { p with cues := { p.cues with arms := p.cues.arms.map fun a => { a with due := true } } }

/-- Whether an announcement of a kind meets a cue's wait (R124). -/
def Boundary.metBy : Boundary → BoundaryKind → Bool
  | .now, _ => false
  | .beat, _ => true
  | .bar, .beat => false
  | .bar, _ => true
  | .newSection, .newSection => true
  | .newSection, _ => false

/-- Whether the cue is one of the two scene-changing kinds (R139). -/
def Cue.sceneChanging : Cue → Bool
  | .songLoad _ _ _ => true
  | .sectionJump _ => true
  | _ => false

/-- The boundary a late cue waits for next (R125). -/
def Boundary.afterLate : Boundary → Boundary
  | .newSection => .bar
  | b => b

/-- A cue passed on at a boundary because its shadow is not ready (R125). -/
def ArmedCue.passedOn (a : ArmedCue) : ArmedCue :=
  { a with missed := a.missed + 1, wait := a.wait.afterLate, due := false, atBoundary := false }

/-- What an announcement does to one armed cue: it falls due, is passed on, or waits (R124, R125, R147). -/
def ArmedCue.announce (kind : BoundaryKind) (a : ArmedCue) : ArmedCue :=
  if a.due || !a.wait.metBy kind then a
  else if a.working && a.cue.sceneChanging then a.passedOn
  else { a with due := true, atBoundary := true }

/-- An announcement taken by the cue unit: the marks of the arm list (R124, R125). -/
def Part.markDue (p : Part) (kind : BoundaryKind) : Part :=
  { p with cues := { p.cues with arms := p.cues.arms.map (ArmedCue.announce kind) } }

end Sys2Proof.Machine
end

