-- ==== Sys2Proof/Machine/Residents.lean ====
section
/-! DEFINITION. The resident set (10.5): the entries by role, and the ways they change. -/

namespace Sys2Proof.Machine

/-- The entry of a role (R165). -/
def ResidentSet.get (r : ResidentSet) : Role → Option Resident
  | .activeSong => r.activeSong
  | .shadowSong => r.shadowSong
  | .activeScene => r.activeScene
  | .shadowScene => r.shadowScene
  | .click i => r.clicks[i]

/-- The entry of a role replaced. -/
def ResidentSet.put (r : ResidentSet) (role : Role) (entry : Option Resident) : ResidentSet :=
  match role with
  | .activeSong => { r with activeSong := entry }
  | .shadowSong => { r with shadowSong := entry }
  | .activeScene => { r with activeScene := entry }
  | .shadowScene => { r with shadowScene := entry }
  | .click i => { r with clicks := r.clicks.set i entry }

/-- The eight roles in the order of their codes (12.5). -/
def allRoles : List Role :=
  [.activeSong, .shadowSong, .activeScene, .shadowScene, .click 0, .click 1, .click 2, .click 3]

/-- The code of a role (12.5). -/
def roleCode : Role → Nat
  | .activeSong => 0
  | .shadowSong => 1
  | .activeScene => 2
  | .shadowScene => 3
  | .click i => 4 + i.val

def Part.resident (p : Part) (role : Role) : Option Resident := p.watch.residents.get role

def Part.putResident (p : Part) (role : Role) (entry : Option Resident) : Part :=
  { p with watch := { p.watch with residents := p.watch.residents.put role entry } }

/-- A present entry's state changed; an absent entry stays absent. -/
def Part.setResidentState (p : Part) (role : Role) (state : ResidentState) : Part :=
  p.putResident role ((p.resident role).map fun e => { e with state := state })

/-- An entry begun to be fetched again: Refreshing, with its refetch count at 0 (R166). It keeps the length it has until the
counts are read again (log 14). -/
def Part.beginRefreshing (p : Part) (role : Role) : Part :=
  p.putResident role ((p.resident role).map fun e => { e with state := .refreshing, refetch := 0 })

/-- An entry whose fetch completed: Current, with its refetch count back at 0 (R166). -/
def Part.makeCurrent (p : Part) (role : Role) : Part :=
  p.putResident role ((p.resident role).map fun e => { e with state := .current, refetch := 0 })

/-- An entry becomes Stale and RecordStale is journaled; an entry already Stale journals nothing (R168). -/
def Part.makeStale (p : Part) (role : Role) (reason : StaleReason) : Part :=
  match p.resident role with
  | none => p
  | some e =>
    if e.state = .stale then p
    else (p.putResident role (some { e with state := .stale, refetch := 0 })).journal
      (.recordStale role e.kind e.number reason)

/-- Whether an entry is present and Stale. -/
def Part.isStale (p : Part) (role : Role) : Bool :=
  match p.resident role with
  | none => false
  | some e => e.state == .stale

/-- Whether an entry is present and Settling. -/
def Part.isSettling (p : Part) (role : Role) : Bool :=
  match p.resident role with
  | some { state := .settling _, .. } => true
  | _ => false

/-- Whether an entry is present and Refreshing. -/
def Part.isRefreshing (p : Part) (role : Role) : Bool :=
  match p.resident role with
  | none => false
  | some e => e.state == .refreshing

/-- Whether an entry covers the byte at an address. -/
def Resident.covers (e : Resident) (address : Nat) : Bool :=
  decide (e.base ≤ address) && decide (address < e.base + e.length)

/-- The roles whose entries cover an address (R162, R164). -/
def Part.touched (p : Part) (address : Nat) : List Role :=
  allRoles.filter fun role =>
    match p.resident role with
    | none => false
    | some e => e.covers address

end Sys2Proof.Machine
end

