-- ==== Sys2Proof/Machine/Voices.lean ====
section
/-! DEFINITION. The voice ports (Chapter 7): admission, setup batches, the real-time slot, transmission. -/

namespace Sys2Proof.Machine

/-- The status byte of a channel message: its upper four bits and the channel (R83, R101). -/
def statusByte (upper : Nat) (channel : Fin 16) : Byte := BitVec.ofNat 8 (16 * upper + channel.val)

def noteOnMessage (channel : Fin 16) (key velocity : Nat) : Message :=
  [statusByte 9 channel, BitVec.ofNat 8 key, BitVec.ofNat 8 velocity]

def noteOffMessage (channel : Fin 16) (key velocity : Nat) : Message :=
  [statusByte 8 channel, BitVec.ofNat 8 key, BitVec.ofNat 8 velocity]

def controllerMessage (channel : Fin 16) (number value : Nat) : Message :=
  [statusByte 11 channel, BitVec.ofNat 8 number, BitVec.ofNat 8 value]

def programMessage (channel : Fin 16) (program : Nat) : Message :=
  [statusByte 12 channel, BitVec.ofNat 8 program]

def pressureMessage (channel : Fin 16) (pressure : Nat) : Message :=
  [statusByte 13 channel, BitVec.ofNat 8 pressure]

def bendMessage (channel : Fin 16) (value : Nat) : Message :=
  [statusByte 14 channel, BitVec.ofNat 8 (value % 128), BitVec.ofNat 8 (value / 128)]

/-- The bytes of the real-time messages (R108). -/
def RtByte.byte : RtByte → Byte
  | .clock => 0xF8
  | .start => 0xFA
  | .resume => 0xFB
  | .stop => 0xFC

/-- Free entries of a port: 64 minus the messages in the queue (R101). -/
def VoicePort.free (v : VoicePort) : Nat := Config.queueSize - v.queue.length

/-- A transmitter's choice of its next byte (R106). -/
def VoicePort.choose (v : VoicePort) : VoicePort :=
  match v.slot with
  | b :: _ => { v with tx := .sending b.byte .slot }
  | [] =>
    match v.queue with
    | [] => { v with tx := .idle }
    | message :: _ =>
      { v with tx := .sending (message.getD (v.sent.getD 0) 0) .queue, sent := some (v.sent.getD 0) }

/-- An Idle transmitter handed a byte begins it at once (R106). -/
def VoicePort.wake (v : VoicePort) : VoicePort :=
  match v.tx with
  | .idle => v.choose
  | .sending _ _ => v

/-- A message admitted: it joins the queue, or is discarded on a disabled port (R102, R105). -/
def VoicePort.accept (v : VoicePort) (message : Message) : VoicePort :=
  if v.enabled then { v with queue := v.queue ++ [message] }.wake else v

/-- The real-time slot after a request (R108). -/
def slotAfter (slot : List RtByte) (request : RtByte) : List RtByte :=
  match slot with
  | [] => [request]
  | [a] => [a, request]
  | a :: b :: rest => if b = .clock ∧ request ≠ .clock then a :: request :: rest else a :: b :: rest

/-- A real-time request at a port: made only with clock out on, discarded when disabled (R105, R108). -/
def VoicePort.request (v : VoicePort) (request : RtByte) : VoicePort :=
  if v.enabled && v.clockOut then { v with slot := slotAfter v.slot request }.wake else v

/-- The end of the byte in progress, and whether it frees the head entry (R106). -/
def VoicePort.finishByte (v : VoicePort) : VoicePort × Bool :=
  match v.tx with
  | .idle => (v, false)
  | .sending _ .cut => (v, false)
  | .sending _ .slot => ({ v with slot := v.slot.tail }, false)
  | .sending _ .queue =>
    match v.queue with
    | [] => (v, false)
    | message :: rest =>
      if v.sent.getD 0 + 1 < message.length then ({ v with sent := some (v.sent.getD 0 + 1) }, false)
      else ({ v with queue := rest, sent := none }, true)

/-- A port reports itself drained (R110); a disabled port always does. -/
def VoicePort.drained (v : VoicePort) : Bool :=
  !v.enabled || (v.queue.isEmpty && v.slot.isEmpty && v.tx == .idle)

/-- What a reset leaves of a port: a byte under way is completed, all else is at its reset value (R100, R111). -/
def VoicePort.afterReset (v : VoicePort) : VoicePort :=
  match v.tx with
  | .idle => VoicePort.reset
  | .sending byte _ => { VoicePort.reset with tx := .sending byte .cut }

/-- The admission classes (R102). -/
inductive Admission where
  | opening
  | releasing
  deriving DecidableEq, Repr

/-- Whether a port admits an offer of a class (R102, R105). -/
def Voices.admits (v : Voices) (cls : Admission) (voice : Fin 8) : Bool :=
  !v.ports[voice].enabled ||
    match cls with
    | .opening => decide (v.reserve < v.ports[voice].free)
    | .releasing => decide (1 ≤ v.ports[voice].free)

/-- One port changed. -/
def Voices.setPort (v : Voices) (voice : Fin 8) (port : VoicePort) : Voices :=
  { v with ports := v.ports.set voice port }

/-- A message put into a port whatever its free entries: what an admission does. -/
def Voices.accept (v : Voices) (voice : Fin 8) (message : Message) : Voices :=
  v.setPort voice (v.ports[voice].accept message)

/-- An offer to a port, answered at once; a message not admitted leaves the port unchanged (R102). -/
def Voices.offer (v : Voices) (cls : Admission) (voice : Fin 8) (message : Message) : Bool × Voices :=
  if v.admits cls voice then (true, v.accept voice message) else (false, v)

/-- Offers of one class made in order, each answer dropped (R77). -/
def Voices.offerAll (v : Voices) (cls : Admission) : List (Fin 8 × Message) → Voices
  | [] => v
  | (voice, message) :: rest => ((v.offer cls voice message).2).offerAll cls rest

/-- How many messages of a batch a port is named for. -/
def batchCount (batch : List SetupMessage) (voice : Fin 8) : Nat :=
  (batch.filter (fun m => m.voice = voice)).length

/-- The setup batch check: every named port has room for its messages plus the reserve (R104, R105). -/
def Voices.batchFits (v : Voices) (batch : List SetupMessage) : Bool :=
  batch.all fun m =>
    !v.ports[m.voice].enabled || decide (batchCount batch m.voice + v.reserve ≤ v.ports[m.voice].free)

/-- The admission of a whole batch in list order (R104). -/
def Voices.admitBatch (v : Voices) (batch : List SetupMessage) : Voices :=
  batch.foldl (fun v m => v.accept m.voice m.message) v

/-- A batch offered one message at a time, each as an opening message: the ports, the short ports and the number
of messages dropped (R130). -/
def Voices.forceBatch : Voices → List SetupMessage → Voices × BitVec 8 × Nat
  | v, [] => (v, 0, 0)
  | v, m :: rest =>
    let (admitted, v1) := v.offer .opening m.voice m.message
    let (v2, short, dropped) := v1.forceBatch rest
    if admitted then (v2, short, dropped) else (v2, short ||| BitVec.twoPow 8 m.voice.val, dropped + 1)

/-- A real-time request to every voice port (R20). -/
def Voices.request (v : Voices) (request : RtByte) : Voices :=
  { v with ports := Vector.ofFn fun i => (v.ports[i]).request request }

/-- The eight voice ports by number. -/
def allVoices : List (Fin 8) := [0, 1, 2, 3, 4, 5, 6, 7]

/-- Whether every voice port reports drained (R110). -/
def Voices.drained (v : Voices) : Bool := allVoices.all fun i => v.ports[i].drained

/-- The timeline's request of a real-time byte (R20). -/
def Part.requestRt (p : Part) (request : RtByte) : Part := { p with voices := p.voices.request request }

end Sys2Proof.Machine
end

