-- ==== Sys2Proof/Machine/Timeline.lean ====
section
/-! DEFINITION. The timeline and the song pointer (Chapters 1 and 2): the tempo plan, taps, placing and moving the
pointer, the lookahead trigger. -/

namespace Sys2Proof.Machine

/-! ### Sections of the active song -/

/-- A section of the active song, if it is present (R23). -/
def Part.sectionAt (p : Part) (i : Nat) : Option SongSection :=
  p.loader.activeSong.bind fun song => song.sections[i]?

/-- The section the pointer names. -/
def Part.currentSection (p : Part) : Option SongSection := p.sectionAt p.pointer.sectionIndex

/-- The active song's section count; 0 with no song. -/
def Part.sectionCount (p : Part) : Nat :=
  match p.loader.activeSong with
  | none => 0
  | some song => song.sections.length

/-- The active song's count-in bars (R23). -/
def Part.countInBars (p : Part) : Nat :=
  match p.loader.activeSong with
  | none => 0
  | some song => song.countIn

/-- The scene a section of the active song asks for; none for Keep. -/
def Part.sceneOf (p : Part) (i : Nat) : Option Nat := (p.sectionAt i).bind (·.scene)

/-! ### Tempo plan -/

/-- A tempo clamped into the legal range (R7). -/
def clampTempo (tempo : Nat) : Nat := max 2000 (min tempo 30000)

/-- base + trunc((target - base) * num / den), truncated toward zero (R8, R9). -/
def rampTempo (base target num den : Nat) : Nat :=
  ((base : Int) + Int.tdiv (((target : Int) - base) * num) den).toNat

/-- The tempo of beat k of a section (R8). -/
def SongSection.tempoAt (s : SongSection) (k : Nat) : Nat :=
  rampTempo (clampTempo s.startTempo) (clampTempo s.endTempo) k (s.bars * s.beats)

/-- The tempo of the beat numbered j of an override (R9). -/
def Override.tempoAt (o : Override) (j : Nat) : Nat :=
  if o.ramp = 0 then o.target else rampTempo o.base o.target j o.ramp

/-- The start tempo of a section of the active song. -/
def Part.startTempo (p : Part) (i : Nat) : Nat :=
  match p.sectionAt i with
  | none => p.timeline.tempo
  | some s => clampTempo s.startTempo

/-- The tempo the section schedule gives the beat the pointer names (R8). -/
def Part.scheduleTempo (p : Part) : Nat :=
  match p.pointer.phase with
  | .countIn => p.startTempo p.pointer.startSection
  | .song =>
    match p.currentSection with
    | none => p.timeline.tempo
    | some s => s.tempoAt ((p.pointer.bar - 1) * s.beats + (p.pointer.beat - 1))

/-- The tempo in force replaced. -/
def Part.setTempo (p : Part) (tempo : Nat) : Part := { p with timeline := { p.timeline with tempo := tempo } }

/-- The tempo fixed for the beat just begun; a section entry ends an override without Keep (R8, R9, R10). -/
def Part.fixTempo (p : Part) (sectionEntry : Bool) : Part :=
  match p.timeline.plan with
  | none => p.setTempo p.scheduleTempo
  | some o =>
    if sectionEntry && !o.keep then
      { p with timeline := { p.timeline with plan := none, tempo := p.scheduleTempo } }
    else
      let j := min (o.taken + 1) o.ramp
      { p with timeline := { p.timeline with plan := some { o with taken := j }, tempo := o.tempoAt j } }

/-- A TempoSet: a new override record from the tempo in force (R7, R9). -/
def Part.setOverride (p : Part) (target ramp : Nat) (keep : Bool) : Part :=
  let t := clampTempo target
  let m := min ramp 1024
  if p.clockRuns then
    { p with timeline := { p.timeline with
        plan := some { base := p.timeline.tempo, target := t, ramp := m, taken := 0, keep := keep } } }
  else
    { p with timeline := { p.timeline with
        plan := some { base := p.timeline.tempo, target := t, ramp := m, taken := m, keep := keep }
        tempo := t } }

/-- The tempo plan's change on entering Parked, with the pointer already at the start section (R10). -/
def Part.parkTempo (p : Part) : Part :=
  match p.timeline.plan with
  | none => p.setTempo (p.startTempo p.pointer.startSection)
  | some o =>
    if o.keep then
      { p with timeline := { p.timeline with plan := some { o with taken := o.ramp }, tempo := o.target } }
    else
      { p with timeline := { p.timeline with plan := none, tempo := p.startTempo p.pointer.startSection } }

/-! ### Taps (1.5) -/

/-- D * n / S rounded half up (R13). -/
def tapTempo (d n s : Nat) : Nat := (2 * d * n + s) / (2 * s)

/-- The intervals after one more, the oldest dropped if four were held (R13). -/
def pushInterval (intervals : List Nat) (i : Nat) : List Nat :=
  (if intervals.length = 4 then intervals.tail else intervals) ++ [i]

/-- The tap history replaced, with this frame as the last tap. -/
def Part.recordTap (p : Part) (intervals : List Nat) : Part :=
  { p with timeline := { p.timeline with lastTap := some p.timeline.frame, intervals := intervals } }

/-- A tap's result, journaled and, under tap follow, applied (R14). -/
def Part.tapResult (p : Part) (count tempo : Nat) : Part :=
  let p1 := p.journal (.tapMeasured count tempo)
  if p1.timeline.tapFollow then p1.setOverride tempo 0 false else p1

/-- One tap given to the timeline (R12 to R14). -/
def Part.tap (p : Part) : Part :=
  if p.engine ≠ .running then p
  else
    match p.timeline.lastTap with
    | none => p.recordTap p.timeline.intervals
    | some last =>
      let i := (p.timeline.frame - last).toNat
      if i = 0 then p
      else if 3 * p.timeline.rate.hz < i then p.recordTap []
      else
        let intervals := pushInterval p.timeline.intervals i
        let tempo := tapTempo p.timeline.rate.d intervals.length intervals.sum
        if 30000 < tempo then p.recordTap []
        else (p.recordTap intervals).tapResult intervals.length tempo

/-! ### The lookahead trigger (2.6) -/

/-- What the pointer would do if its section ended now (R40). -/
def Part.nextTrigger (p : Part) : Trigger :=
  if p.pointer.vamp then .toSection p.pointer.sectionIndex
  else if p.pointer.sectionIndex + 1 < p.sectionCount then .toSection (p.pointer.sectionIndex + 1)
  else
    match p.loader.activeSong with
    | none => .toEnd
    | some song => if song.loopLast then .toSection p.pointer.sectionIndex else .toEnd

/-- The standing trigger replaced. -/
def Part.setTrigger (p : Part) (trigger : Option Trigger) : Part :=
  { p with loader := { p.loader with trigger := trigger } }

/-- The trigger given when the condition holds; never in the count-in phase, Idle or Parked (R40). -/
def Part.giveTriggerIf (p : Part) (condition : Bool) : Part :=
  if condition && p.pointer.phase = .song && p.timeline.clock ≠ .idle && p.timeline.clock ≠ .parked then
    p.setTrigger (some p.nextTrigger)
  else p

/-- Whether the pointer's section has one bar. -/
def Part.oneBarSection (p : Part) : Bool :=
  match p.currentSection with
  | none => false
  | some s => decide (s.bars ≤ 1)

/-- Whether the pointer's bar is the last of its section for the trigger: by the bar count, or by the leave mark
(R39, R40). -/
def Part.inLastBar (p : Part) : Bool :=
  p.pointer.leave ||
    match p.currentSection with
    | none => false
    | some s => decide (s.bars ≤ p.pointer.bar)

/-! ### Moving the pointer (2.3, 2.4) -/

/-- The pointer replaced. -/
def Part.setPointer (p : Part) (pointer : SongPointer) : Part := { p with pointer := pointer }

/-- bars played one higher, saturating (R29, R32). -/
def barsAfter (bars : Nat) : Nat := min (bars + 1) 65535

/-- A section entry: the pointer at bar 1, beat 1 of the target with the pass given, the leave mark clear, the
standing trigger none, SectionEntered journaled, and a new trigger for a one-bar section (R30, R32, R121). -/
def Part.enterSection (p : Part) (target pass : Nat) (cause : EntryCause) : Part :=
  let p1 := p.setPointer { p.pointer with
    phase := .song, sectionIndex := target, pass := pass, bar := 1, beat := 1, lastTick := 0, leave := false }
  let p2 := (p1.setTrigger none).journal (.sectionEntered cause target pass)
  p2.giveTriggerIf p2.oneBarSection

/-- What is owed of Start bytes once the pending entry has landed: a landing's byte goes with the next pulse (R20). -/
def StartByte.landed : StartByte → StartByte
  | .atLanding => .nextPulse
  | .pulseAndLanding => .nextPulse
  | .none => .none
  | .nextPulse => .nextPulse

/-- What is owed of Start bytes once a segue's entry is pending: a byte owed to the next pulse stays owed (R20). -/
def StartByte.withLanding : StartByte → StartByte
  | .nextPulse => .pulseAndLanding
  | .pulseAndLanding => .pulseAndLanding
  | .none => .atLanding
  | .atLanding => .atLanding

/-- Whether a Start byte is owed to the next sync pulse (R20). -/
def StartByte.owesPulse : StartByte → Bool
  | .nextPulse => true
  | .pulseAndLanding => true
  | .none => false
  | .atLanding => false

/-- What is owed of Start bytes after a sync pulse (R20). -/
def StartByte.pulsed : StartByte → StartByte
  | .nextPulse => .none
  | .pulseAndLanding => .atLanding
  | .none => .none
  | .atLanding => .atLanding

/-- Landing on a target (R32): bars played, the vamp flag, the Start byte of a segue, and the entry. The clock state is
left as it is: a jump that lands at the first boundary after a Resume from CountIn leaves the clock CountIn in the Song
phase and owes no Start byte (log 42). A jump's landing sends the Start byte of a segue whose pending entry it has
replaced (log 20). -/
def Part.land (p : Part) (target : Nat) (cause : PendingCause) : Part :=
  let p1 := p.setPointer { p.pointer with
    entry := none
    vamp := p.pointer.vamp && target == p.pointer.sectionIndex
    barsPlayed := match cause with | .segue => 1 | .jump => barsAfter p.pointer.barsPlayed }
  let p2 := { p1 with timeline := { p1.timeline with startByte := p1.timeline.startByte.landed } }
  p2.enterSection target 1 (match cause with | .segue => .segue | .jump => .jump)

/-- The pointer at bar 1, beat 1 of Song-phase of the start section, as a Start or the end of a count-in places it,
with SectionEntered journaled and a Start byte owed to the bar's first sync pulse (R20, R27, R28). -/
def Part.startSong (p : Part) : Part :=
  let p1 := p.setPointer { p.pointer with
    phase := .song, sectionIndex := p.pointer.startSection, pass := 1, bar := 1, beat := 1, lastTick := 0,
    barsPlayed := 1 }
  let p2 := { p1 with timeline := { p1.timeline with clock := .playing, startByte := .nextPulse } }
  let p3 := p2.journal (.sectionEntered .start p2.pointer.sectionIndex 1)
  p3.giveTriggerIf (p3.oneBarSection || p3.pointer.leave)

/-- The pointer's placement at the start frame (R27). -/
def Part.placeAtStart (p : Part) : Part :=
  if p.timeline.clock = .countIn then
    p.setPointer { p.pointer with
      phase := .countIn, sectionIndex := p.pointer.startSection, pass := 1, bar := 1, countInBar := 1,
      beat := 1, lastTick := 0, barsPlayed := 0 }
  else p.startSong

/-- What an advance answers: a boundary of a kind, or the song's end (R28 to R32). -/
inductive Advance where
  | boundary (kind : BoundaryKind)
  | songEnd
  deriving DecidableEq, Repr

/-- Where the pointer goes when its section ends, with the vamp flag as read (R30, R31). -/
def Part.endSection (p : Part) (vamp early : Bool) : Part × Advance :=
  let i := p.pointer.sectionIndex
  if vamp then (p.enterSection i (min (p.pointer.pass + 1) 255) .vamp, .boundary .newSection)
  else
    let p1 := p.setPointer { p.pointer with vamp := false }
    if i + 1 < p.sectionCount then
      (p1.enterSection (i + 1) 1 (if early then .early else .advance), .boundary .newSection)
    else
      match p.loader.activeSong with
      | none => (p1, .songEnd)
      | some song =>
        if song.loopLast then (p1.enterSection i (min (p.pointer.pass + 1) 255) .loopLast, .boundary .newSection)
        else (p1, .songEnd)

/-- The advance in the Song phase with no entry pending (R29). -/
def Part.advanceSong (p : Part) (s : SongSection) : Part × Advance :=
  if p.pointer.beat + 1 ≤ s.beats then
    (p.setPointer { p.pointer with beat := p.pointer.beat + 1, lastTick := 0 }, .boundary .beat)
  else
    let p1 := p.setPointer { p.pointer with
      beat := 1, lastTick := 0, barsPlayed := barsAfter p.pointer.barsPlayed }
    if p.pointer.leave then
      (p1.setPointer { p1.pointer with leave := false }).endSection false true
    else if p.pointer.bar + 1 ≤ s.bars then
      let p2 := p1.setPointer { p1.pointer with bar := p.pointer.bar + 1 }
      (p2.giveTriggerIf (p.pointer.bar + 1 == s.bars), .boundary .bar)
    else p1.endSection p.pointer.vamp false

/-- The advance in the CountIn phase with no entry pending (R28). The count-in bar stays at the last count-in bar once the
count-in is over (log 45). -/
def Part.advanceCountIn (p : Part) (s : SongSection) : Part × Advance :=
  if p.pointer.beat + 1 ≤ s.beats then
    (p.setPointer { p.pointer with beat := p.pointer.beat + 1, lastTick := 0 }, .boundary .beat)
  else if p.pointer.countInBar + 1 ≤ p.countInBars then
    (p.setPointer { p.pointer with beat := 1, lastTick := 0, countInBar := p.pointer.countInBar + 1 },
      .boundary .bar)
  else (p.startSong, .boundary .bar)

/-- The pointer's advance at a beat boundary (R28, R29, R32). -/
def Part.advance (p : Part) : Part × Advance :=
  match p.pointer.entry with
  | some e => (p.land e.target e.cause, .boundary .newSection)
  | none =>
    match p.currentSection with
    | none => (p, .boundary .beat)
    | some s =>
      match p.pointer.phase with
      | .countIn => p.advanceCountIn s
      | .song => p.advanceSong s

/-! ### Start, song swap, jump and correction -/

/-- A Start taken (R15). -/
def Part.takeStart (p : Part) : Part :=
  { p with timeline := { p.timeline with
      clock := if 0 < p.countInBars then .countIn else .playing
      startPending := true, acc := 0, beatOpen := true } }

/-- The swap while Idle or Parked (R11, R25), with an auto-start's Start (R15). -/
def Part.swapParked (p : Part) (start : Nat) (autoStart : Bool) : Part :=
  let p1 := p.setPointer { SongPointer.reset with loaded := true, startSection := start, sectionIndex := start }
  let p2 := { p1 with timeline := { p1.timeline with
    clock := .parked, tempo := p1.startTempo start, startByte := .none } }
  if autoStart then p2.takeStart else p2

/-- The swap while CountIn, Playing or Paused: a segue (R11, R26). Segues that land at once before one sync pulse owe
that pulse one Start byte (log 20). -/
def Part.swapSegue (p : Part) (start : Nat) : Part :=
  let wasPaused := p.timeline.clock = .paused
  let open_ := p.timeline.beatOpen || p.timeline.startPending
  let p1 := p.setPointer { p.pointer with
    loaded := true, startSection := start, phase := .song, sectionIndex := start, pass := 1, bar := 1, beat := 1,
    lastTick := 0, vamp := false, leave := false,
    entry := if open_ then none else some { target := start, cause := .segue }
    barsPlayed := if open_ then 1 else 0 }
  let p2 := { p1 with timeline := { p1.timeline with
    clock := if wasPaused then .paused else .playing
    pausedFrom := if wasPaused then some .playing else p1.timeline.pausedFrom
    tempo := if wasPaused || open_ then p1.startTempo start else p1.timeline.tempo
    startByte := if open_ then .nextPulse else p1.timeline.startByte.withLanding } }
  if open_ then
    let p3 := p2.journal (.sectionEntered .segue start 1)
    p3.giveTriggerIf (p3.oneBarSection && !p3.timeline.startPending)
  else p2

/-- A song swapped in: any override ends, the standing trigger becomes none, and the clock state decides the rest
(R11, R25, R26, R121, R131). -/
def Part.songSwap (p : Part) (song : Song) (start : Nat) (autoStart : Bool) : Part :=
  let p1 := { p with loader := { p.loader with activeSong := some song, trigger := none }
                     timeline := { p.timeline with plan := none } }
  if p1.timeline.clock = .idle || p1.timeline.clock = .parked then p1.swapParked start autoStart
  else p1.swapSegue start

/-- Whether a SectionJump lands at once: the clock is Playing or Paused and the beat is open (R35). -/
def Part.landsAtOnce (p : Part) : Bool :=
  (p.timeline.clock = .playing || p.timeline.clock = .paused) && p.timeline.beatOpen

/-- A SectionJump's target handed to the timeline (R35). A landing leaves the clock and the paused-from state as they
are, CountIn too, and owes no Start byte (log 42). With the clock CountIn the bar, which is 1 in the count-in, is
brought inside the target as the beat is, since the phase can be Song there (R24; log 42); an earlier jump's entry that
is still pending stays pending, with its own target (log 42). A jump that takes the place of a segue's pending entry
leaves the Start byte owed to the landing (log 20). -/
def Part.jumpTo (p : Part) (target : Nat) : Part :=
  match p.timeline.clock with
  | .idle => p
  | .parked =>
    let p1 := p.setPointer { p.pointer with
      startSection := target, phase := .song, sectionIndex := target, pass := 1, bar := 1, beat := 1,
      vamp := p.pointer.vamp && target == p.pointer.sectionIndex }
    p1.setTempo (p1.startTempo target)
  | .countIn =>
    let (bars, beats) := match p.sectionAt target with
      | none => (p.pointer.bar, p.pointer.beat)
      | some s => (s.bars, s.beats)
    p.setPointer { p.pointer with
      startSection := target, sectionIndex := target, bar := min p.pointer.bar bars, beat := min p.pointer.beat beats }
  | .playing | .paused =>
    if p.timeline.beatOpen then
      let p1 := p.land target .jump
      match p1.timeline.plan with
      | none => p1.setTempo (p1.startTempo target)
      | some o =>
        if o.keep then p1
        else { p1 with timeline := { p1.timeline with plan := none, tempo := p1.startTempo target } }
    else p.setPointer { p.pointer with entry := some { target := target, cause := .jump } }

/-- The pointer's section when it is no longer present (R41, step 1). -/
def Part.correctSection (p : Part) : Part :=
  if p.pointer.sectionIndex < p.sectionCount then p
  else
    let last := p.sectionCount - 1
    let p1 := p.setPointer { p.pointer with
      sectionIndex := last, pass := 1, bar := 1, beat := 1, vamp := false, leave := false }
    p1.journal (.sectionEntered .refresh last 1)

/-- The other fields of the pointer brought inside the record (R41, steps 2 to 6). -/
def Part.correctFields (p : Part) : Part :=
  let last := p.sectionCount - 1
  let (bars, beats) := match p.currentSection with
    | none => (p.pointer.bar, p.pointer.beat)
    | some s => (s.bars, s.beats)
  p.setPointer { p.pointer with
    bar := min p.pointer.bar bars
    beat := min p.pointer.beat beats
    startSection := min p.pointer.startSection last
    countInBar := if p.pointer.phase = .countIn then max 1 (min p.pointer.countInBar p.countInBars)
      else p.pointer.countInBar
    entry := p.pointer.entry.map fun e => { e with target := min e.target last } }

/-- The timeline's answer to a refreshed song: the pointer corrected, the Parked tempo, the trigger (R41). The Parked tempo
is set under an override record too, and where nothing moved (log 25). -/
def Part.correctPointer (p : Part) : Part :=
  let p1 := p.correctSection.correctFields
  let p2 := if p1.timeline.clock = .parked then p1.setTempo (p1.startTempo p1.pointer.startSection) else p1
  p2.giveTriggerIf ((p2.timeline.clock = .playing || p2.timeline.clock = .paused) && p2.inLastBar)

end Sys2Proof.Machine
end

