-- ==== Sys2Proof/Machine/Router.lean ====
section
/-! DEFINITION. The layer router (Chapter 5). -/

namespace Sys2Proof.Machine

/-- Whether a layer listens to a player port (R68). -/
def Layer.listens (l : Layer) (player : Fin 4) : Bool := l.sources.getLsbD player.val

/-- One zone test on the note as received (R68). -/
def ZoneTest.passes (t : ZoneTest) (key velocity : Nat) : Bool :=
  let subject := match t.subject with | .key => key | .velocity => velocity
  match t.compare with
  | .any => true
  | .equal => subject == t.value
  | .below => decide (subject < t.value)
  | .atOrAbove => decide (t.value ≤ subject)

/-- The layer's zone (R69). -/
def Layer.zonePasses (l : Layer) (key velocity : Nat) : Bool :=
  match l.combine with
  | .and => l.testA.passes key velocity && l.testB.passes key velocity
  | .or => l.testA.passes key velocity || l.testB.passes key velocity

/-- The output key, or none when the transposed key leaves the keyboard (R70). -/
def Layer.outputKey (l : Layer) (key : Nat) : Option Nat :=
  let out : Int := key + l.transpose
  if 0 ≤ out ∧ out ≤ 127 then some out.toNat else none

/-- The output velocity: scaled by the gain with rounding half up, offset, clamped into 1 to 127 (R71). -/
def Layer.outputVelocity (l : Layer) (velocity : Nat) : Nat :=
  (max 1 (min (((velocity * l.gain + 32) / 64 : Nat) + l.offset) 127)).toNat

/-- A note destination with the velocity computed for it (R72). -/
structure RoutedNote where
  dest : Dest
  key : Nat
  velocity : Nat
  deriving DecidableEq, Repr

/-- What one layer gives for a note-on: nothing when it does not match or is skipped (R68 to R71). -/
def Layer.route (l : Layer) (player : Fin 4) (key velocity : Nat) : Option RoutedNote :=
  if l.listens player && l.zonePasses key velocity then
    (l.outputKey key).map fun out => { dest := l.dest, key := out, velocity := l.outputVelocity velocity }
  else none

/-- A list merged by destination and output key; the first keeps its place and velocity (R72). -/
def mergeNotes (notes : List RoutedNote) : List RoutedNote :=
  notes.foldl (fun out n => if out.any (fun o => o.dest = n.dest ∧ o.key = n.key) then out else out ++ [n]) []

/-- The note destinations of a note-on, in layer order (R72). -/
def routeNote (layers : List Layer) (player : Fin 4) (key velocity : Nat) : List RoutedNote :=
  mergeNotes (layers.filterMap fun l => l.route player key velocity)

/-- The activity flags that a note-on sets, from the layer numbered i upward (R73). -/
def activityFrom (player : Fin 4) (key velocity : Nat) : Nat → List Layer → BitVec 8
  | _, [] => 0
  | i, l :: rest =>
    (if (l.route player key velocity).isSome then BitVec.twoPow 8 i else 0) |||
      activityFrom player key velocity (i + 1) rest

/-- A list of destinations merged by voice port and channel, first appearance first (R74). -/
def mergeDests (dests : List Dest) : List Dest :=
  dests.foldl (fun out d => if out.contains d then out else out ++ [d]) []

/-- The destinations of a controller event (R74). -/
def controllerDests (layers : List Layer) (player : Fin 4) (number : Nat) : List Dest :=
  mergeDests ((layers.filter fun l => l.listens player && l.passList.contains number).map (·.dest))

/-- The destinations of a bend event (R75). -/
def bendDests (layers : List Layer) (player : Fin 4) : List Dest :=
  mergeDests ((layers.filter fun l => l.listens player && l.passBend).map (·.dest))

/-- The destinations of a pressure event (R75). -/
def pressureDests (layers : List Layer) (player : Fin 4) : List Dest :=
  mergeDests ((layers.filter fun l => l.listens player && l.passPressure).map (·.dest))

/-- The sustain destinations of a player port (R78). -/
def sustainDests (layers : List Layer) (player : Fin 4) : List Dest :=
  mergeDests ((layers.filter fun l => l.listens player && l.passSustain).map (·.dest))

/-- The scene's destination set (R79). -/
def sceneDests (layers : List Layer) : List Dest := mergeDests (layers.map (·.dest))

/-- The layer table in force; empty when no scene is active (R67, R79). -/
def Part.layers (p : Part) : List Layer :=
  match p.loader.activeScene with
  | none => []
  | some scene => scene.layers

/-- A controller event routed and offered (R74, R77). -/
def Part.routeController (p : Part) (player : Fin 4) (number value : Nat) : Part :=
  let offers := (controllerDests p.layers player number).map
    fun d => (d.voice, controllerMessage d.channel number value)
  { p with voices := p.voices.offerAll .opening offers }

/-- A bend event routed and offered (R75, R77). -/
def Part.routeBend (p : Part) (player : Fin 4) (value : Nat) : Part :=
  let offers := (bendDests p.layers player).map fun d => (d.voice, bendMessage d.channel value)
  { p with voices := p.voices.offerAll .opening offers }

/-- A pressure event routed and offered (R75, R77). -/
def Part.routePressure (p : Part) (player : Fin 4) (value : Nat) : Part :=
  let offers := (pressureDests p.layers player).map fun d => (d.voice, pressureMessage d.channel value)
  { p with voices := p.voices.offerAll .opening offers }

/-- The flags after a refresh swap: those of layers at or above the new layer count are cleared (R80). -/
def flagsBelow (flags : BitVec 8) (count : Nat) : BitVec 8 := flags &&& BitVec.ofNat 8 (2 ^ count - 1)

end Sys2Proof.Machine
end

