-- ==== Sys2Proof/Machine/Tracker.lean ====
section
/-! DEFINITION. The note tracker (Chapter 6): the held-note table, owed delivery, pedal fan-out, Panic. -/

namespace Sys2Proof.Machine

def HeldEntry.sounding (e : HeldEntry) : Bool := e.state == .sounding

/-- Whether every destination's note-off has been admitted (R87). -/
def HeldEntry.finished (e : HeldEntry) : Bool := e.dests.all (·.delivered)

/-- How many of an entry's destinations are not delivered. -/
def HeldEntry.undelivered (e : HeldEntry) : Nat := (e.dests.filter fun d => !d.delivered).length

/-- A note-off offered to each destination in list order (R87). -/
def releaseDests (velocity : Nat) : List NoteDest → Voices → List NoteDest × Voices
  | [], v => ([], v)
  | d :: rest, v =>
    let (admitted, v1) := v.offer .releasing d.dest.voice (noteOffMessage d.dest.channel d.key velocity)
    let (rest1, v2) := releaseDests velocity rest v1
    ({ d with delivered := d.delivered || admitted } :: rest1, v2)

/-- An entry released: Owed, with the note-offs admitted marked (R87). -/
def HeldEntry.release (e : HeldEntry) (velocity : Nat) (v : Voices) : HeldEntry × Voices :=
  let (dests, v1) := releaseDests velocity e.dests v
  ({ e with state := .owed velocity, dests := dests }, v1)

/-- Every Sounding entry that the test selects is released, oldest first; a finished entry leaves the table. The
count is that of the entries released (R84, R87, R96). -/
def releaseWhere (selected : HeldEntry → Bool) (velocity : Nat) :
    List HeldEntry → Voices → List HeldEntry × Voices × Nat
  | [], v => ([], v, 0)
  | e :: rest, v =>
    if e.sounding && selected e then
      let (e1, v1) := e.release velocity v
      let (rest1, v2, n) := releaseWhere selected velocity rest v1
      (if e1.finished then rest1 else e1 :: rest1, v2, n + 1)
    else
      let (rest1, v1, n) := releaseWhere selected velocity rest v
      (e :: rest1, v1, n)

/-- Whether an entry stands for a player port's key. -/
def HeldEntry.isFor (player : Fin 4) (key : Nat) (e : HeldEntry) : Bool := e.player == player && e.key == key

/-- The release of the Sounding entry of a key, if there is one (R84, R87). -/
def Part.releaseKey (p : Part) (player : Fin 4) (key velocity : Nat) : Part :=
  let (table, voices, _) := releaseWhere (HeldEntry.isFor player key) velocity p.tracker.table p.voices
  { p with tracker := { p.tracker with table := table }, voices := voices }

/-- Stealing from a full table: Sounding entries are released with velocity 64, oldest first, until one leaves
the table. The events are those journaled (R85, R98). -/
def stealForRoom : List HeldEntry → Voices → List HeldEntry × Voices × List JournalEvent
  | [], v => ([], v, [])
  | e :: rest, v =>
    if e.sounding then
      let (e1, v1) := e.release 64 v
      let event := JournalEvent.noteStolen e.player e.key e1.undelivered
      if e1.finished then (rest, v1, [event])
      else
        let (rest1, v2, events) := stealForRoom rest v1
        (e1 :: rest1, v2, event :: events)
    else
      let (rest1, v1, events) := stealForRoom rest v
      (e :: rest1, v1, events)

/-- Room made in a full table; a table with room is left as it is (R85). -/
def Part.makeRoom (p : Part) : Part :=
  if p.tracker.table.length < Config.tableSize then p
  else
    let (table, voices, events) := stealForRoom p.tracker.table p.voices
    events.foldl Part.journal { p with tracker := { p.tracker with table := table }, voices := voices }

/-- The note-ons of a list offered in order: the destinations admitted and the number left out (R86). -/
def offerNotes : List RoutedNote → Voices → List NoteDest × Voices × Nat
  | [], v => ([], v, 0)
  | n :: rest, v =>
    let (admitted, v1) := v.offer .opening n.dest.voice (noteOnMessage n.dest.channel n.key n.velocity)
    let (dests, v2, left) := offerNotes rest v1
    if admitted then ({ dest := n.dest, key := n.key, delivered := false } :: dests, v2, left)
    else (dests, v2, left + 1)

/-- The new note entered with the destinations whose note-on is admitted (R86). -/
def Part.enterNote (p : Part) (player : Fin 4) (key : Nat) (notes : List RoutedNote) : Part :=
  let (dests, voices, left) := offerNotes notes p.voices
  let table := if dests.isEmpty then p.tracker.table
    else p.tracker.table ++ [{ player := player, key := key, state := .sounding, dests := dests }]
  let entered := { p with voices := voices, tracker := { p.tracker with table := table } }
  if left = 0 then entered else entered.journal (.noteDroppedPortFull player key left)

/-- A note-on event with the router's list: re-strike, room, entry (R84 to R86). -/
def Part.trackNoteOn (p : Part) (player : Fin 4) (key : Nat) (notes : List RoutedNote) : Part :=
  let released := p.releaseKey player key 64
  if notes.isEmpty then released
  else
    let roomy := released.makeRoom
    if roomy.tracker.table.length < Config.tableSize then roomy.enterNote player key notes
    else roomy.journal (.noteDroppedTableFull player key notes.length)

/-- A note-on event routed, with its activity flags, and handed to the tracker (R72, R73, R84 to R86). -/
def Part.noteOn (p : Part) (player : Fin 4) (key velocity : Nat) : Part :=
  let notes := routeNote p.layers player key velocity
  let flagged := { p with flags := p.flags ||| activityFrom player key velocity 0 p.layers }
  flagged.trackNoteOn player key notes

/-! ### Owed delivery -/

/-- The undelivered note-offs of one Owed entry on a port, offered in list order; false once an offer is not
admitted (R89). -/
def deliverDests (voice : Fin 8) (velocity : Nat) : List NoteDest → Voices → List NoteDest × Voices × Bool
  | [], v => ([], v, true)
  | d :: rest, v =>
    if !d.delivered && d.dest.voice == voice then
      let (admitted, v1) := v.offer .releasing voice (noteOffMessage d.dest.channel d.key velocity)
      if admitted then
        let (rest1, v2, on) := deliverDests voice velocity rest v1
        ({ d with delivered := true } :: rest1, v2, on)
      else (d :: rest, v1, false)
    else
      let (rest1, v1, on) := deliverDests voice velocity rest v
      (d :: rest1, v1, on)

/-- The owed note-offs of a port, oldest entry first; a finished entry leaves the table (R88, R89). -/
def deliverTable (voice : Fin 8) : List HeldEntry → Voices → List HeldEntry × Voices × Bool
  | [], v => ([], v, true)
  | e :: rest, v =>
    match e.state with
    | .sounding =>
      let (rest1, v1, on) := deliverTable voice rest v
      (e :: rest1, v1, on)
    | .owed velocity =>
      let (dests, v1, on) := deliverDests voice velocity e.dests v
      let e1 := { e with dests := dests }
      if on then
        let (rest1, v2, on1) := deliverTable voice rest v1
        (if e1.finished then rest1 else e1 :: rest1, v2, on1)
      else (e1 :: rest, v1, false)

def sustainUpMessage (d : Dest) : Message := controllerMessage d.channel 64 0

def sustainDownMessage (d : Dest) : Message := controllerMessage d.channel 64 127

/-- A destination taken out of a fan-out set. -/
def fanRemove (fan : List FanEntry) (d : Dest) : List FanEntry := fan.filter fun f => f.dest != d

/-- The owed sustain-ups of a port, oldest first: what still waits, and the fan-out sets without those admitted
(R89). -/
def deliverUps (voice : Fin 8) :
    List UpOwed → Vector (List FanEntry) 4 → Voices → List UpOwed × Vector (List FanEntry) 4 × Voices
  | [], fan, v => ([], fan, v)
  | u :: rest, fan, v =>
    let (admitted, v1) := v.offer .releasing voice (sustainUpMessage u.dest)
    if admitted then deliverUps voice rest (fan.set u.player (fanRemove fan[u.player] u.dest)) v1
    else (u :: rest, fan, v1)

/-- The owed messages of a port offered when it frees an entry: note-offs, then sustain-ups, until one is not
admitted (R89). -/
def Part.deliverOwed (p : Part) (voice : Fin 8) : Part :=
  let (table, voices, on) := deliverTable voice p.tracker.table p.voices
  if on then
    let (ups, fan, voices1) := deliverUps voice p.tracker.upOwed[voice] p.tracker.fan voices
    { p with voices := voices1,
             tracker := { table := table, fan := fan, upOwed := p.tracker.upOwed.set voice ups } }
  else { p with voices := voices, tracker := { p.tracker with table := table } }

/-- The four player ports by number. -/
def allPlayers : List (Fin 4) := [0, 1, 2, 3]

/-- Whether any message is owed (R90). -/
def Tracker.owes (t : Tracker) : Bool :=
  t.table.any (fun e => !e.sounding) || allPlayers.any (fun i => t.fan[i].any (·.upOwed))

/-! ### Pedals -/

/-- Sustain-downs offered, in order, to the destinations not in the set; those admitted join as Held (R92, R94). -/
def offerDowns : List Dest → List FanEntry → Voices → List FanEntry × Voices
  | [], fan, v => (fan, v)
  | d :: rest, fan, v =>
    if fan.any (fun f => f.dest = d) then offerDowns rest fan v
    else
      let (admitted, v1) := v.offer .opening d.voice (sustainDownMessage d)
      offerDowns rest (if admitted then fan ++ [{ dest := d, upOwed := false }] else fan) v1

/-- Sustain-downs to a player port's sustain destinations in the scene in force (R92, R94). -/
def Part.sendDowns (p : Part) (player : Fin 4) : Part :=
  let (fan, voices) := offerDowns (sustainDests p.layers player) p.tracker.fan[player] p.voices
  { p with voices := voices, tracker := { p.tracker with fan := p.tracker.fan.set player fan } }

/-- UpOwed destinations of a player port's set go back to Held and leave every up-owed order (R92). -/
def Tracker.reclaim (t : Tracker) (player : Fin 4) : Tracker :=
  { t with
    fan := t.fan.set player (t.fan[player].map fun f => { f with upOwed := false })
    upOwed := Vector.ofFn fun i => t.upOwed[i].filter fun u => u.player != player }

/-- A pedal-down event (R92). -/
def Part.pedalDown (p : Part) (player : Fin 4) : Part :=
  { p with tracker := p.tracker.reclaim player }.sendDowns player

/-- Sustain-ups offered to the Held destinations of a set in order: the set left and the destinations that became
UpOwed (R93). -/
def raiseSet : List FanEntry → Voices → List FanEntry × Voices × List Dest
  | [], v => ([], v, [])
  | f :: rest, v =>
    if f.upOwed then
      let (rest1, v1, owed) := raiseSet rest v
      (f :: rest1, v1, owed)
    else
      let (admitted, v1) := v.offer .releasing f.dest.voice (sustainUpMessage f.dest)
      let (rest1, v2, owed) := raiseSet rest v1
      if admitted then (rest1, v2, owed) else ({ f with upOwed := true } :: rest1, v2, f.dest :: owed)

/-- A destination joins its voice port's up-owed order at the young end (R91). -/
def joinUpOwed (player : Fin 4) (orders : Vector (List UpOwed) 8) (d : Dest) : Vector (List UpOwed) 8 :=
  orders.set d.voice (orders[d.voice] ++ [{ player := player, dest := d }])

/-- A pedal-up event (R93). -/
def Part.pedalUp (p : Part) (player : Fin 4) : Part :=
  let (fan, voices, owed) := raiseSet p.tracker.fan[player] p.voices
  { p with voices := voices,
           tracker := { p.tracker with fan := p.tracker.fan.set player fan,
                                       upOwed := owed.foldl (joinUpOwed player) p.tracker.upOwed } }

/-- The pedal carry: each player port whose pedal is Down sends to the scene's sustain destinations not in its
set (R94). -/
def Part.carryPedals (p : Part) : Part :=
  allPlayers.foldl (fun p i => if p.players[i].pedal = .down then p.sendDowns i else p) p

/-! ### Panic -/

/-- A player port's pedal set to Up (R96). -/
def Part.setPedal (p : Part) (player : Fin 4) (pedal : Pedal) : Part :=
  { p with players := p.players.set player { p.players[player] with pedal := pedal } }

/-- All-notes-off offered to each destination in order, a refusal journaled (R97). -/
def Part.offerAllNotesOff : Part → List Dest → Part
  | p, [] => p
  | p, d :: rest =>
    let (admitted, voices) := p.voices.offer .releasing d.voice (controllerMessage d.channel 123 0)
    let offered := { p with voices := voices }
    (if admitted then offered else offered.journal (.controlDropped d 123)).offerAllNotesOff rest

/-- A Panic, with the number of Sounding entries it released (R96, R97). -/
def Part.panic (p : Part) (source : PanicSource) : Part × Nat :=
  let (table, voices, released) := releaseWhere (fun _ => true) 64 p.tracker.table p.voices
  let p1 := { p with voices := voices, tracker := { p.tracker with table := table } }
  let owed := (table.filter fun e => !e.sounding).length
  let p2 := allPlayers.foldl (fun p i => (p.setPedal i .up).pedalUp i) p1
  let p3 := p2.offerAllNotesOff (sceneDests p2.layers)
  (p3.journal (.panic source released owed), released)

end Sys2Proof.Machine
end

