-- ==== Sys2Proof/Machine/Loader.lean ====
section
/-! DEFINITION. The scene loader (Chapter 8): the shadow and its owners, lookahead and section entries, the switch,
the hold, refreshes. The reading of fetched words is in Fetch.lean. -/

namespace Sys2Proof.Machine

/-- The active scene's number. -/
def Part.activeSceneNumber (p : Part) : Option Nat := p.loader.activeScene.map (·.number)

def Part.activeSongNumber (p : Part) : Option Nat := p.loader.activeSong.map (·.number)

/-! ### Fetches begun -/

/-- A scene fetch from the scene index (R115). -/
def sceneFetch (scene : Nat) : ShadowFetch where
  stage := .sceneIndex
  songLoad := false
  indexed := true
  song := 0
  scene := scene
  start := none
  also := false
  base := 0
  bytes := []
  count := 0

/-- A SongLoad's fetch (R115). -/
def songLoadFetch (song start : Nat) : ShadowFetch where
  stage := .songIndex
  songLoad := true
  indexed := true
  song := song
  scene := 0
  start := some start
  also := false
  base := 0
  bytes := []
  count := 0

/-- A song read again from the base its entry holds (R115, R120, R133). -/
def songAgainFetch (entry : Resident) (start : Option Nat) : ShadowFetch where
  stage := .songRecord
  songLoad := false
  indexed := false
  song := entry.number
  scene := 0
  start := start
  also := false
  base := entry.base
  bytes := []
  count := 0

/-- A scene read again from the base its entry holds (R115, R120, R133). -/
def sceneAgainFetch (entry : Resident) : ShadowFetch where
  stage := .sceneRecord
  songLoad := false
  indexed := false
  song := 0
  scene := entry.number
  start := none
  also := false
  base := entry.base
  bytes := []
  count := 0

/-- The shadow owned anew, both stores empty, with a fetch begun or none. -/
def Part.ownShadow (p : Part) (owner : ShadowOwner) (fetch : Option ShadowFetch) : Part :=
  { p with loader := { p.loader with
      owner := some owner, shadowSong := none, shadowScene := none, ready := false, fetch := fetch } }

/-- The shadow emptied and without owner: stores, fetch and shadow entries gone (R114, R119). -/
def Part.emptyShadow (p : Part) : Part :=
  let p1 := { p with loader := { p.loader with
    owner := none, shadowSong := none, shadowScene := none, ready := false, fetch := none } }
  (p1.putResident .shadowSong none).putResident .shadowScene none

/-! ### Lookahead (R121) and the freeing of the shadow (R114) -/

/-- Whether the Lookahead owns the shadow, and for which scene. -/
def Part.lookaheadScene (p : Part) : Option Nat :=
  match p.loader.owner with
  | some (.lookahead scene) => some scene
  | _ => none

/-- The Lookahead claims the shadow and fetches a scene. -/
def Part.lookFor (p : Part) (scene : Nat) : Part := p.emptyShadow.ownShadow (.lookahead scene) (some (sceneFetch scene))

/-- Whether a held switch is a section's (cause Section or Park). -/
def Part.sectionHeld (p : Part) : Bool :=
  match p.loader.held with
  | some { cause := .entry _ _ _ _, .. } => true
  | _ => false

/-- The scene the standing trigger asks to be fetched, if it asks for one: the trigger names a section whose scene
is a number other than the active scene's (R121). -/
def Part.triggerWants (p : Part) : Option Nat :=
  match p.loader.trigger with
  | some (.toSection target) =>
    match p.sceneOf target with
    | none => none
    | some scene => if p.activeSceneNumber = some scene then none else some scene
  | _ => none

/-- The scene loader acts on the standing trigger (R121). While a section switch is held or late, or a cue or a
refresh owns the shadow, the trigger only stands. -/
def Part.actTrigger (p : Part) : Part :=
  if p.loader.trigger.isNone || p.loader.late.isSome || p.sectionHeld then p
  else
    match p.loader.owner, p.triggerWants with
    | some (.lookahead _), none => p.emptyShadow
    | some (.lookahead scene), some wanted => if scene = wanted then p else p.lookFor wanted
    | none, some wanted => p.lookFor wanted
    | _, _ => p

/-- A section entry still waiting for the shadow is taken up as if it had just arrived (R114, R122). -/
def Part.actWaiting (p : Part) : Part :=
  match p.loader.late with
  | none => p
  | some late =>
    if !late.waiting then p
    else
      let target := match late.cause with
        | .park => p.pointer.startSection
        | .sectionEntry => p.pointer.sectionIndex
      let dropped := { p with loader := { p.loader with late := none } }
      match p.sceneOf target with
      | none => dropped
      | some scene =>
        if p.activeSceneNumber = some scene then dropped
        else
          let claimed := p.lookFor scene
          { claimed with loader := { claimed.loader with
              late := some { late with target := target, scene := scene, waiting := false } } }

/-- The shadow freed: emptied, then the waiting section entry and the standing trigger acted on (R114). -/
def Part.freeShadow (p : Part) : Part := p.emptyShadow.actWaiting.actTrigger

/-! ### The switch (R127 to R132) -/

/-- The setup batch of the shadow scene; none when no scene is in the shadow (R127). -/
def Part.shadowBatch (p : Part) : List SetupMessage :=
  match p.loader.shadowScene with
  | none => []
  | some scene => scene.setup

/-- Whether a voice port is named in the held batch (R107, R128). -/
def Part.batchNames (p : Part) (voice : Fin 8) : Bool := p.shadowBatch.any fun m => m.voice = voice

/-- Steps 1 and 2: the shadow scene becomes the active scene, the flags are cleared, the pedals carried. With no
scene in the shadow the active scene stays and nothing is carried (R127, R131). The scene in the shadow is the one that
the SongLoad's own fetch read, whatever a refetch of its song says since (log 46). -/
def Part.swapScene (p : Part) : Part :=
  match p.loader.shadowScene with
  | none => p
  | some scene =>
    let p1 := { p with flags := 0, loader := { p.loader with activeScene := some scene } }
    p1.carryPedals

/-- Step 4's resident moves: an entry switched in becomes the active one, keeping its state (R132, R166). -/
def Part.moveResidents (p : Part) : Part :=
  let p1 := match p.loader.shadowSong with
    | none => p
    | some _ => (p.putResident .activeSong (p.resident .shadowSong)).putResident .shadowSong none
  match p.loader.shadowScene with
  | none => p1
  | some _ => (p1.putResident .activeScene (p1.resident .shadowScene)).putResident .shadowScene none

/-- The cause a section switch is journaled with. -/
def SectionCause.journaled : SectionCause → SwitchCause
  | .sectionEntry => .sectionEntry
  | .park => .park

/-- SwitchLate journaled when a count of announcements is kept (R122, R125). -/
def Part.journalLate (p : Part) (source : LateSource) : Option Nat → Part
  | none => p
  | some missed => p.journal (.switchLate source missed)

/-- A section's switch made, its setup messages already admitted or offered (R127, R132). -/
def Part.completeSection (p : Part) (target : Nat) (cause : SectionCause) (announced : Option Nat) : Part :=
  let before := p.journalLate (.sectionEntry target) announced
  let incoming := match p.loader.shadowScene with | none => 0 | some scene => scene.number
  let event := JournalEvent.sceneSwitched cause.journaled target p.activeSceneNumber incoming p.flags
  let unheld := { before with loader := { before.loader with late := none, held := none } }
  (unheld.swapScene.moveResidents.freeShadow).journal event

/-- A section's switch begun: the batch check, and the switch or the hold (R127, R128). -/
def Part.beginSection (p : Part) (target scene : Nat) (cause : SectionCause) (announced : Option Nat) : Part :=
  if p.voices.batchFits p.shadowBatch then
    ({ p with voices := p.voices.admitBatch p.shadowBatch }).completeSection target cause announced
  else
    { p with loader := { p.loader with
        late := none
        held := some { cause := .entry target scene cause announced, countdown := p.loader.holdLimit } } }

/-! ### Section entries and parking (R122, R123) -/

/-- The late section switch replaced. -/
def Part.setLate (p : Part) (late : Option LateSwitch) : Part := { p with loader := { p.loader with late := late } }

/-- The held switch replaced. -/
def Part.setHeld (p : Part) (held : Option HeldSwitch) : Part := { p with loader := { p.loader with held := held } }

/-- A late section switch as it becomes pending: a park's is made as soon as the shadow is ready and is not
journaled late (R122, R123). -/
def pendingSwitch (target scene : Nat) (cause : SectionCause) (waiting : Bool) : LateSwitch where
  target := target
  scene := scene
  cause := cause
  waiting := waiting
  atOnce := cause == .park
  announced := match cause with | .park => none | .sectionEntry => some 0

/-- A section's scene considered, with no section switch pending or held: R122's two tables. -/
def Part.considerScene (p : Part) (target : Nat) (cause : SectionCause) : Part :=
  match p.sceneOf target with
  | none => if p.lookaheadScene.isSome then p.freeShadow else p
  | some scene =>
    if p.activeSceneNumber = some scene then
      if p.lookaheadScene.isSome && p.lookaheadScene ≠ some scene then p.freeShadow else p
    else
      match p.loader.owner with
      | some (.lookahead held) =>
        if held = scene then
          if p.loader.ready then p.beginSection target scene cause none
          else p.setLate (some (pendingSwitch target scene cause false))
        else (p.lookFor scene).setLate (some (pendingSwitch target scene cause false))
      | none => (p.lookFor scene).setLate (some (pendingSwitch target scene cause false))
      | some (.refreshSong _) | some .refreshScene => p.setLate (some (pendingSwitch target scene cause true))
      | some (.cue _) => p.journal (.sectionSceneSkipped target scene)

/-- One more announcement counted toward a SwitchLate of a section (R122). -/
def LateSwitch.count (l : LateSwitch) : LateSwitch := { l with announced := l.announced.map (· + 1) }

def HeldSwitch.count (h : HeldSwitch) : HeldSwitch :=
  match h.cause with
  | .entry target scene cause announced =>
    { h with cause := .entry target scene cause (announced.map (· + 1)) }
  | .cue _ => h

/-- A section entry taken by the scene loader (R122, R129): a pending switch is cancelled, a held section switch is kept
when the entered scene is the held one and cancelled otherwise, and the entry is considered. -/
def Part.considerEntry (p : Part) : Part :=
  let p1 := p.setLate none
  match p1.loader.held with
  | some { cause := .entry _ scene _ _, .. } =>
    if p1.sceneOf p1.pointer.sectionIndex = some scene then p1
    else (p1.setHeld none).considerScene p1.pointer.sectionIndex .sectionEntry
  | _ => p1.considerScene p1.pointer.sectionIndex .sectionEntry

/-- A jump's landing at once is a section entry, considered with no announcement of its own (R35, R122). -/
def Part.considerLanding (p : Part) (lands : Bool) : Part := if lands then p.considerEntry else p

/-- What the scene loader does as the clock enters Parked: the trigger becomes none, a late and a held section
switch are cancelled, and the start section's scene is considered (R121, R123). -/
def Part.considerPark (p : Part) : Part :=
  let p1 := (p.setTrigger none).setLate none
  (if p1.sectionHeld then p1.setHeld none else p1).considerScene p1.pointer.startSection .park

/-- The pending section switch made, if its shadow is ready (R122). -/
def Part.makeLate (p : Part) : Part :=
  match p.loader.late with
  | none => p
  | some late =>
    if p.loader.ready && p.lookaheadScene = some late.scene then
      p.beginSection late.target late.scene late.cause late.announced
    else p

/-- The pending section switch made when the clock is not running, or when it is to be made at once (R122,
R123). -/
def Part.makeLateNow (p : Part) : Part :=
  match p.loader.late with
  | none => p
  | some late => if late.atOnce || !p.clockRuns then p.makeLate else p

/-- An announcement taken by the scene loader (R122): a held section switch counts it; a Section announcement is
considered; at any other, a pending section switch counts it and is made if its shadow is ready. -/
def Part.loaderAnnounce (p : Part) (kind : BoundaryKind) : Part :=
  let p1 := p.setHeld (p.loader.held.map HeldSwitch.count)
  match kind with
  | .newSection => p1.considerEntry
  | .beat | .bar => (p1.setLate (p1.loader.late.map LateSwitch.count)).makeLate

/-! ### The switch of a cue, and the held switch (R127 to R132) -/

/-- The outcome of a cue's switch: OkPartial when forced, OkLate when it missed a boundary, else Ok (R125, R130). -/
def switchOutcome (forced : Bool) (missed : Nat) : CueOutcome :=
  if forced then .okPartial else if 0 < missed then .okLate else .ok

/-- Step 3 of a cue's switch: the song swap of a SongLoad, or the target of a SectionJump (R127, R131). -/
def Part.switchSongOrJump (p : Part) (cue : Cue) : Part :=
  match cue with
  | .songLoad _ start autoStart =>
    match p.loader.shadowSong with
    | none => p
    | some song => p.songSwap song start autoStart
  | .sectionJump target => p.jumpTo target
  | _ => p

/-- The journal entry of a cue's switch (R132). The scene number incoming is none for Keep; a SongLoad's layer flags are
then given as 0, since R131 does not report them (log 44). -/
def switchEvent (cue : Cue) (outSong : Option Nat) (outScene inScene : Option Nat) (layers : BitVec 8)
    (outcome : CueOutcome) : JournalEvent :=
  match cue with
  | .songLoad song start _ =>
    .songChanged outSong song outScene inScene (if inScene.isSome then layers else 0) start outcome
  | .sectionJump target => .sceneSwitched .cue target outScene (inScene.getD 0) layers
  | _ => .sceneSwitched .cue 0 outScene (inScene.getD 0) layers

/-- Whether a cue is a jump that lands at once (R35). -/
def Part.entersByJump (p : Part) (cue : Cue) : Bool :=
  match cue with
  | .sectionJump _ => p.landsAtOnce
  | _ => false

/-- A cue's switch made, its setup messages already admitted or offered; forced carries the short ports
(R127, R130 to R132, R144). A jump that lands at once is a section entry, which the scene loader considers once the
shadow is free (R35, R122). -/
def Part.completeCue (p : Part) (a : ArmedCue) (forced : Option (BitVec 8)) : Part :=
  let outcome := switchOutcome forced.isSome a.missed
  let before := p.journalLate (.cue a.slot a.boundary) (if 0 < a.missed then some a.missed else none)
  let event := switchEvent a.cue p.activeSongNumber p.activeSceneNumber (p.loader.shadowScene.map (·.number))
    p.flags outcome
  let unheld := { before with loader := { before.loader with held := none } }
  let swapped := unheld.swapScene.switchSongOrJump a.cue
  let freed := (swapped.moveResidents.dropArm a.slot).freeShadow
  (((freed.journal event).considerLanding (unheld.entersByJump a.cue)).setOwner a.slot .host).queueResult a.slot outcome a.missed (forced.getD 0) a.notify

/-- A cue's switch begun: the batch check, and the switch or the hold (R127, R128). -/
def Part.beginCue (p : Part) (a : ArmedCue) : Part :=
  if p.voices.batchFits p.shadowBatch then
    ({ p with voices := p.voices.admitBatch p.shadowBatch }).completeCue a none
  else
    { p with loader := { p.loader with
        held := some { cause := .cue a.slot, countdown := p.loader.holdLimit } } }

/-- The held switch completed, after its setup messages; forced carries the short ports (R128, R130). -/
def Part.completeHeld (p : Part) (cause : HeldCause) (forced : Option (BitVec 8)) : Part :=
  match cause with
  | .entry target _ sectionCause announced => p.completeSection target sectionCause announced
  | .cue slot =>
    match p.armOf slot with
    | none => { p with loader := { p.loader with held := none } }
    | some a => p.completeCue a forced

/-- The re-check that a freed entry of a named port brings (R107, R128). -/
def Part.recheckHeld (p : Part) (voice : Fin 8) : Part :=
  match p.loader.held with
  | none => p
  | some held =>
    if p.batchNames voice && p.voices.batchFits p.shadowBatch then
      ({ p with voices := p.voices.admitBatch p.shadowBatch }).completeHeld held.cause none
    else p

/-- The cause a SwitchPartial entry names (R130). -/
def HeldCause.journaled : HeldCause → SwitchCause
  | .cue _ => .cue
  | .entry _ _ cause _ => cause.journaled

/-- The forced switch of a held switch whose countdown is at 0 (R130); nothing when none is. SwitchPartial stands before
the SwitchLate of a switch that is late besides (log 17). -/
def Part.expireHold (p : Part) : Part :=
  match p.loader.held with
  | none => p
  | some held =>
    if held.countdown ≠ 0 then p
    else
      let (voices, short, dropped) := p.voices.forceBatch p.shadowBatch
      let offered := { p with voices := voices }
      (offered.journal (.switchPartial held.cause.journaled short dropped)).completeHeld held.cause (some short)

/-! ### Readiness of the shadow (R120, R129, R143) -/

/-- The shadow ready: its owner is told. A cue becomes Waiting; a section switch that need not wait is made. -/
def Part.shadowReady (p : Part) : Part :=
  let p1 := { p with loader := { p.loader with ready := true } }
  match p1.loader.owner with
  | some (.cue slot) => p1.setWorking slot false
  | some (.lookahead _) => p1.makeLateNow
  | _ => p1

/-- The shadow is ready again when it is fetched and no shadow record is Settling (R120, R143). -/
def Part.checkReady (p : Part) : Part :=
  if (p.loader.shadowSong.isSome || p.loader.shadowScene.isSome) && p.loader.fetch.isNone && !p.loader.ready &&
      !p.isSettling .shadowSong && !p.isSettling .shadowScene then p.shadowReady
  else p

/-- A hold cancelled by a Live edit of the shadow: the switch begins again when the shadow is ready (R129). A section's
switch that was on time stays on time: no SwitchLate is journaled for it, which is the model's choice (log 16). -/
def Part.cancelHoldForEdit (p : Part) : Part :=
  match p.loader.held with
  | some { cause := .entry target scene cause announced, .. } =>
    (p.setHeld none).setLate (some { target := target, scene := scene, cause := cause, waiting := false,
                                     atOnce := true, announced := announced })
  | some { cause := .cue _, .. } => p.setHeld none
  | none => p

/-- The scene loader's answer to a Live edit of a fetched shadow record (R120, R129). -/
def Part.shadowEdited (p : Part) : Part :=
  let wasReady := p.loader.ready
  let p1 := { p with loader := { p.loader with ready := false } }.cancelHoldForEdit
  match p1.loader.owner with
  | some (.cue slot) => if wasReady then p1.setWorking slot true else p1
  | _ => p1

/-! ### Claims (R114) -/

/-- A section switch that a cue's claim displaces is journaled as skipped (R114). -/
def Part.cancelSectionSwitch (p : Part) : Part :=
  let p1 := match p.loader.late with
    | none => p
    | some late => (p.setLate none).journal (.sectionSceneSkipped late.target late.scene)
  match p1.loader.held with
  | some { cause := .entry target scene _ _, .. } =>
    (p1.setHeld none).journal (.sectionSceneSkipped target scene)
  | _ => p1

/-- What a scene-changing cue's claim does to the owner before it: a lookahead or a refresh is displaced (R114). -/
def Part.displaceOwner (p : Part) : Part :=
  match p.loader.owner with
  | some (.lookahead _) => p.cancelSectionSwitch.emptyShadow
  | some (.refreshSong _) => (p.makeStale .activeSong .displaced).emptyShadow
  | some .refreshScene => (p.makeStale .activeScene .displaced).emptyShadow
  | some (.cue _) | none => p.emptyShadow

/-- The shadow claimed by a scene-changing cue, with its fetch begun (R114, R115). -/
def Part.claimForCue (p : Part) (slot : Fin 32) (fetch : ShadowFetch) : Part :=
  p.displaceOwner.ownShadow (.cue slot) (some fetch)

/-- A refresh of the active song begun (R133, R166). -/
def Part.beginSongRefresh (p : Part) (sceneNext : Bool) : Part :=
  match p.resident .activeSong with
  | none => p
  | some e =>
    let p1 := (p.beginRefreshing .activeSong).putResident .shadowSong
      (some { e with state := .refreshing, refetch := 0 })
    p1.ownShadow (.refreshSong sceneNext) (some (songAgainFetch e none))

/-- A refresh of the active scene begun (R133, R166). -/
def Part.beginSceneRefresh (p : Part) : Part :=
  match p.resident .activeScene with
  | none => p
  | some e =>
    let p1 := (p.beginRefreshing .activeScene).putResident .shadowScene
      (some { e with state := .refreshing, refetch := 0 })
    p1.ownShadow .refreshScene (some (sceneAgainFetch e))

/-- The start section of the SongLoad that owns the shadow, which R116 checks in each fetch of its song. -/
def Part.ownerStart (p : Part) : Option Nat :=
  match p.loader.owner with
  | some (.cue slot) =>
    match p.armOf slot with
    | some { cue := .songLoad _ start _, .. } => some start
    | _ => none
  | _ => none

/-- The fetch that reads a shadow record again, with the refetch count its entry holds (R118, R120). -/
def Part.againFetch (p : Part) (role : Role) (e : Resident) : ShadowFetch :=
  { (if role = .shadowSong then songAgainFetch e p.ownerStart else sceneAgainFetch e) with count := e.refetch }

/-- The shadow fetch in progress replaced. -/
def Part.setFetch (p : Part) (fetch : Option ShadowFetch) : Part := { p with loader := { p.loader with fetch := fetch } }

/-- A shadow record refetched under its present owner at the end of its settle countdown, as a new fetch with its
refetch count at 0 (R120). While the other shadow record is being fetched it waits for that fetch to end, and until its
counts are read again its entry covers the whole record as it was (log 14). -/
def Part.refetchShadow (p : Part) (role : Role) : Part :=
  match p.resident role with
  | none => p
  | some e =>
    let fetch := match p.loader.fetch with
      | none => p.againFetch role { e with refetch := 0 }
      | some f => { f with also := true }
    (p.beginRefreshing role).setFetch (some fetch)

end Sys2Proof.Machine
end

