-- ==== Sys2Proof/Machine/Click.lean ====
section
/-! DEFINITION. The click generator (Chapter 3): click events, rendering, the TDM frame, mixes and click sounds. -/

namespace Sys2Proof.Machine

/-- The number for a click class. -/
def ByClass.get (b : ByClass) : ClickClass → Nat
  | .downbeat => b.downbeat
  | .beat => b.beat
  | .sub => b.sub
  | .countIn => b.countIn

/-- A sample of a sound; what was never written is 0 (R42). -/
def Sound.sample (s : Sound) (i : Nat) : Halfword := s.samples.getD i 0

/-- A sample stored at an index. -/
def putSample : List Halfword → Nat → Halfword → List Halfword
  | [], 0, v => [v]
  | [], i + 1, v => 0 :: putSample [] i v
  | _ :: rest, 0, v => v :: rest
  | x :: rest, i + 1, v => x :: putSample rest i v

/-- The eight click mixes by number. -/
def allMixes : List (Fin 8) := [0, 1, 2, 3, 4, 5, 6, 7]

/-- One mix replaced. -/
def ClickGen.setMix (c : ClickGen) (i : Fin 8) (mix : Mix) : ClickGen := { c with mixes := c.mixes.set i mix }

def ClickGen.setSound (c : ClickGen) (i : Fin 4) (sound : Sound) : ClickGen :=
  { c with sounds := c.sounds.set i sound }

/-- A cursor ended; its sound, position and level are kept but not used until it is started again (R42). -/
def Cursor.stopped (c : Cursor) : Cursor := { c with running := false }

/-- A mix's cursor restarted by a click event of a class, unless the mix is muted or its level is 0 (R47). -/
def Mix.trigger (m : Mix) (cls : ClickClass) (sound : Fin 4) : Mix :=
  if !m.mute && decide (0 < m.levels.get cls) then
    { m with cursor := { sound := some sound, position := 0, level := m.levels.get cls, running := true } }
  else m

/-- Every mix visited by a click event (R47). -/
def ClickGen.trigger (c : ClickGen) (cls : ClickClass) (sound : Fin 4) : ClickGen :=
  { c with mixes := Vector.ofFn fun i => c.mixes[i].trigger cls sound }

/-- A click event of a class; a click skipped is journaled with the position stamp of the event (R46). -/
def Part.clickEvent (p : Part) (cls : ClickClass) (stamp : Stamp) : Part :=
  match p.loader.activeSong with
  | none => p
  | some song =>
    let index := song.clickSound.get cls
    if h : index < 4 then
      let sound : Fin 4 := ⟨index, h⟩
      if p.isRefreshing (.click sound) then p.journalAt stamp (.clickSkipped cls index)
      else if p.click.sounds[sound].length = 0 then p
      else { p with click := p.click.trigger cls sound }
    else p

/-- The class of a boundary's click (R44). -/
def boundaryClass (phase : Phase) (kind : BoundaryKind) : ClickClass :=
  match phase with
  | .countIn => .countIn
  | .song => match kind with | .beat => .beat | .bar | .newSection => .downbeat

/-- Whether a fine tick is a Sub tick of a subdivision (R45). -/
def isSubTick (subdivision tick : Nat) : Bool := tick != 0 && tick % (960 / subdivision) == 0

/-- The Sub click of a fine tick, if it gives one (R45). -/
def Part.subClick (p : Part) (tick : Nat) : Part :=
  match p.pointer.phase, p.currentSection with
  | .song, some s => if isSubTick s.subdivision tick then p.clickEvent .sub p.stamp else p
  | _, _ => p

/-- floor(s * level * trim / 64), clamped to 24 bits (R48). -/
def clickValue (sample : Halfword) (level trim : Nat) : Int :=
  max (-8388608) (min ((sample.toInt * level * trim) / 64) 8388607)

/-- One mix rendered for one frame: the mix with its cursor advanced, and the output value (R48). -/
def Mix.render (m : Mix) (sounds : Vector Sound 4) : Mix × Int :=
  match m.cursor.sound with
  | none => (m, 0)
  | some sound =>
    if m.mute || !m.cursor.running then (m, 0)
    else
      let position := m.cursor.position + 1
      ({ m with cursor := { m.cursor with
          position := position, running := position != sounds[sound].length } },
        clickValue (sounds[sound].sample m.cursor.position) m.cursor.level m.trim)

/-- The TDM slot of an output value: 24 bits in the upper bits, 0 below (R53). -/
def tdmSlot (value : Int) : Word := BitVec.ofInt 32 (value * 256)

/-- One frame rendered and sent: the mixes' values while Running, else 0 in every slot (R48, R53). -/
def Part.render (p : Part) : Part :=
  if p.engine = .running then
    { p with
      click := { p.click with mixes := Vector.ofFn fun i => (p.click.mixes[i].render p.click.sounds).1 }
      tdm := Vector.ofFn fun i => tdmSlot (p.click.mixes[i].render p.click.sounds).2 }
  else { p with tdm := Vector.replicate 8 0 }

/-- A MixSet: the record replaced, the cursor ended when the mix becomes muted (R49, R50). -/
def Mix.set (m : Mix) (levels : ByClass) (trim : Nat) (mute : Bool) : Mix :=
  { levels := levels, trim := trim, mute := mute, cursor := if mute && !m.mute then m.cursor.stopped else m.cursor }

def Part.mixSet (p : Part) (mix : Fin 8) (levels : ByClass) (trim : Nat) (mute : Bool) : Part :=
  { p with click := p.click.setMix mix (p.click.mixes[mix].set levels trim mute) }

/-- A mix's cursor ended if it is on a sound (R51, R52). -/
def Mix.endOn (m : Mix) (sound : Fin 4) : Mix :=
  if m.cursor.sound = some sound then { m with cursor := m.cursor.stopped } else m

/-- Every cursor on a sound ended (R51, R52). -/
def Part.endCursorsOn (p : Part) (sound : Fin 4) : Part :=
  { p with click := { p.click with mixes := Vector.ofFn fun i => p.click.mixes[i].endOn sound } }

/-- Every cursor ended, as the engine enters Stopping (R42). -/
def Part.endCursors (p : Part) : Part :=
  { p with click := { p.click with mixes := Vector.ofFn fun i =>
      { p.click.mixes[i] with cursor := p.click.mixes[i].cursor.stopped } } }

/-- The words of a sound of a length in samples (R43). -/
def soundWords (length : Nat) : Nat := (length + 1) / 2

/-- A sound's fetch replaced. -/
def Part.setClickFetch (p : Part) (sound : Fin 4) (fetch : Option ClickFetch) : Part :=
  { p with loader := { p.loader with clickFetches := p.loader.clickFetches.set sound fetch } }

/-- A ClickSoundLoad (R51): the fetch running abandoned, cursors ended, the entry Refreshing over the new bytes, the
new fetch begun. -/
def Part.loadSound (p : Part) (sound : Fin 4) (address length : Nat) : Part :=
  let p1 := (p.endCursorsOn sound).putResident (.click sound)
    (some { kind := .click, number := sound.val, base := address, length := 4 * soundWords length,
            state := .refreshing, refetch := 0 })
  p1.setClickFetch sound
    (some { kind := .load, base := address, length := length, words := soundWords length, done := 0 })

/-- A click sound refreshed in place (R52). -/
def Part.refreshSound (p : Part) (sound : Fin 4) : Part :=
  match p.resident (.click sound) with
  | none => p
  | some e =>
    let p1 := (p.endCursorsOn sound).beginRefreshing (.click sound)
    p1.setClickFetch sound
      (some { kind := .refresh, base := e.base, length := p.click.sounds[sound].length, words := e.length / 4,
              done := 0 })

/-- A click fetch failed with Unstable (R52). -/
def Part.clickUnstable (p : Part) (sound : Fin 4) : Part :=
  let p1 := p.setClickFetch sound none
  let p2 := { p1 with click := p1.click.setSound sound { samples := [], length := 0 } }
  p2.makeStale (.click sound) .unstable

/-- A watched write counted against a click sound's fetch: a restart from the first word, or the failure of the
fourth (R52, R118). -/
def Part.countClick (p : Part) (sound : Fin 4) : Part :=
  match p.loader.clickFetches[sound], p.resident (.click sound) with
  | some f, some e =>
    if e.refetch < 3 then
      (p.setClickFetch sound (some { f with done := 0 })).putResident (.click sound)
        (some { e with refetch := e.refetch + 1 })
    else p.clickUnstable sound
  | _, _ => p

/-- A sample from two bytes in the strap's order (R43). -/
def sampleOf (order : ByteOrder) (low high : Byte) : Halfword := BitVec.ofNat 16 (fieldValue order [low, high])

/-- A word stored into a sound from its first sample's index; the second sample of the last word of an odd length
is not stored (R43). -/
def Sound.storeWord (s : Sound) (order : ByteOrder) (f : ClickFetch) (bytes : List Byte) : Sound :=
  let first := putSample s.samples (2 * f.done) (sampleOf order (byteAt bytes 0) (byteAt bytes 1))
  let both := putSample first (2 * f.done + 1) (sampleOf order (byteAt bytes 2) (byteAt bytes 3))
  { s with samples := if f.done + 1 = f.words ∧ f.length % 2 = 1 then first else both }

/-- The end of a click sound's fetch: the length, the entry Current, and for a refresh RecordRefreshed
(R43, R51, R52). -/
def Part.clickFetched (p : Part) (sound : Fin 4) (f : ClickFetch) : Part :=
  let p1 := p.setClickFetch sound none
  let p2 := { p1 with click := p1.click.setSound sound { p1.click.sounds[sound] with length := f.length } }
  match f.kind with
  | .starting =>
    p2.putResident (.click sound)
      (some { kind := .click, number := sound.val, base := f.base, length := 4 * f.words, state := .current,
              refetch := 0 })
  | .load => p2.makeCurrent (.click sound)
  | .refresh => (p2.makeCurrent (.click sound)).journal (.recordRefreshed (.click sound) .click sound.val)

/-- A word of a click sound's fetch read (R43, R51, R52). -/
def Part.clickWord (p : Part) (order : ByteOrder) (sound : Fin 4) (f : ClickFetch) (bytes : List Byte) : Part :=
  let p1 := { p with click := p.click.setSound sound (p.click.sounds[sound].storeWord order f bytes) }
  if f.done + 1 < f.words then p1.setClickFetch sound (some { f with done := f.done + 1 })
  else p1.clickFetched sound f

end Sys2Proof.Machine
end

