-- ==== Sys2Proof/Machine/Transport.lean ====
section
/-! DEFINITION. The transport (1.6): entering Parked, Pause, Resume, Halt, going Idle; the clock source (1.7). -/

namespace Sys2Proof.Machine

/-- A Stop byte requested on leaving CountIn or Playing with Start pending clear (R20). -/
def Part.requestStop (p : Part) : Part :=
  if p.clockRuns && !p.timeline.startPending then p.requestRt .stop else p

/-- The song pointer as entering Parked leaves it (R36). -/
def SongPointer.parked (s : SongPointer) : SongPointer :=
  { s with
    phase := .song, sectionIndex := s.startSection, pass := 1, bar := 1, countInBar := 1, beat := 1, lastTick := 0,
    vamp := false, leave := false, entry := none, barsPlayed := 0 }

/-- The clock enters Parked: Stop byte, accumulator, pointer, tempo plan, the cues due at once, the scene loader
(R10, R17, R20, R36, R123, R124). -/
def Part.enterParked (p : Part) : Part :=
  let ran := p.clockRuns
  let p1 := p.requestStop
  let p2 := { p1 with
    timeline := { p1.timeline with
      clock := .parked, pausedFrom := none, startPending := false, acc := 0, beatOpen := true, startByte := .none }
    pointer := p1.pointer.parked }
  let p3 := p2.parkTempo
  (if ran then p3.cuesDueAtOnce else p3).considerPark

/-- A Stop or a Halt parks the clock from CountIn, Playing or Paused; otherwise the clock stays as it is (R17). -/
def Part.haltClock (p : Part) : Part :=
  if p.clockRuns || p.timeline.clock = .paused then p.enterParked else p

/-- A Pause taken (R16): Stop byte, paused-from, the cues due at once, and a pending section switch that is ready
(R122, R124). -/
def Part.pauseClock (p : Part) : Part :=
  let p1 := p.requestStop
  let p2 := { p1 with timeline := { p1.timeline with
    clock := .paused
    pausedFrom := some (if p.timeline.clock = ClockState.countIn then RunState.countIn else RunState.playing) } }
  p2.cuesDueAtOnce.makeLateNow

/-- A Resume taken (R16): the paused-from state, and a Continue byte unless Start is pending (R20). -/
def Part.resumeClock (p : Part) : Part :=
  let p1 := { p with timeline := { p.timeline with
    clock := match p.timeline.pausedFrom with
      | some RunState.countIn => ClockState.countIn
      | _ => ClockState.playing
    pausedFrom := none } }
  if p1.timeline.startPending then p1 else p1.requestRt .resume

/-- The clock goes to Idle as the engine leaves Running, and the pointer takes the values of R24 (R19). That the beat
open mark is set with the accumulator is the model's choice (log 41). -/
def Part.idleClock (p : Part) : Part :=
  let p1 := p.requestStop
  { p1 with
    timeline := { p1.timeline with
      clock := .idle, pausedFrom := none, startPending := false, acc := 0, beatOpen := true, plan := none,
      startByte := .none }
    pointer := SongPointer.reset }.setTrigger none

/-- Whether a Transport action fits the clock state (R18). -/
def TransportAction.fits (action : TransportAction) (clock : ClockState) : Bool :=
  match action, clock with
  | .start, .parked => true
  | .pause, .countIn => true
  | .pause, .playing => true
  | .resume, .paused => true
  | .stop, .countIn => true
  | .stop, .playing => true
  | .stop, .paused => true
  | _, _ => false

/-- A Transport action that fits, applied (R15 to R17). -/
def Part.transport (p : Part) (action : TransportAction) : Part :=
  match action with
  | .start => p.takeStart
  | .stop => p.enterParked
  | .pause => p.pauseClock
  | .resume => p.resumeClock

/-! ### Clock source and monitor (R21, R22) -/

/-- The clock source selected. -/
def Part.setSource (p : Part) (source : ClockSource) : Part :=
  { p with timeline := { p.timeline with source := source } }

/-- What the external clock monitor reads. -/
def Part.setMonitor (p : Part) (monitor : Monitor) : Part :=
  { p with timeline := { p.timeline with monitor := monitor } }

/-- A clock fallback: source Internal, ClockFault raised, ClockFallback journaled (R22). -/
def Part.fallBack (p : Part) : Part := ((p.setSource .internal).raise .clockFault).journal .clockFallback

/-- The monitor turns Absent; while Running with source External the fallback follows (R22). -/
def Part.monitorAbsent (p : Part) : Part :=
  let p1 := p.setMonitor .absent
  if p1.engine = .running ∧ p1.timeline.source = .external then p1.fallBack else p1

end Sys2Proof.Machine
end

