-- ==== Sys2Proof/Machine/Fetch.lean ====
section
/-! DEFINITION. The fetch engine (8.3): reading songs and scenes word by word, the checks as words arrive, the
records as stored, completion, failure and restart of shadow fetches. -/

namespace Sys2Proof.Machine

/-! ### Records as stored (R67, R117, 12.6) -/

/-- The bytes of a song of a section count (R115). -/
def songLength (count : Nat) : Nat := 16 + 16 * count

/-- The bytes of a scene of a layer count and a setup count (R115). -/
def sceneLength (layers setups : Nat) : Nat := 8 + 16 * layers + 4 * setups

/-- A section entry as stored (R117). -/
def parseSection (order : ByteOrder) (bytes : List Byte) (s : Nat) : SongSection :=
  let o := 16 + 16 * s
  { bars := max 1 (numAt bytes o)
    beats := max 1 (min (numAt bytes (o + 1)) 16)
    subdivision := numAt bytes (o + 2)
    startTempo := fieldAt order bytes (o + 4) 2
    endTempo := fieldAt order bytes (o + 6) 2
    scene := if flagAt bytes (o + 9) 0 then none else some (numAt bytes (o + 8)) }

/-- A song as stored (R117). -/
def parseSong (order : ByteOrder) (number : Nat) (bytes : List Byte) : Song where
  number := number
  countIn := min (numAt bytes 1) 4
  loopLast := numAt bytes 2 == 1
  clickSound := { downbeat := numAt bytes 4, beat := numAt bytes 5, sub := numAt bytes 6, countIn := numAt bytes 7 }
  sections := (List.range (numAt bytes 0)).map (parseSection order bytes)

/-- A destination byte (12.6). -/
def parseDest (b : Byte) : Dest where
  voice := Fin.ofNat 8 b.toNat
  channel := Fin.ofNat 16 (b.toNat / 16)

/-- A zone test (12.6); codes that name nothing are read as R67 states. -/
def parseTest (code value : Byte) : ZoneTest where
  subject := if code.toNat / 16 % 4 = 1 then .velocity else .key
  compare := match code.toNat % 8 with
    | 1 => .equal
    | 2 => .below
    | 3 => .atOrAbove
    | _ => .any
  value := value.toNat

/-- A signed 7-bit number in bits 0 to 6. -/
def signed7 (b : Byte) : Int := (b.setWidth 7).toInt

/-- A layer entry as stored (R67, R117). -/
def parseLayer (bytes : List Byte) (i : Nat) : Layer :=
  let o := 8 + 16 * i
  { sources := (byteAt bytes o).setWidth 4
    testA := parseTest (byteAt bytes (o + 1)) (byteAt bytes (o + 2))
    testB := parseTest (byteAt bytes (o + 3)) (byteAt bytes (o + 4))
    combine := if numAt bytes (o + 5) = 1 then .or else .and
    dest := parseDest (byteAt bytes (o + 6))
    transpose := max (-48) (min (byteAt bytes (o + 7)).toInt 48)
    gain := numAt bytes (o + 8)
    offset := signed7 (byteAt bytes (o + 9))
    passList := ([numAt bytes (o + 10), numAt bytes (o + 11), numAt bytes (o + 12), numAt bytes (o + 13)]).filter
      fun n => decide (n < 128)
    passBend := flagAt bytes o 4
    passPressure := flagAt bytes o 5
    passSustain := flagAt bytes o 6 }

/-- The setup messages of one setup entry (R117). -/
def expandSetup (bytes : List Byte) (o : Nat) : List SetupMessage :=
  let d := parseDest (byteAt bytes o)
  let number := numAt bytes (o + 2) % 128
  let value := numAt bytes (o + 3) % 128
  let message (m : Message) : SetupMessage := { voice := d.voice, message := m }
  match numAt bytes (o + 1) with
  | 0 => [message (programMessage d.channel number)]
  | 1 => [message (controllerMessage d.channel 0 value), message (programMessage d.channel number)]
  | _ => [message (controllerMessage d.channel number value)]

/-- The setup messages of the first entries of a scene, expanded in list order (R117). -/
def expandSetups (bytes : List Byte) (layers setups : Nat) : List SetupMessage :=
  (List.range setups).flatMap fun j => expandSetup bytes (sceneLength layers j)

/-- A scene as stored (R117). -/
def parseScene (number : Nat) (bytes : List Byte) : Scene where
  number := number
  layers := (List.range (numAt bytes 0)).map (parseLayer bytes)
  setup := expandSetups bytes (numAt bytes 0) (numAt bytes 1)

/-! ### The checks as words arrive (R116) -/

/-- Whether a run of bytes ends inside shared memory. -/
def fitsRam (base length : Nat) : Bool := decide (base + length ≤ Config.ramBytes)

/-- An index entry that names no place for a record's header (R116; log 26). -/
def badPlace (base header : Nat) : Bool := base == 0 || base % 4 != 0 || !fitsRam base header

/-- The check of a song by the word that has just completed its bytes: the counts with the first word, each
section's subdivision with the section's first word (R116). -/
def songCheck (base : Nat) (start : Option Nat) (bytes : List Byte) : Option CueOutcome :=
  let count := numAt bytes 0
  if bytes.length = 4 then
    if count = 0 ∨ 16 < count ∨ !fitsRam base (songLength count) then some .badSong
    else if start.any (fun s => decide (count ≤ s)) then some .badParam
    else none
  else if 16 < bytes.length ∧ bytes.length % 16 = 4 then
    if [1, 2, 3, 4, 6].contains (numAt bytes (bytes.length - 2)) then none else some .badSong
  else none

/-- The check of a scene by the word that has just completed its bytes: the counts with the first word, each setup
entry's kind and the expanded number with the entry (R116). -/
def sceneCheck (base : Nat) (bytes : List Byte) : Option CueOutcome :=
  let layers := numAt bytes 0
  let setups := numAt bytes 1
  if bytes.length = 4 then
    if layers = 0 ∨ 8 < layers ∨ 32 < setups ∨ !fitsRam base (sceneLength layers setups) then some .badScene
    else none
  else if sceneLength layers 0 < bytes.length then
    let read := (bytes.length - sceneLength layers 0) / 4
    if 2 < numAt bytes (bytes.length - 3) ∨ 32 < (expandSetups bytes layers read).length then some .badScene
    else none
  else none

/-! ### One word of a shadow fetch -/

/-- The address of a shadow fetch's next word (R115). -/
def ShadowFetch.address (f : ShadowFetch) (layout : Layout) : Nat :=
  match f.stage with
  | .songIndex => layout.songIndex + 4 * f.song
  | .sceneIndex => layout.sceneIndex + 4 * f.scene
  | .songRecord | .sceneRecord => f.base + f.bytes.length

/-- What a word makes of a shadow fetch. -/
inductive FetchResult where
  /-- more words follow -/
  | goesOn (f : ShadowFetch)
  /-- the index named the record's place -/
  | located (f : ShadowFetch)
  /-- the counts give the record's whole length -/
  | sized (f : ShadowFetch) (length : Nat)
  /-- the song's last word -/
  | songRead (song : Song)
  /-- the scene's last word -/
  | sceneRead (scene : Scene)
  | failed (outcome : CueOutcome)
  deriving DecidableEq, Repr

/-- A word of a song record, with the record's bytes so far (R116, R117). -/
def ShadowFetch.songWord (f : ShadowFetch) (order : ByteOrder) (bytes : List Byte) : FetchResult :=
  let length := songLength (numAt bytes 0)
  match songCheck f.base f.start bytes with
  | some outcome => .failed outcome
  | none =>
    if length ≤ bytes.length then .songRead (parseSong order f.song bytes)
    else if bytes.length = 4 then .sized { f with bytes := bytes } length
    else .goesOn { f with bytes := bytes }

/-- A word of a scene record, with the record's bytes so far (R116, R117). -/
def ShadowFetch.sceneWord (f : ShadowFetch) (bytes : List Byte) : FetchResult :=
  let length := sceneLength (numAt bytes 0) (numAt bytes 1)
  match sceneCheck f.base bytes with
  | some outcome => .failed outcome
  | none =>
    if length ≤ bytes.length then .sceneRead (parseScene f.scene bytes)
    else if bytes.length = 4 then .sized { f with bytes := bytes } length
    else .goesOn { f with bytes := bytes }

/-- A word read by a shadow fetch (R115, R116). -/
def ShadowFetch.step (f : ShadowFetch) (order : ByteOrder) (word : List Byte) : FetchResult :=
  let place := fieldValue order word
  match f.stage with
  | .songIndex =>
    if badPlace place 16 then .failed .badSong
    else .located { f with stage := .songRecord, base := place, bytes := [] }
  | .sceneIndex =>
    if badPlace place 8 then .failed .badScene
    else .located { f with stage := .sceneRecord, base := place, bytes := [] }
  | .songRecord => f.songWord order (f.bytes ++ word)
  | .sceneRecord => f.sceneWord (f.bytes ++ word)

/-! ### Effects on the part -/

/-- The shadow role of the record a fetch is reading. -/
def ShadowFetch.role (f : ShadowFetch) : Role :=
  match f.stage with
  | .songIndex | .songRecord => .shadowSong
  | .sceneIndex | .sceneRecord => .shadowScene

/-- The shadow entry made once the index has named the record's place, covering the header (R115, R166). A restarted
fetch that reads the index again makes it anew, the header alone (log 12). -/
def Part.makeShadowEntry (p : Part) (f : ShadowFetch) : Part :=
  match f.role with
  | .shadowSong =>
    p.putResident .shadowSong
      (some { kind := .song, number := f.song, base := f.base, length := 16, state := .refreshing,
              refetch := f.count })
  | _ =>
    p.putResident .shadowScene
      (some { kind := .scene, number := f.scene, base := f.base, length := 8, state := .refreshing,
              refetch := f.count })

/-- The shadow entry widened to the whole record (R115, R166). -/
def Part.widenEntry (p : Part) (role : Role) (length : Nat) : Part :=
  p.putResident role ((p.resident role).map fun e => { e with length := length })

/-- The entry of the active record that a refresh reads again; a fetch for another owner has none (R133, R166). -/
def Part.refreshedRole (p : Part) : Option Role :=
  match p.loader.owner with
  | some (.refreshSong _) => some .activeSong
  | some .refreshScene => some .activeScene
  | _ => none

/-- The entry of the record being fetched widened; in a refresh the active record's entry covers the same bytes
(R166). -/
def Part.widenFetched (p : Part) (role : Role) (length : Nat) : Part :=
  let p1 := p.widenEntry role length
  match p1.refreshedRole with
  | none => p1
  | some active => p1.widenEntry active length

/-- A Refreshing entry becomes Current as its fetch completes (R166). -/
def Part.finishEntry (p : Part) (role : Role) : Part := if p.isRefreshing role then p.makeCurrent role else p

/-- The scene swapped in by a refresh: flags, pedals, entry, journal (R80, R94, R133, R166). -/
def Part.swapRefreshedScene (p : Part) (scene : Scene) : Part :=
  let p1 := { p with flags := flagsBelow p.flags scene.layers.length
                     loader := { p.loader with activeScene := some scene } }
  let p2 := (p1.putResident .activeScene (p1.resident .shadowScene)).putResident .shadowScene none
  (p2.makeCurrent .activeScene).carryPedals.freeShadow.journal (.recordRefreshed .activeScene .scene scene.number)

/-- The song swapped in by a refresh: the pointer corrected, entry, journal, and the active scene's refresh next
if a SceneRefresh asked for it (R41, R133, R146, R166). -/
def Part.swapRefreshedSong (p : Part) (song : Song) (sceneNext : Bool) : Part :=
  let p1 := { p with loader := { p.loader with activeSong := some song } }
  let p2 := (p1.putResident .activeSong (p1.resident .shadowSong)).putResident .shadowSong none
  let p3 := (p2.makeCurrent .activeSong).correctPointer
  let p4 := p3.journal (.recordRefreshed .activeSong .song song.number)
  if sceneNext && (p4.resident .activeScene).isSome then p4.emptyShadow.beginSceneRefresh else p4.freeShadow

/-- The end of a shadow fetch: its entries Current, the owner told, or a refresh swapped in (R115, R120, R133). -/
def Part.fetchDone (p : Part) : Part :=
  let p1 := ((p.setFetch none).finishEntry .shadowSong).finishEntry .shadowScene
  match p1.loader.owner with
  | some (.refreshSong sceneNext) =>
    match p1.loader.shadowSong with
    | none => p1.freeShadow
    | some song => p1.swapRefreshedSong song sceneNext
  | some .refreshScene =>
    match p1.loader.shadowScene with
    | none => p1.freeShadow
    | some scene => p1.swapRefreshedScene scene
  | _ => p1.checkReady

/-- The shadow role of the record that a fetch is not reading. -/
def ShadowFetch.otherRole (f : ShadowFetch) : Role :=
  match f.role with
  | .shadowSong => .shadowScene
  | _ => .shadowSong

/-- A shadow record read again: a refetch of the other shadow record that has waited for it begins, as a fetch of its
own, and otherwise the fetch is complete (R120; log 14). A song read again asks for no scene (log 46). -/
def Part.refetchDone (p : Part) (f : ShadowFetch) : Part :=
  match f.also, p.resident f.otherRole with
  | true, some e =>
    let p1 := p.finishEntry f.role
    p1.setFetch (some (p1.againFetch f.otherRole e))
  | _, _ => p.fetchDone

/-- A song fetch done with its song: a SongLoad goes on to its start section's scene, with no scene entry where it has
none; any other is a record read again (R115, R120), which leaves the scene in the shadow as it was fetched, whatever
scene the start section names now (log 46). -/
def Part.songFetched (p : Part) (f : ShadowFetch) (song : Song) : Part :=
  let p1 := { p with loader := { p.loader with shadowSong := some song } }
  if f.songLoad then
    match (song.sections[f.start.getD 0]?).bind (·.scene) with
    | none => (p1.putResident .shadowScene none).fetchDone
    | some scene => p1.setFetch (some { f with stage := .sceneIndex, scene := scene, base := 0, bytes := [] })
  else p1.refetchDone f

/-- The reason a lookahead's or a refresh's failure is journaled with. -/
def CueOutcome.bad : CueOutcome → BadReason
  | .unstable => .unstable
  | _ => .invalid

def CueOutcome.stale : CueOutcome → StaleReason
  | .unstable => .unstable
  | _ => .invalid

/-- A shadow fetch failed: the owner is told and the shadow freed (R119, R133). -/
def Part.fetchFailed (p : Part) (outcome : CueOutcome) : Part :=
  match p.loader.owner with
  | some (.cue slot) =>
    match p.armOf slot with
    | none => p.freeShadow
    | some a => (p.endCue a outcome 0).freeShadow
  | some (.lookahead scene) =>
    ((p.journal (.sceneBad scene outcome.bad)).setTrigger none |>.setLate none).freeShadow
  | some (.refreshSong _) => (p.makeStale .activeSong outcome.stale).freeShadow
  | some .refreshScene => (p.makeStale .activeScene outcome.stale).freeShadow
  | none => p.freeShadow

/-- A word read by the shadow fetch in progress (R115 to R117). -/
def Part.shadowWord (p : Part) (order : ByteOrder) (f : ShadowFetch) (word : List Byte) : Part :=
  match f.step order word with
  | .goesOn f1 => p.setFetch (some f1)
  | .located f1 => (p.setFetch (some f1)).makeShadowEntry f1
  | .sized f1 length => (p.setFetch (some f1)).widenFetched f1.role length
  | .songRead song => p.songFetched f song
  | .sceneRead scene => ({ p with loader := { p.loader with shadowScene := some scene } }).refetchDone f
  | .failed outcome => p.fetchFailed outcome

/-! ### Watched writes during a shadow fetch (R118) -/

/-- One more restart counted in an entry under fetch (R166). -/
def Part.countEntry (p : Part) (role : Role) (count : Nat) : Part :=
  p.putResident role ((p.resident role).map fun e =>
    if e.state = .refreshing then { e with refetch := count } else e)

/-- A fetch begun again (R118): a SongLoad whole for a write into the song, its scene part for one into the scene,
where that part has begun; an indexed fetch from the index; any other from the record's first word. -/
def ShadowFetch.restart (f : ShadowFetch) (hitSong : Bool) : ShadowFetch :=
  let again := { f with bytes := [], count := f.count + 1 }
  if f.songLoad && hitSong then { again with stage := .songIndex, scene := 0, base := 0 }
  else if f.songLoad && f.role = .shadowSong then { f with count := f.count + 1 }
  else if f.indexed then { again with stage := .sceneIndex, base := 0 }
  else again

/-- What a whole restart of a SongLoad gives up: the song read (log 13). -/
def Part.dropFetched (p : Part) (f : ShadowFetch) (hitSong : Bool) : Part :=
  if f.songLoad && hitSong then { p with loader := { p.loader with shadowSong := none } } else p

/-- Whether a write into the shadow's song, or into its scene, reaches the record that a fetch reads; both are a
SongLoad's (R118). -/
def ShadowFetch.reads (f : ShadowFetch) (hitSong hitScene : Bool) : Bool :=
  if f.songLoad then hitSong || hitScene
  else match f.role with
    | .shadowSong => hitSong
    | _ => hitScene

/-- Whether a write reaches the record whose refetch waits for a fetch to end (log 14). -/
def ShadowFetch.waits (f : ShadowFetch) (hitSong hitScene : Bool) : Bool :=
  f.also && !f.songLoad &&
    match f.role with
    | .shadowSong => hitScene
    | _ => hitSong

/-- The roles whose entries keep a fetch's refetch count while they are Refreshing (R166). -/
def ShadowFetch.countedRoles (f : ShadowFetch) : List Role :=
  if f.songLoad then [.shadowSong, .shadowScene]
  else match f.role with
    | .shadowSong => [.shadowSong, .activeSong]
    | _ => [.shadowScene, .activeScene]

/-- The shadow fetch begun again, with the restart counted in its entries (R118, R166). -/
def Part.restartFetch (p : Part) (f : ShadowFetch) (hitSong : Bool) : Part :=
  f.countedRoles.foldl (fun p role => p.countEntry role (f.count + 1))
    ((p.dropFetched f hitSong).setFetch (some (f.restart hitSong)))

/-- The restarts counted for a shadow record's fetch by its entry. -/
def Part.refetchOf (p : Part) (role : Role) : Nat :=
  match p.resident role with
  | none => 0
  | some e => e.refetch

/-- A watched write counted against the fetches it reaches, the one in progress and the refetch that waits for it: a
restart, or Unstable at the fourth (R118). -/
def Part.countShadow (p : Part) (hitSong hitScene : Bool) : Part :=
  match p.loader.fetch with
  | none => p
  | some f =>
    let reads := f.reads hitSong hitScene
    let waits := f.waits hitSong hitScene
    let waiting := p.refetchOf f.otherRole
    if (reads && decide (3 ≤ f.count)) || (waits && decide (3 ≤ waiting)) then p.fetchFailed .unstable
    else
      let p1 := if reads then p.restartFetch f hitSong else p
      if waits then p1.countEntry f.otherRole (waiting + 1) else p1

/-! ### The fetch engine's rotation (R115) -/

/-- The fetches that share the engine's turns. -/
inductive FetchUnit where
  | shadow
  | click (sound : Fin 4)
  deriving DecidableEq, Repr

/-- The unit at a place of the rotation. -/
def FetchUnit.ofTurn : Fin 5 → FetchUnit
  | 0 => .shadow
  | 1 => .click 0
  | 2 => .click 1
  | 3 => .click 2
  | 4 => .click 3

/-- Whether a unit has a fetch in progress. -/
def Loader.fetching (l : Loader) : FetchUnit → Bool
  | .shadow => l.fetch.isSome
  | .click i => l.clickFetches[i].isSome

/-- The five places of the rotation from one on. -/
def turnsFrom (turn : Fin 5) : List (Fin 5) := [turn, turn + 1, turn + 2, turn + 3, turn + 4]

/-- The place of the fetch that takes the next turn (R115). -/
def Loader.nextTurn (l : Loader) : Option (Fin 5) :=
  (turnsFrom l.turn).find? fun turn => l.fetching (FetchUnit.ofTurn turn)

/-- The rotation moved past the place that took a turn. -/
def Part.passTurn (p : Part) (turn : Fin 5) : Part := { p with loader := { p.loader with turn := turn + 1 } }

end Sys2Proof.Machine
end

