-- ==== Sys2Proof/Machine/Regions.lean ====
section
/-! DEFINITION. The region table (10.3): its form in memory, its validity, the effective kind of an address. -/

namespace Sys2Proof.Machine

/-- The kind codes (12.3). -/
def kindOf : Nat → Option RegionKind
  | 0 => some .openWrite
  | 1 => some .live
  | 2 => some .staged
  | 3 => some .guarded
  | _ => none

/-- The policy codes (12.3). -/
def policyOf : Nat → Option Policy
  | 0 => some .normal
  | 1 => some .hold
  | 2 => some .freeze
  | _ => none

/-- The sixteen page numbers. -/
def allPages : List Nat := [0, 1, 2, 3, 4, 5, 6, 7, 8, 9, 10, 11, 12, 13, 14, 15]

/-- The four windows by number. -/
def allWindows : List (Fin 4) := [0, 1, 2, 3]

/-- Whether a window record is enabled (12.3). -/
def windowEnabled (bytes : List Byte) (w : Nat) : Bool := flagAt bytes (16 + 8 * w + 6) 0

/-- A window record as a window, if it is valid (R157, 12.3). -/
def parseWindow (order : ByteOrder) (bytes : List Byte) (w : Nat) : Option Window :=
  let base := fieldAt order bytes (16 + 8 * w) 4
  let code := numAt bytes (16 + 8 * w + 4)
  if 8 ≤ code ∧ code ≤ 18 ∧ base % 2 ^ code = 0 then
    (kindOf (numAt bytes (16 + 8 * w + 5))).map fun kind => { base := base, sizeLog := code, kind := kind }
  else none

/-- The validity of a region table with its policy (R157); a disabled window is not checked. -/
def regionValid (order : ByteOrder) (bytes : List Byte) : Bool :=
  allPages.all (fun p => (kindOf (numAt bytes p)).isSome) &&
    allWindows.all (fun w => !windowEnabled bytes w.val || (parseWindow order bytes w.val).isSome) &&
    (policyOf (numAt bytes 48)).isSome

/-- The region table and policy that 64 bytes hold, or none when they are not valid (R157). -/
def parseRegion (order : ByteOrder) (bytes : List Byte) : Option RegionTable :=
  if regionValid order bytes then
    some {
      pages := Vector.ofFn fun p => (kindOf (numAt bytes p.val)).getD .openWrite
      windows := Vector.ofFn fun w => if windowEnabled bytes w.val then parseWindow order bytes w.val else none
      policy := (policyOf (numAt bytes 48)).getD .normal }
  else none

/-- The strictness of a kind: Open < Live < Staged < Guarded (R158). -/
def RegionKind.rank : RegionKind → Nat
  | .openWrite => 0
  | .live => 1
  | .staged => 2
  | .guarded => 3

/-- The more restrictive of two kinds. -/
def RegionKind.strictest (a b : RegionKind) : RegionKind := if a.rank ≤ b.rank then b else a

/-- Whether a window covers an address (R157). -/
def Window.covers (w : Window) (address : Nat) : Bool :=
  decide (w.base ≤ address) && decide (address < w.base + 2 ^ w.sizeLog)

/-- The region kind of an address: the strictest of its page and the windows that cover it (R158, step 1). -/
def RegionTable.regionKind (r : RegionTable) (address : Nat) : RegionKind :=
  allWindows.foldl
    (fun kind i =>
      match r.windows[i] with
      | none => kind
      | some w => if w.covers address then kind.strictest w.kind else kind)
    r.pages[Fin.ofNat 16 (address / 0x4000)]

/-- The policy acting on a region kind (R158, step 2). -/
def Policy.acts : Policy → RegionKind → RegionKind
  | .normal, kind => kind
  | .hold, .live => .staged
  | .hold, kind => kind
  | .freeze, .openWrite => .openWrite
  | .freeze, _ => .guarded

/-- The effective kind of an address (R158). -/
def RegionTable.effective (r : RegionTable) (address : Nat) : RegionKind := r.policy.acts (r.regionKind address)

/-- Whether any byte of a record is of effective kind Live (R169). Kinds do not change inside a word. -/
def RegionTable.anyLive (r : RegionTable) (base length : Nat) : Bool :=
  (List.range (length / 4)).any fun i => r.effective (base + 4 * i) == .live

end Sys2Proof.Machine
end

