-- ==== Sys2Proof/Machine/CueExec.lean ====
section
/-! DEFINITION. The execution of armed cues (9.4, 9.5). -/

namespace Sys2Proof.Machine

/-- The slot of the cue whose switch is held. -/
def Part.heldSlot (p : Part) : Option (Fin 32) :=
  match p.loader.held with
  | some { cause := .cue slot, .. } => some slot
  | _ => none

/-- The first due and ready cue of a list with no held switch at or ahead of it (R124, R144). -/
def firstExecutable (held : Option (Fin 32)) : List ArmedCue → Option ArmedCue
  | [] => none
  | a :: rest =>
    if held = some a.slot then none
    else if a.due && !a.working then some a
    else firstExecutable held rest

/-- The cue that executes next, if one can (R144). -/
def Part.nextCue (p : Part) : Option ArmedCue := firstExecutable p.heldSlot p.cues.arms

/-- Whether a cue owns the shadow. -/
def Part.ownedBy (p : Part) (slot : Fin 32) : Bool := p.loader.owner == some (.cue slot)

/-! ### Vamp (R37 to R39) -/

/-- A Vamp Set (R37). Whether the bar is the last is tested before the leave mark is cleared, so that a Set in a bar that is
the last by the mark alone gives a trigger (DESIGN CHOICE, log 47). -/
def Part.vampSet (p : Part) : Part :=
  let last := p.inLastBar
  (p.setPointer { p.pointer with vamp := true, leave := false }).giveTriggerIf last

/-- A Vamp Release, EndOfPass or NextBar (R38, R39). -/
def Part.vampRelease (p : Part) (nextBar : Bool) : Part :=
  if nextBar then (p.setPointer { p.pointer with vamp := false, leave := true }).giveTriggerIf true
  else
    let clears := p.pointer.vamp
    (p.setPointer { p.pointer with vamp := false }).giveTriggerIf (clears && p.inLastBar)

/-! ### SectionJump (R126) -/

/-- A cue that fell due on an announcement, passed on from there (R125, R126): it counts that boundary as missed, and
waits on, or is due at once when the clock has left the running states meanwhile. A cue due at once stays as it is. -/
def ArmedCue.lateAt (clockRuns : Bool) (a : ArmedCue) : ArmedCue :=
  if a.atBoundary then { a.passedOn with due := !clockRuns } else a

/-- A jump that finds at execution that it needs a fetch: it claims the shadow and is not ready, and R125 applies from
the boundary it fell due on (R126). -/
def Part.jumpNeedsFetch (p : Part) (a : ArmedCue) (scene : Nat) : Part :=
  ((p.claimForCue a.slot (sceneFetch scene)).setWorking a.slot true).mapArm a.slot (ArmedCue.lateAt p.clockRuns)

/-- The scene a jump must fetch: the target's, when it is a number other than the active scene's (R126, R139). -/
def Part.jumpScene (p : Part) (target : Nat) : Option Nat :=
  match p.sceneOf target with
  | none => none
  | some scene => if p.activeSceneNumber = some scene then none else some scene

/-- A SectionJump that makes no switch: the target is handed to the timeline, and a landing at once is a section entry,
which the scene loader considers (R35, R122, R126, R129). -/
def Part.jumpPlain (p : Part) (target : Nat) : Part :=
  ((p.jumpTo target).considerLanding p.landsAtOnce).actTrigger

/-- A SectionJump executed (R126). -/
def Part.executeJump (p : Part) (a : ArmedCue) (target : Nat) : Part :=
  if p.sectionCount ≤ target then
    let ended := p.endCue a .badParam 0
    if p.ownedBy a.slot then ended.freeShadow else ended
  else if p.ownedBy a.slot then p.beginCue a
  else
    match p.jumpScene target with
    | some scene => p.jumpNeedsFetch a scene
    | none => (p.jumpPlain target).endCue a .ok 0

/-! ### The other kinds (R145 to R147) -/

/-- A SceneRefresh executed (R146). -/
def Part.sceneRefresh (p : Part) : Part × CueOutcome :=
  if !p.isStale .activeSong && !p.isStale .activeScene then (p, .ok)
  else if p.loader.owner.isSome then (p, .notReady)
  else if p.isStale .activeSong then (p.beginSongRefresh (p.isStale .activeScene), .ok)
  else (p.beginSceneRefresh, .ok)

/-- A region table installed acts on one entry that is Settling (R169). A shadow record whose countdown is discarded
may leave the shadow ready again (log 14). -/
def Part.remapEntry (p : Part) (role : Role) : Part :=
  match p.resident role with
  | none => p
  | some e =>
    if p.isSettling role && !p.watch.region.anyLive e.base e.length then (p.makeStale role .remap).checkReady else p

/-- A region table installed (R159, R169): the entries in the order of their role codes (log 48). -/
def Part.installRegion (p : Part) (table : RegionTable) : Part :=
  allRoles.foldl Part.remapEntry { p with watch := { p.watch with region := table } }

/-- A ClockSelect executed (R21). -/
def Part.clockSelect (p : Part) (source : ClockSource) : Part × CueOutcome :=
  match source with
  | .internal => (p.setSource .internal, .ok)
  | .external =>
    if p.timeline.source = .external then (p, .ok)
    else if p.timeline.monitor = .present then (p.setSource .external, .ok)
    else (p, .notReady)

/-- A Transport cue executed (R18, R145). -/
def Part.transportCue (p : Part) (action : TransportAction) : Part × CueOutcome :=
  if action.fits p.timeline.clock then (p.transport action, .ok) else (p, .notReady)

/-- The effect and outcome of a cue that makes no switch (R145). -/
def Part.plainEffect (p : Part) (a : ArmedCue) : Part × CueOutcome :=
  match a.cue with
  | .vampSet => (p.vampSet.actTrigger, .ok)
  | .vampRelease nextBar => ((p.vampRelease nextBar).actTrigger, .ok)
  | .transport action => p.transportCue action
  | .tempoSet target ramp keep => (p.setOverride target ramp keep, .ok)
  | .tapFollow on => ({ p with timeline := { p.timeline with tapFollow := on } }, .ok)
  | .mixSet mix levels trim mute => (p.mixSet mix levels trim mute, .ok)
  | .clickSoundLoad sound address length => (p.loadSound sound address length, .ok)
  | .sceneRefresh => p.sceneRefresh
  | .remap _ =>
    match a.table with
    | none => (p, .badMap)
    | some table => (p.installRegion table, .ok)
  | .clockSelect source => p.clockSelect source
  | .songLoad _ _ _ | .sectionJump _ => (p, .ok)

/-- One cue executed (R144, R145). -/
def Part.executeCue (p : Part) (a : ArmedCue) : Part :=
  match a.cue with
  | .songLoad _ _ _ => p.beginCue a
  | .sectionJump target => p.executeJump a target
  | _ => ((p.plainEffect a).1).endCue a (p.plainEffect a).2 0

/-- The next cue executed, if one can (R144). -/
def Part.executeNext (p : Part) : Part :=
  match p.nextCue with
  | none => p
  | some a => p.executeCue a

/-- At most a number of cues executed, one after the other in arm order (R124). -/
def Part.executeUpTo (p : Part) : Nat → Part
  | 0 => p
  | n + 1 => p.executeNext.executeUpTo n

/-- Every cue that can execute now, in arm order (R124, R144). -/
def Part.executeDue (p : Part) : Part := p.executeUpTo p.cues.arms.length

/-- Whether a pending section switch is to be made now: its shadow is ready, and it is made at once or the clock does
not run (R122, R123). -/
def Part.lateDue (p : Part) : Bool :=
  match p.loader.late with
  | none => false
  | some late =>
    (late.atOnce || !p.clockRuns) && p.loader.ready && p.lookaheadScene == some late.scene

/-- The moment of a switch (R127): a pending section switch that is to be made now, else the next cue if it is one
that makes a switch. -/
def Part.makeSwitch (p : Part) : Part :=
  if p.lateDue then p.makeLateNow
  else
    match p.nextCue with
    | none => p
    | some a => if a.cue.sceneChanging then p.executeCue a else p

end Sys2Proof.Machine
end

