-- ==== Sys2Proof/Machine/CueMoments.lean ====
section
/-! DEFINITION. Meanings: the execution of cues and the switch (Chapters 8 and 9). -/

namespace Sys2Proof.Machine

/-- CUE_EXECUTE (R144). -/
def execCueExecute (s : State) : Host.Outcome State Fault Refusal := go (s.withPart Part.executeNext)

/-- SCENE_SWITCH (R127). -/
def execSceneSwitch (s : State) : Host.Outcome State Fault Refusal := go (s.withPart Part.makeSwitch)

end Sys2Proof.Machine
end

