-- ==== Sys2Proof/Machine/Take.lean ====
section
/-! DEFINITION. Taking cues (9.3): the slot as read, the checks, arming and superseding; posting and withdrawing
(9.2, 9.6); the refusal of every cue at Stopping (R153). -/

namespace Sys2Proof.Machine

/-! ### The slot as read (12.4) -/

def boundaryOf : Nat → Option Boundary
  | 0 => some .now
  | 1 => some .beat
  | 2 => some .bar
  | 3 => some .newSection
  | _ => none

def transportOf : Nat → Option TransportAction
  | 0 => some .start
  | 1 => some .stop
  | 2 => some .pause
  | 3 => some .resume
  | _ => none

/-- A Vamp's parameters (R140). -/
def vampOf (action mode : Nat) : Option Cue :=
  match action, mode with
  | 0, _ => some .vampSet
  | 1, 0 => some (.vampRelease false)
  | 1, 1 => some (.vampRelease true)
  | _, _ => none

/-- A MixSet's parameters (R50, R140). -/
def mixSetOf (bytes : List Byte) : Option Cue :=
  let levels : ByClass :=
    { downbeat := numAt bytes 9, beat := numAt bytes 10, sub := numAt bytes 11, countIn := numAt bytes 12 }
  if levels.downbeat ≤ 127 ∧ levels.beat ≤ 127 ∧ levels.sub ≤ 127 ∧ levels.countIn ≤ 127 then
    if h : numAt bytes 8 < 8 then some (.mixSet ⟨numAt bytes 8, h⟩ levels (numAt bytes 13) (flagAt bytes 14 0))
    else none
  else none

/-- Whether a click sound of a length at an address lies where R43 and R51 allow. -/
def soundPlaceOk (address length : Nat) : Bool := address % 4 == 0 && fitsRam address (4 * soundWords length)

/-- A ClickSoundLoad's parameters (R51). -/
def clickLoadOf (order : ByteOrder) (bytes : List Byte) : Option Cue :=
  let length := fieldAt order bytes 10 2
  let address := fieldAt order bytes 12 4
  if 1 ≤ length ∧ length ≤ 2048 ∧ soundPlaceOk address length then
    if h : numAt bytes 8 < 4 then some (.clickSoundLoad ⟨numAt bytes 8, h⟩ address length) else none
  else none

/-- The cue of a kind code from 1 to 11 with its parameters, or none when a parameter is outside its range
(R140). -/
def cueOf (order : ByteOrder) (bytes : List Byte) : Option Cue :=
  let first := numAt bytes 8
  let second := numAt bytes 9
  match numAt bytes 4 with
  | 1 => if first ≤ 127 ∧ second ≤ 15 then some (.songLoad first second (flagAt bytes 10 0)) else none
  | 2 => if first ≤ 15 then some (.sectionJump first) else none
  | 3 => vampOf first second
  | 4 => (transportOf first).map .transport
  | 5 => some (.tempoSet (fieldAt order bytes 8 2) (fieldAt order bytes 10 2) (flagAt bytes 12 0))
  | 6 => match first with | 0 => some (.tapFollow false) | 1 => some (.tapFollow true) | _ => none
  | 7 => mixSetOf bytes
  | 8 => clickLoadOf order bytes
  | 9 => some .sceneRefresh
  | 10 =>
    let address := fieldAt order bytes 12 4
    if address % 4 = 0 ∧ fitsRam address 64 then some (.remap address) else none
  | 11 => match first with | 0 => some (.clockSelect .internal) | 1 => some (.clockSelect .external) | _ => none
  | _ => none

/-- The outcome of the kind check for a code outside 1 to 11 (R139). -/
def kindRefusal (code : Nat) : Option CueOutcome :=
  if code = 0 then some .blank
  else if code ≤ 11 then none
  else if code ≤ 15 then some .reserved
  else some .unknown

/-! ### The checks (R139 to R141) -/

/-- The third check: the state of the part at take (R141). -/
def Part.stateRefusal (p : Part) (cue : Cue) : Option CueOutcome :=
  match cue with
  | .sectionJump target =>
    if !p.pointer.loaded then some .notReady
    else if p.sectionCount ≤ target then some .badParam
    else none
  | .vampSet | .vampRelease _ => if p.timeline.clock = .idle then some .notReady else none
  | .transport action => if action.fits p.timeline.clock then none else some .notReady
  | .sceneRefresh =>
    if (p.loader.activeSong.isNone && p.loader.activeScene.isNone) || p.loader.owner.isSome then some .notReady
    else none
  | _ => none

/-- The scene-changing cue standing in the arm list (R142). -/
def Part.earlierChange (p : Part) : Option ArmedCue := p.cues.arms.find? fun a => a.cue.sceneChanging

/-- The fourth check: room in the arm list, without the cue that would be superseded (R141). -/
def Part.roomRefusal (p : Part) (cue : Cue) : Option CueOutcome :=
  let superseded := if cue.sceneChanging && p.earlierChange.isSome then 1 else 0
  if Config.armSize < p.cues.arms.length - superseded + 1 then some .armFull else none

/-- What the checks give a slot as read: the cue with its boundary, or the outcome it is refused with. -/
def Part.checkCue (p : Part) (order : ByteOrder) (bytes : List Byte) : Except CueOutcome (Cue × Boundary) :=
  match kindRefusal (numAt bytes 4) with
  | some outcome => .error outcome
  | none =>
    match cueOf order bytes, boundaryOf (numAt bytes 5) with
    | some cue, some boundary =>
      match p.stateRefusal cue with
      | some outcome => .error outcome
      | none =>
        match p.roomRefusal cue with
        | some outcome => .error outcome
        | none => .ok (cue, boundary)
    | _, _ => .error .badParam

/-! ### Arming (R141 to R143) -/

/-- A slot taken out of the posted list. -/
def Part.dropPosted (p : Part) (slot : Fin 32) : Part :=
  { p with cues := { p.cues with posted := p.cues.posted.filter fun s => s != slot } }

/-- A cue refused in the act of the check (R141). -/
def Part.refuseTaken (p : Part) (slot : Fin 32) (outcome : CueOutcome) (notify : Bool) : Part :=
  ((p.dropPosted slot).setOwner slot .host).queueResult slot outcome 0 0 notify

/-- The fetch a cue needs when it is armed (R115, R139). -/
def Part.fetchNeeded (p : Part) (cue : Cue) : Option ShadowFetch :=
  match cue with
  | .songLoad song start _ => some (songLoadFetch song start)
  | .sectionJump target => (p.jumpScene target).map sceneFetch
  | _ => none

/-- The earlier scene-changing cue superseded (R142): its held switch cancelled, its slot host-owned, its result
queued. Its shadow is passed on by the claim, or freed when the later cue needs no fetch. -/
def Part.supersede (p : Part) (a : ArmedCue) (frees : Bool) : Part :=
  let unheld := if p.heldSlot = some a.slot then p.setHeld none else p
  let owned := unheld.ownedBy a.slot
  let ended := unheld.endCue a .superseded 0
  if owned && frees then ended.freeShadow else ended

/-- What arming a scene-changing cue does to the one before it and to the shadow (R114, R142). -/
def Part.changeScene (p : Part) (slot : Fin 32) (fetch : Option ShadowFetch) : Part :=
  let superseded := match p.cues.arms.find? (fun a => a.cue.sceneChanging && a.slot != slot) with
    | none => p
    | some a => p.supersede a fetch.isNone
  match fetch with
  | none => superseded
  | some f => superseded.claimForCue slot f

/-- Whether a cue reads a table when it is armed (R147). -/
def Cue.isRemap : Cue → Bool
  | .remap _ => true
  | _ => false

/-- A cue that passed every check armed, in one act (R141 to R143): it joins the arm list and its slot's engine state is
set, and only then does it supersede and claim; it is executed in the same act when it is due and ready. -/
def Part.arm (p : Part) (slot : Fin 32) (cue : Cue) (boundary : Boundary) (notify : Bool) : Part :=
  let fetch := p.fetchNeeded cue
  let a : ArmedCue :=
    { slot := slot, cue := cue, boundary := boundary, notify := notify,
      working := fetch.isSome || cue.isRemap, due := boundary == .now || !p.clockRuns, atBoundary := false,
      wait := boundary, missed := 0, read := if cue.isRemap then some [] else none, table := none }
  let joined := { p.dropPosted slot with
    cues := { (p.dropPosted slot).cues with arms := p.cues.arms ++ [a] } }
  let placed := joined.setWorking slot a.working
  let armed := if cue.sceneChanging then placed.changeScene slot fetch else placed
  if a.due && !a.working then armed.executeDue else armed

/-- The completion of a take read: the cue checked, and armed or refused, in one act (R138 to R141). -/
def Part.takeDone (p : Part) (order : ByteOrder) (slot : Fin 32) (bytes : List Byte) : Part :=
  let p1 := { p with cues := { p.cues with take := none } }
  let notify := flagAt bytes 6 0
  match p1.checkCue order bytes with
  | .error outcome => p1.refuseTaken slot outcome notify
  | .ok (cue, boundary) => p1.arm slot cue boundary notify

/-- A word of a take read (R138, R141). -/
def Part.takeWord (p : Part) (order : ByteOrder) (t : TakeRead) (word : List Byte) : Part :=
  let bytes := t.bytes ++ word
  if bytes.length < 32 then { p with cues := { p.cues with take := some { t with bytes := bytes } } }
  else p.takeDone order t.slot bytes

/-- The start of a take read, when it may start (R138). -/
def Part.startTake (p : Part) : Part :=
  match p.cues.posted with
  | [] => p
  | slot :: _ =>
    if p.cues.take.isNone && p.cues.writes.isEmpty then
      { p with cues := { p.cues with take := some { slot := slot, bytes := [] } } }
    else p

/-! ### Remap's table read (R147) -/

/-- The Remap oldest in arm order whose read is in progress (R148). -/
def Part.remapReading (p : Part) : Option (ArmedCue × List Byte × Nat) :=
  p.cues.arms.findSome? fun a =>
    match a.read, a.cue with
    | some bytes, .remap address => some (a, bytes, address)
    | _, _ => none

/-- A word of a Remap's table; the last one brings the check of the table (R147). -/
def Part.remapWord (p : Part) (order : ByteOrder) (a : ArmedCue) (read word : List Byte) : Part :=
  let bytes := read ++ word
  if bytes.length < 64 then p.mapArm a.slot fun a => { a with read := some bytes }
  else
    match parseRegion order bytes with
    | none => p.endCue a .badMap 0
    | some table =>
      (p.mapArm a.slot fun a => { a with read := none, table := some table }).setWorking a.slot false

/-! ### Posting and withdrawing (R136, R149 to R151) -/

/-- A posting: the slot engine-owned and Posted, at the young end of the posted list; what is not yet written of an
earlier result is dropped (R136, R149). -/
def Part.post (p : Part) (slot : Fin 32) : Part :=
  let p1 := p.setOwner slot (.engine .posted)
  { p1 with cues := { p1.cues with
      posted := p1.cues.posted ++ [slot]
      writes := p1.cues.writes.filter fun w => w.slot != slot } }

/-- A withdraw of a slot that is Posted (R150). -/
def Part.withdrawPosted (p : Part) (slot : Fin 32) : Part :=
  let p1 := (p.dropPosted slot).setOwner slot .host
  let p2 := match p1.cues.take with
    | some t => if t.slot = slot then { p1 with cues := { p1.cues with take := none } } else p1
    | none => p1
  p2.queueWithdrawn slot false

/-- A withdraw of a slot that is Working or Waiting (R151). -/
def Part.withdrawArmed (p : Part) (a : ArmedCue) : Part :=
  let p1 := if p.heldSlot = some a.slot then p.setHeld none else p
  let owned := p1.ownedBy a.slot
  let p2 := (p1.dropArm a.slot).setOwner a.slot .host
  let p3 := if owned then p2.freeShadow else p2
  p3.queueWithdrawn a.slot a.notify

/-- A withdraw request for an engine-owned slot (R137, R150, R151). -/
def Part.withdraw (p : Part) (slot : Fin 32) : Part :=
  match p.armOf slot with
  | some a => p.withdrawArmed a
  | none => p.withdrawPosted slot

/-! ### The refusal at Stopping (R153) -/

/-- One engine-owned slot refused with EngineStopped. -/
def Part.refuseStopped (p : Part) (slot : Fin 32) (notify : Bool) : Part :=
  (p.setOwner slot .host).queueResult slot .engineStopped 0 0 notify

/-- Every engine-owned slot refused: posted slots in posted-list order, then armed cues in arm order; both lists
empty, the reads abandoned, held and late switches cancelled, a cue's shadow given up (R112, R153, R176). -/
def Part.refuseAll (p : Part) : Part :=
  let posted := p.cues.posted.foldl (fun p slot => p.refuseStopped slot false) p
  let armed := p.cues.arms.foldl (fun p a => p.refuseStopped a.slot a.notify) posted
  let p1 := { armed with cues := { armed.cues with posted := [], take := none, arms := [] } }
  let p2 := ((p1.setHeld none).setLate none).setTrigger none
  match p2.loader.owner with
  | some (.cue _) => p2.emptyShadow
  | _ => p2

end Sys2Proof.Machine
end

