-- ==== Sys2Proof/Machine/Directory.lean ====
section
/-! DEFINITION. Starting (10.2): the directory's checks and values, the click sounds read, the engine becoming
Running. -/

namespace Sys2Proof.Machine

/-! ### The checks (R155) -/

/-- A run of bytes, by base and size. -/
structure Area where
  base : Nat
  size : Nat
  deriving DecidableEq, Repr

/-- Whether two areas share no byte. -/
def Area.apart (a b : Area) : Bool := decide (a.base + a.size ≤ b.base) || decide (b.base + b.size ≤ a.base)

/-- Entries of a journal size code (12.2). -/
def journalEntries : Nat → Option Nat
  | 0 => some 64
  | 1 => some 128
  | 2 => some 256
  | 3 => some 512
  | _ => none

def rateOf : Nat → Option SampleRate
  | 0 => some .khz44
  | 1 => some .khz48
  | 2 => some .khz96
  | _ => none

def dirCueBoard (order : ByteOrder) (bytes : List Byte) : Nat := fieldAt order bytes 0x10 4
def dirJournal (order : ByteOrder) (bytes : List Byte) : Nat := fieldAt order bytes 0x14 4
def dirSongIndex (order : ByteOrder) (bytes : List Byte) : Nat := fieldAt order bytes 0x18 4
def dirSceneIndex (order : ByteOrder) (bytes : List Byte) : Nat := fieldAt order bytes 0x1C 4

/-- The five areas of 10.1, for a journal of a number of entries. -/
def dirAreas (order : ByteOrder) (bytes : List Byte) (entries : Nat) : List Area :=
  [{ base := 0, size := 512 }, { base := dirCueBoard order bytes, size := 1024 },
   { base := dirJournal order bytes, size := 16 + 16 * entries },
   { base := dirSongIndex order bytes, size := 512 }, { base := dirSceneIndex order bytes, size := 1024 }]

/-- Whether every two areas of a list are apart. -/
def areasApart : List Area → Bool
  | [] => true
  | a :: rest => rest.all a.apart && areasApart rest

/-- Entry n of the click sound table (12.2), with a length above 2048 clamped (R43). -/
def dirSound (order : ByteOrder) (bytes : List Byte) (n : Nat) : SoundEntry where
  address := fieldAt order bytes (0x40 + 8 * n) 4
  length := min (fieldAt order bytes (0x40 + 8 * n + 4) 2) Config.soundSize

/-- Whether a click sound passes the address checks of R43. -/
def SoundEntry.ok (e : SoundEntry) : Bool := e.length == 0 || soundPlaceOk e.address e.length

/-- Check 4: every area lies where 10.1 allows. -/
def areasOk (order : ByteOrder) (bytes : List Byte) : Bool :=
  match journalEntries (numAt bytes 0x0B) with
  | none => false
  | some entries =>
    let areas := dirAreas order bytes entries
    dirCueBoard order bytes % 1024 == 0 && dirJournal order bytes % 16 == 0 &&
      dirSongIndex order bytes % 4 == 0 && dirSceneIndex order bytes % 4 == 0 &&
      areas.all (fun a => fitsRam a.base a.size) && areasApart areas &&
      (List.range 4).all fun n => (dirSound order bytes n).ok

/-- The region part of the directory (12.2). -/
def dirRegion (bytes : List Byte) : List Byte := (bytes.drop 0xA0).take 64

/-- The start error of the first check that fails (R155). -/
def directoryError (order : ByteOrder) (bytes : List Byte) : StartError :=
  if fieldAt order bytes 0 4 ≠ 0x53583234 then .badSignature
  else if fieldAt order bytes 4 2 ≠ 1 then .badVersion
  else if (rateOf (numAt bytes 6)).isNone then .badRate
  else if !areasOk order bytes then .badArea
  else if !regionValid order (dirRegion bytes) then .badMap
  else .none

/-! ### The values (R156) -/

/-- A number clamped into a range. -/
def clampInto (low high n : Nat) : Nat := max low (min n high)

def dirVoice (bytes : List Byte) (n : Nat) : VoiceConfig where
  enabled := flagAt bytes (0x20 + n) 0
  clockOut := flagAt bytes (0x20 + n) 1

/-- A channel filter code (R54). -/
def filterOf (code : Nat) : ChannelFilter :=
  if 1 ≤ code ∧ code ≤ 16 then .only (Fin.ofNat 16 (code - 1)) else .omni

def dirPlayer (bytes : List Byte) (n : Nat) : PlayerConfig where
  enabled := flagAt bytes (0x28 + 4 * n) 0
  filter := filterOf (numAt bytes (0x28 + 4 * n + 1))
  tapController :=
    if numAt bytes (0x28 + 4 * n + 2) ≤ 127 then some (numAt bytes (0x28 + 4 * n + 2)) else none

def dirMix (bytes : List Byte) (n : Nat) : MixDefault where
  levels :=
    { downbeat := min (numAt bytes (0x60 + 8 * n)) 127, beat := min (numAt bytes (0x60 + 8 * n + 1)) 127,
      sub := min (numAt bytes (0x60 + 8 * n + 2)) 127, countIn := min (numAt bytes (0x60 + 8 * n + 3)) 127 }
  trim := numAt bytes (0x60 + 8 * n + 4)
  mute := flagAt bytes (0x60 + 8 * n + 5) 0

/-- The directory's values, each clamped as R156 states. -/
def parseDirectory (order : ByteOrder) (bytes : List Byte) : Directory :=
  let entries := (journalEntries (numAt bytes 0x0B)).getD 64
  { rate := (rateOf (numAt bytes 6)).getD .khz48
    source := if numAt bytes 7 = 1 then .external else .internal
    reserve := min (numAt bytes 8) 16
    holdMs := clampInto 1 250 (numAt bytes 9)
    hostRunLimit := clampInto 1 64 (numAt bytes 0x0A)
    journal := { base := dirJournal order bytes, size := entries,
                 threshold := clampInto 1 entries (fieldAt order bytes 0x0C 2) }
    layout := { cueBoard := dirCueBoard order bytes, songIndex := dirSongIndex order bytes,
                sceneIndex := dirSceneIndex order bytes }
    voices := Vector.ofFn fun n => dirVoice bytes n.val
    players := Vector.ofFn fun n => dirPlayer bytes n.val
    sounds := Vector.ofFn fun n => dirSound order bytes n.val
    mixes := Vector.ofFn fun n => dirMix bytes n.val
    region := (parseRegion order (dirRegion bytes)).getD RegionTable.reset }

/-! ### The end of the directory read (R154) -/

/-- A failed Start: Stopped, with the start error (R154, R175). -/
def Part.failStart (p : Part) (error : StartError) : Part :=
  { p with engine := .stopped, startError := error, starting := .none }

/-- The fetch of a click sound at Starting; none for a length of 0 (R43). -/
def SoundEntry.startFetch (e : SoundEntry) : Option ClickFetch :=
  if e.length = 0 then none
  else some { kind := .starting, base := e.address, length := e.length, words := soundWords e.length, done := 0 }

/-- The click sound table read: sounds of length 0 cleared, the others being fetched (R43). -/
def Part.beginLoading (p : Part) (d : Directory) : Part :=
  { p with
    starting := .loading d
    click := { p.click with sounds := Vector.ofFn fun i =>
      if d.sounds[i].length = 0 then { samples := [], length := 0 } else p.click.sounds[i] }
    loader := { p.loader with clickFetches := Vector.ofFn fun i => d.sounds[i].startFetch } }

/-- The checks made on the directory as read (R154, R155). -/
def Part.directoryDone (p : Part) (order : ByteOrder) (bytes : List Byte) : Part :=
  match directoryError order bytes with
  | .none => p.beginLoading (parseDirectory order bytes)
  | error => p.failStart error

/-- A word of the directory (R154). -/
def Part.directoryWord (p : Part) (order : ByteOrder) (read word : List Byte) : Part :=
  if (read ++ word).length < 512 then { p with starting := .reading (read ++ word) }
  else p.directoryDone order (read ++ word)

/-! ### The engine becomes Running (R154) -/

/-- The timeline's values (R1). -/
def Part.runTimeline (p : Part) (d : Directory) : Timeline :=
  { Timeline.reset with rate := d.rate, source := d.source, monitor := p.timeline.monitor }

def MixDefault.mix (m : MixDefault) : Mix :=
  { levels := m.levels, trim := m.trim, mute := m.mute, cursor := Cursor.ended }

def PlayerConfig.port (c : PlayerConfig) : PlayerPort :=
  { PlayerPort.reset with enabled := c.enabled, filter := c.filter, tapController := c.tapController }

def VoiceConfig.port (c : VoiceConfig) : VoicePort :=
  { VoicePort.reset with enabled := c.enabled, clockOut := c.clockOut }

/-- The notice unit's values (R181). -/
def Notice.run (n : Notice) (c : JournalConfig) : Notice :=
  { config := some c, written := 0, taken := 0, overflow := false, unwritten := 0, accepted := n.accepted,
    wordsDone := 0, headPending := true }

/-- Every block takes its values for the engine becoming Running (R1, R24, R42, R54, R66, R81, R100, R112, R135,
R159, R165, R171, R181). -/
def Part.takeDirectory (p : Part) (d : Directory) : Part :=
  { p with
    engine := .running
    starting := .none
    layout := d.layout
    timeline := p.runTimeline d
    pointer := SongPointer.reset
    click := { p.click with mixes := Vector.ofFn fun i => d.mixes[i].mix }
    players := Vector.ofFn fun i => d.players[i].port
    flags := 0
    tracker := Tracker.reset
    voices := { reserve := d.reserve, ports := Vector.ofFn fun i => d.voices[i].port }
    loader := { Loader.reset with holdLimit := d.rate.holdFrames d.holdMs, turn := p.loader.turn }
    cues := CueUnit.reset
    watch := { region := d.region
               residents := { ResidentSet.reset with clicks := p.watch.residents.clicks }
               owners := Vector.replicate 32 .host
               takenCopy := 0 }
    arbiter := { p.arbiter with hostRunLimit := d.hostRunLimit }
    notice := p.notice.run d.journal }

/-- The four click sounds' fetches have all ended. -/
def Loader.clicksDone (l : Loader) : Bool := ([0, 1, 2, 3] : List (Fin 4)).all fun i => l.clickFetches[i].isNone

/-- The engine becomes Running once the click sounds have been read, with the clock fallback of R22 when the
directory names External and the monitor reads Absent (R154). -/
def Part.becomeRunning (p : Part) : Part :=
  match p.starting with
  | .loading d =>
    if p.loader.clicksDone then
      let running := p.takeDirectory d
      if d.source = .external ∧ p.timeline.monitor = .absent then running.fallBack else running
    else p
  | _ => p

/-- Starting begins: the start error cleared, the resident set and the accepted list emptied, click fetches
abandoned (R154, R175, R181). -/
def Part.beginStarting (p : Part) : Part :=
  { p with
    engine := .starting
    startError := .none
    starting := .reading []
    loader := { p.loader with clickFetches := Vector.replicate 4 none }
    watch := { p.watch with residents := ResidentSet.reset }
    notice := { p.notice with accepted := [], wordsDone := 0 } }

end Sys2Proof.Machine
end

