-- ==== Sys2Proof/Machine/Watch.lean ====
section
/-! DEFINITION. The library watch (10.4, 10.5): the decision on each host write, edits of resident records, the ends
of settle countdowns, the journal's taken count. -/

namespace Sys2Proof.Machine

/-! ### Settle countdowns (R167) -/

/-- Whether a role is one of the shadow's. -/
def inShadow : Role → Bool
  | .shadowSong => true
  | .shadowScene => true
  | _ => false

/-- The end of a settle countdown, by role (R120, R52, R133, R167). -/
def Part.settleEnded (p : Part) (role : Role) : Part :=
  match role with
  | .activeSong => if p.loader.owner.isNone then p.beginSongRefresh false else p.makeStale .activeSong .deferred
  | .activeScene => if p.loader.owner.isNone then p.beginSceneRefresh else p.makeStale .activeScene .deferred
  | .shadowSong => p.refetchShadow .shadowSong
  | .shadowScene => p.refetchShadow .shadowScene
  | .click i => p.refreshSound i

/-- Whether an entry's settle countdown stands at 0. -/
def Part.settleDue (p : Part) (role : Role) : Bool :=
  match p.resident role with
  | some { state := .settling 0, .. } => true
  | _ => false

/-- The end of a settle countdown, if it stands at 0 (R167). -/
def Part.endSettle (p : Part) (role : Role) : Part := if p.settleDue role then p.settleEnded role else p

/-- One frame of a settle countdown (R167). -/
def Resident.tickSettle (e : Resident) : Resident :=
  match e.state with
  | .settling n => { e with state := .settling (n - 1) }
  | _ => e

/-- One frame of every settle countdown (R167). -/
def ResidentSet.tickSettle (r : ResidentSet) : ResidentSet where
  activeSong := r.activeSong.map Resident.tickSettle
  shadowSong := r.shadowSong.map Resident.tickSettle
  activeScene := r.activeScene.map Resident.tickSettle
  shadowScene := r.shadowScene.map Resident.tickSettle
  clicks := Vector.ofFn fun i => r.clicks[i].map Resident.tickSettle

/-! ### Edits of resident records (R162, R164) -/

/-- A Live edit of a record not under fetch: Settling, with the countdown at the settle time; a shadow record makes
the shadow not ready (R120, R162). -/
def Part.editLive (p : Part) (role : Role) : Part :=
  let p1 := p.setResidentState role (.settling p.timeline.rate.settleTime)
  if inShadow role then p1.shadowEdited else p1

/-- A Staged edit of a record not under fetch (R162). A shadow record whose countdown is discarded may leave the
shadow ready again (log 14). -/
def Part.editStaged (p : Part) (role : Role) : Part :=
  let p1 := p.makeStale role .staged
  if inShadow role then p1.checkReady else p1

/-- An edit by the effective kind, for an entry in a state; an entry under fetch is counted apart (R162). -/
def Part.editOne (kind : RegionKind) (p : Part) (role : Role) : Part :=
  if p.isRefreshing role then p
  else
    match kind with
    | .live => p.editLive role
    | .staged => p.editStaged role
    | .openWrite | .guarded => p

/-- Whether a record under the shadow's fetch is among the roles (R118, R164). -/
def Part.hitsSong (p : Part) (roles : List Role) : Bool :=
  (roles.contains .activeSong && p.isRefreshing .activeSong) ||
    (roles.contains .shadowSong && p.isRefreshing .shadowSong)

def Part.hitsScene (p : Part) (roles : List Role) : Bool :=
  (roles.contains .activeScene && p.isRefreshing .activeScene) ||
    (roles.contains .shadowScene && p.isRefreshing .shadowScene)

/-- A watched write counted against each fetch it reaches, once a fetch (R52, R118, R164). -/
def Part.countWrite (p : Part) (roles : List Role) (hitSong hitScene : Bool) (clicks : List (Fin 4)) : Part :=
  clicks.foldl (fun p i => if roles.contains (.click i) then p.countClick i else p) (p.countShadow hitSong hitScene)

/-- The four click sounds by number. -/
def allSounds : List (Fin 4) := [0, 1, 2, 3]

/-- The sounds whose entries are Refreshing. -/
def Part.refreshingSounds (p : Part) : List (Fin 4) := allSounds.filter fun i => p.isRefreshing (.click i)

/-- A performed write of kind Live or Staged that touches resident records (R162, R164): first the records that are not
under fetch, in the order of their role codes, then the fetches it counts against (log 48). -/
def Part.edit (p : Part) (kind : RegionKind) (roles : List Role) : Part :=
  let hitSong := p.hitsSong roles
  let hitScene := p.hitsScene roles
  let clicks := p.refreshingSounds
  (roles.foldl (Part.editOne kind) p).countWrite roles hitSong hitScene clicks

/-! ### The journal's taken count (R161, R184) -/

/-- The taken count after an update (R184). -/
def Notice.takenAfter (n : Notice) (value : Word) : Word :=
  let d := (value - n.taken).toNat
  if d ≤ n.fill then value else if 2 ^ 31 ≤ d then n.taken else n.written

/-- A taken-count update, with the Gap that room brings (R182, R184). -/
def Part.takenUpdate (p : Part) (value : Word) : Part :=
  let n := { p.notice with taken := p.notice.takenAfter value }
  { p with notice := n.acceptGap p.stamp }

/-- A half of the taken-count word merged into the watch's copy (R161). -/
def mergeTaken (order : ByteOrder) (copy : Word) (upper : Bool) (bytes : List Byte) : Word :=
  let old := fieldBytes order 4 copy.toNat
  BitVec.ofNat 32 (fieldValue order (if upper then old.take 2 ++ bytes else bytes ++ old.drop 2))

/-! ### The decision (R161) -/

/-- A write refused with GuardRefused journaled and Guard raised (R161, R163). For the directory the entry names no
role, although a resident record may overlap it, and the policy in force (log 33). -/
def Part.guardRefuse (p : Part) (roles : List Role) (address : Nat) (directory : Bool) : Part :=
  (p.journal (.guardRefused roles address p.watch.region.policy directory)).raise .guard

/-- The state codes a host write can act by (12.4). -/
def codePosted : Nat := 1
def codeWithdraw : Nat := 7

/-- A write into the cue board: the slot, and the value it leaves in the state byte if it covers it (R136, R137,
R152). -/
def Part.writeBoard (p : Part) (slot : Fin 32) (state : Option Nat) : Part × Bool :=
  match p.ownerOf slot with
  | .host =>
    if state = some codePosted then (p.post slot, true)
    else if state = some codeWithdraw then (p.journal (.withdrawLate slot), true)
    else (p, true)
  | .engine _ => if state = some codeWithdraw then (p.withdraw slot, false) else (p.raise .guard, false)

/-- Whether an address lies in the journal's taken-count word, and in its upper-addressed half (R161, 12.5). -/
def Part.takenHalf (p : Part) (address : Nat) : Option Bool :=
  match p.notice.config with
  | none => none
  | some c =>
    if address = c.base + 4 then some false else if address = c.base + 6 then some true else none

/-- A write decided by the resident records it touches (R162 to R164). -/
def Part.writeRecords (p : Part) (address : Nat) : Part × Bool :=
  let roles := p.touched address
  if roles.isEmpty then (p, true)
  else
    match p.watch.region.effective address with
    | .openWrite => (p, true)
    | .guarded => (p.guardRefuse roles address false, false)
    | kind => (p.edit kind roles, true)

/-- The library watch's decision on a host write of a halfword at an even byte address: the part after it, and
whether the write is performed (R161). -/
def Part.decideWrite (p : Part) (order : ByteOrder) (address : Nat) (bytes : List Byte) : Part × Bool :=
  let board := p.layout.cueBoard
  if p.engine ≠ .running then (p, true)
  else if address < 0x200 then (p.guardRefuse [] address true, false)
  else if board ≤ address ∧ address < board + 1024 then
    p.writeBoard (Fin.ofNat 32 ((address - board) / 32))
      (if (address - board) % 32 = 0 then some (numAt bytes 0) else none)
  else
    match p.takenHalf address with
    | some upper =>
      let value := mergeTaken order p.watch.takenCopy upper bytes
      (({ p with watch := { p.watch with takenCopy := value } }).takenUpdate value, true)
    | none => p.writeRecords address

end Sys2Proof.Machine
end

