-- ==== Sys2Proof/Machine/Records.lean ====
section
/-! DEFINITION. The bytes the part writes: position stamps, cue slot words, journal entries (12.4, 12.5). -/

namespace Sys2Proof.Machine

def byteOf (n : Nat) : Byte := BitVec.ofNat 8 n

def bitOf (b : Bool) (place : Nat) : Nat := if b then 2 ^ place else 0

/-- The 5-byte position of a stamp (12.5). -/
def Stamp.positionBytes (order : ByteOrder) (s : Stamp) : List Byte :=
  fieldBytes order 2 (s.tick + 1024 * (s.beat - 1)) ++
    [byteOf (s.sectionIndex + bitOf (s.phase == .countIn) 7), byteOf s.pass, byteOf s.bar]

/-- The 4-byte frame count of a stamp. -/
def Stamp.frameBytes (order : ByteOrder) (s : Stamp) : List Byte := fieldBytes order 4 s.frame.toNat

/-- The state codes (12.4). -/
def BoardState.code : BoardState → Nat
  | .free => 0
  | .posted => 1
  | .working => 2
  | .waiting => 3
  | .done => 4
  | .refused => 5
  | .withdrawn => 6
  | .withdraw => 7

/-- The outcome codes (12.4). -/
def CueOutcome.code : CueOutcome → Nat
  | .ok => 1
  | .okLate => 2
  | .okPartial => 3
  | .superseded => 4
  | .blank => 5
  | .reserved => 6
  | .unknown => 7
  | .badParam => 8
  | .badSong => 9
  | .badScene => 10
  | .notReady => 11
  | .armFull => 12
  | .unstable => 13
  | .engineStopped => 14
  | .badMap => 15

/-- The place of a slot word inside its slot (12.4). -/
def SlotWord.offset : SlotWord → Nat
  | .state _ => 0
  | .answer _ _ _ => 16
  | .position _ => 20
  | .positionEnd _ => 24
  | .frameCount _ => 28

/-- The four bytes of a slot word, 0 in every reserved place (R187, 12.4). -/
def SlotWord.bytes (order : ByteOrder) : SlotWord → List Byte
  | .state value => [byteOf value.code, 0, 0, 0]
  | .answer outcome missed short => [byteOf outcome.code, byteOf (min missed 255), short, 0]
  | .position stamp => (stamp.positionBytes order).take 4
  | .positionEnd stamp => (stamp.positionBytes order).drop 4 ++ [0, 0, 0]
  | .frameCount stamp => stamp.frameBytes order

/-! ### Journal entries (12.5) -/

def EntryCause.code : EntryCause → Nat
  | .start => 0
  | .advance => 1
  | .vamp => 2
  | .loopLast => 3
  | .early => 4
  | .segue => 5
  | .jump => 6
  | .refresh => 7

def SwitchCause.code : SwitchCause → Nat
  | .cue => 0
  | .sectionEntry => 1
  | .park => 2

def Boundary.code : Boundary → Nat
  | .now => 0
  | .beat => 1
  | .bar => 2
  | .newSection => 3

def BadReason.code : BadReason → Nat
  | .invalid => 0
  | .unstable => 1

def StaleReason.code : StaleReason → Nat
  | .staged => 0
  | .deferred => 1
  | .displaced => 2
  | .invalid => 3
  | .unstable => 4
  | .remap => 5

def RecordKind.code : RecordKind → Nat
  | .song => 0
  | .scene => 1
  | .click => 2

def ClickClass.code : ClickClass → Nat
  | .downbeat => 0
  | .beat => 1
  | .sub => 2
  | .countIn => 3

def Policy.code : Policy → Nat
  | .normal => 0
  | .hold => 1
  | .freeze => 2

def PanicSource.code : PanicSource → Nat
  | .mail => 0
  | .stopping => 1

/-- A role set has bit r for role r (12.5). -/
def roleSet (roles : List Role) : Nat := (allRoles.filter roles.contains).foldl (fun n r => n + 2 ^ roleCode r) 0

/-- The kind byte, detail bytes 1 to 5 (0 after the last one given) and detail byte 11 of an entry. -/
structure EntryDetail where
  kind : Nat
  low : List Byte
  high : Byte
  deriving DecidableEq, Repr

/-- Detail bytes 1 to 5 given as numbers, byte 11 being 0. -/
def plainDetail (kind : Nat) (low : List Nat) : EntryDetail := { kind := kind, low := low.map byteOf, high := 0 }

/-- The detail of each kind of entry (12.5). A scene's byte is 0 where detail byte 11 says that there is no outgoing scene
or that the incoming scene is Keep, and the boundary code of a SwitchLate is 0 for a section (log 44). -/
def JournalEvent.detail (order : ByteOrder) : JournalEvent → EntryDetail
  | .songChanged outSong inSong outScene inScene layers start outcome =>
    { kind := 1
      low := [byteOf (outSong.getD 0x80), byteOf inSong, byteOf (outScene.getD 0), byteOf (inScene.getD 0), layers]
      high := byteOf (start + 16 * outcome.code + bitOf inScene.isNone 6 + bitOf outScene.isNone 7) }
  | .sectionEntered cause target pass => plainDetail 2 [cause.code, target, pass]
  | .sceneSwitched cause target outScene inScene layers =>
    { kind := 3
      low := [byteOf cause.code, byteOf target, byteOf (outScene.getD 0), byteOf inScene, layers]
      high := byteOf (bitOf outScene.isNone 7) }
  | .switchLate (.cue slot boundary) missed => plainDetail 4 [0, slot.val, boundary.code, min missed 255]
  | .switchLate (.sectionEntry target) missed => plainDetail 4 [1, target, 0, min missed 255]
  | .switchPartial cause short dropped =>
    { kind := 5, low := [byteOf cause.code, short, byteOf dropped], high := 0 }
  | .sectionSceneSkipped target scene => plainDetail 6 [target, scene]
  | .sceneBad scene reason => plainDetail 7 [scene, reason.code]
  | .noteStolen player key owed => plainDetail 8 [player.val, key, owed]
  | .noteDroppedTableFull player key count => plainDetail 9 [0, player.val, key, count]
  | .noteDroppedPortFull player key count => plainDetail 9 [1, player.val, key, count]
  | .controlDropped dest controller => plainDetail 10 [dest.voice.val, dest.channel.val + 1, controller]
  | .guardRefused roles address policy directory =>
    { kind := 11, low := byteOf (roleSet roles) :: fieldBytes order 4 address,
      high := byteOf (policy.code + bitOf directory 7) }
  | .recordStale role kind number reason => plainDetail 12 [roleCode role, kind.code, number, reason.code]
  | .recordRefreshed role kind number => plainDetail 13 [roleCode role, kind.code, number]
  | .clickSkipped cls sound => plainDetail 14 [cls.code, 0, 0, sound]
  | .clockFallback => plainDetail 15 []
  | .tapMeasured count tempo => { kind := 16, low := byteOf count :: fieldBytes order 2 tempo, high := 0 }
  | .withdrawLate slot => plainDetail 17 [slot.val]
  | .panic source released owed => plainDetail 18 [source.code, released, owed]
  | .songEnded song => plainDetail 19 [song]
  | .gap unwritten => { kind := 20, low := 0 :: fieldBytes order 4 unwritten, high := 0 }

/-- The 16 bytes of a journal entry (12.5). -/
def JournalEntry.bytes (order : ByteOrder) (e : JournalEntry) : List Byte :=
  let d := e.event.detail order
  byteOf d.kind :: ((d.low ++ [0, 0, 0, 0, 0]).take 5 ++ e.stamp.positionBytes order ++ d.high :: e.stamp.frameBytes order)

/-- The place of the entry with sequence number w (11.4). -/
def JournalConfig.place (c : JournalConfig) (w : Word) : Nat := c.base + 16 + 16 * (w.toNat % c.size)

end Sys2Proof.Machine
end

