-- ==== Sys2Proof/Machine/Arbiter.lean ====
section
/-! DEFINITION. The memory arbiter (10.6): what each engine requester accesses next, the grants, and the accesses
carried out. -/

namespace Sys2Proof.Machine

/-- One word access of an engine requester. -/
inductive EngineAccess where
  /-- the next word of a take read -/
  | takeWord (t : TakeRead)
  /-- the next word of the oldest item of the write list, with the words after it -/
  | slotWord (item : WriteItem) (word : SlotWord) (rest : List SlotWord)
  /-- the next word of a Remap's table -/
  | remapWord (a : ArmedCue) (read : List Byte) (address : Nat)
  /-- the next word of the directory -/
  | directoryWord (read : List Byte)
  /-- the next word of the shadow fetch -/
  | shadowWord (turn : Fin 5) (f : ShadowFetch)
  /-- the next word of a click sound's fetch -/
  | clickWord (turn : Fin 5) (sound : Fin 4) (f : ClickFetch)
  /-- the 0 of the written-count word -/
  | headWord (c : JournalConfig)
  /-- the next word of the oldest accepted entry -/
  | entryWord (c : JournalConfig) (entry : JournalEntry)
  /-- the written-count word after an entry -/
  | countWord (c : JournalConfig)
  deriving DecidableEq, Repr

/-- The cue unit's next access (R148). -/
def Part.cueAccess (p : Part) : Option EngineAccess :=
  match p.cues.take, p.cues.writes with
  | some t, _ => some (.takeWord t)
  | none, item :: _ =>
    match item.words with
    | [] => none
    | word :: rest => some (.slotWord item word rest)
  | none, [] => (p.remapReading).map fun (a, read, address) => .remapWord a read address

/-- The scene loader's next access: the directory while it is read, else the fetch engine's turn (R115, R154). -/
def Part.loaderAccess (p : Part) : Option EngineAccess :=
  match p.starting with
  | .reading read => some (.directoryWord read)
  | _ =>
    match p.loader.nextTurn with
    | none => none
    | some turn =>
      match FetchUnit.ofTurn turn with
      | .shadow => p.loader.fetch.map (.shadowWord turn)
      | .click i => p.loader.clickFetches[i].map (.clickWord turn i)

/-- The notice unit's next access (R181, R183). -/
def Part.noticeAccess (p : Part) : Option EngineAccess :=
  match p.notice.config with
  | none => none
  | some c =>
    if p.notice.headPending then some (.headWord c)
    else
      match p.notice.accepted with
      | [] => none
      | entry :: _ => if p.notice.wordsDone < 4 then some (.entryWord c entry) else some (.countWord c)

def Part.accessOf (p : Part) : Requester → Option EngineAccess
  | .cueUnit => p.cueAccess
  | .sceneLoader => p.loaderAccess
  | .noticeUnit => p.noticeAccess

/-- The requester after one, in the rotation's order (R170). -/
def Requester.next : Requester → Requester
  | .cueUnit => .sceneLoader
  | .sceneLoader => .noticeUnit
  | .noticeUnit => .cueUnit

/-- The engine requester granted next with its access: the first that waits, from the rotation pointer (R170). -/
def Part.nextGrant (p : Part) : Option (Requester × EngineAccess) :=
  let first := p.arbiter.rotation
  match p.accessOf first with
  | some access => some (first, access)
  | none =>
    match p.accessOf first.next with
    | some access => some (first.next, access)
    | none => (p.accessOf first.next.next).map fun access => (first.next.next, access)

/-- The arbiter after an engine grant (R170, R171). -/
def Part.markGrant (p : Part) (r : Requester) : Part :=
  { p with arbiter := { p.arbiter with rotation := r.next, hostRun := 0 } }

/-- The arbiter after a host grant (R171). -/
def Part.markHost (p : Part) : Part :=
  { p with arbiter := { p.arbiter with hostRun := min (p.arbiter.hostRun + 1) 64 } }

/-! ### Effects of an access on the part -/

/-- A word of the oldest write item written; the end of a result with notify raises CueNotice (R148). -/
def Part.slotWritten (p : Part) (item : WriteItem) (rest : List SlotWord) : Part :=
  match rest with
  | [] =>
    let p1 := { p with cues := { p.cues with writes := p.cues.writes.tail } }
    if item.result && item.notice then p1.raise .cueNotice else p1
  | _ => { p with cues := { p.cues with writes := { item with words := rest } :: p.cues.writes.tail } }

/-- The written-count word written after an entry: the count raised, the entry gone, the Gap that room brings, and
JournalLevel (R182, R183). -/
def Part.countWritten (p : Part) (c : JournalConfig) : Part :=
  let n := { p.notice with written := p.notice.written + 1, accepted := p.notice.accepted.tail, wordsDone := 0 }
  let p1 := { p with notice := n.acceptGap p.stamp }
  if c.threshold ≤ n.fill then p1.raise .journalLevel else p1

/-! ### The access carried out -/

/-- The address of an access, in shared memory. -/
def Part.accessAddress (p : Part) : EngineAccess → Nat
  | .takeWord t => p.layout.cueBoard + 32 * t.slot.val + t.bytes.length
  | .slotWord item word _ => p.layout.cueBoard + 32 * item.slot.val + word.offset
  | .remapWord _ read address => address + read.length
  | .directoryWord read => read.length
  | .shadowWord _ f => f.address p.layout
  | .clickWord _ _ f => f.base + 4 * f.done
  | .headWord c => c.base
  | .entryWord c _ => c.place p.notice.written + 4 * p.notice.wordsDone
  | .countWord c => c.base

/-- The bytes an access writes; none for a read. -/
def Part.accessWrites (p : Part) (order : ByteOrder) : EngineAccess → Option (List Byte)
  | .slotWord _ word _ => some (word.bytes order)
  | .headWord _ => some (fieldBytes order 4 0)
  | .entryWord _ entry => some (((entry.bytes order).drop (4 * p.notice.wordsDone)).take 4)
  | .countWord _ => some (fieldBytes order 4 (p.notice.written + 1).toNat)
  | _ => none

/-- What an access does to the part, with the word it reads. -/
def Part.accessEffect (p : Part) (order : ByteOrder) (word : List Byte) : EngineAccess → Part
  | .takeWord t => p.takeWord order t word
  | .slotWord item _ rest => p.slotWritten item rest
  | .remapWord a read _ => p.remapWord order a read word
  | .directoryWord read => p.directoryWord order read word
  | .shadowWord turn f => (p.passTurn turn).shadowWord order f word
  | .clickWord turn sound f => (p.passTurn turn).clickWord order sound f word
  | .headWord _ => { p with notice := { p.notice with headPending := false } }
  | .entryWord _ _ => { p with notice := { p.notice with wordsDone := p.notice.wordsDone + 1 } }
  | .countWord c => p.countWritten c

/-- The end of the Stopping drain, when all its conditions hold (R177). -/
def Part.drainTest (p : Part) : Part :=
  if p.engine = .stopping && p.voices.drained && !p.tracker.owes && p.cues.writes.isEmpty &&
      p.notice.accepted.isEmpty then { p with engine := .stopped }
  else p

/-- One word access carried out: the word read or written, and its effect. -/
def State.carryOut (s : State) (access : EngineAccess) : State :=
  let address := s.part.accessAddress access
  { s with
    mem := match s.part.accessWrites s.order access with
      | none => s.mem
      | some bytes => s.mem.writeBytes address bytes
    part := s.part.accessEffect s.order (s.mem.readWord address) access }

/-- One engine grant with all it brings; nothing when no engine requester waits (R170, R177). -/
def State.engineGrant (s : State) : State :=
  match s.part.nextGrant with
  | none => s
  | some (r, access) => ((s.withPart fun p => p.markGrant r).carryOut access).withPart Part.drainTest

/-- An engine grant made only when the access to be granted is of a kind (log 7). -/
def State.grantIf (s : State) (wanted : State → EngineAccess → Bool) : State :=
  match s.part.nextGrant with
  | none => s
  | some (_, access) => if wanted s access then s.engineGrant else s

/-! ### The completing accesses -/

def endsDirectory (_s : State) : EngineAccess → Bool
  | .directoryWord read => read.length == 508
  | _ => false

def endsTake (_s : State) : EngineAccess → Bool
  | .takeWord t => t.bytes.length == 28
  | _ => false

def endsRemap (_s : State) : EngineAccess → Bool
  | .remapWord _ read _ => read.length == 60
  | _ => false

/-- Whether a word is the last of a shadow fetch (R115). -/
def ShadowFetch.endsWith (f : ShadowFetch) (order : ByteOrder) (word : List Byte) : Bool :=
  match f.step order word with
  | .sceneRead _ => true
  | .songRead song => !(f.songLoad && ((song.sections[f.start.getD 0]?).bind (·.scene)).isSome)
  | _ => false

def endsFetch (s : State) : EngineAccess → Bool
  | .shadowWord _ f => f.endsWith s.order (s.mem.readWord (f.address s.part.layout))
  | .clickWord _ _ f => decide (f.words ≤ f.done + 1)
  | _ => false

def endsResult (_s : State) : EngineAccess → Bool
  | .slotWord item _ rest => item.result && rest.isEmpty
  | _ => false

def endsEntry (_s : State) : EngineAccess → Bool
  | .countWord _ => true
  | _ => false

/-! ### Host accesses (R160, R171) -/

/-- Before a host access, the engine access that the host run limit gives way to (R171; log 8). -/
def State.giveWay (s : State) : State :=
  if s.part.arbiter.hostRun < s.part.arbiter.hostRunLimit then s else s.engineGrant

/-- The byte address of a halfword address. -/
def halfwordAddress (address : BitVec 17) : Nat := 2 * address.toNat

/-- A host write granted and decided (R160, R161, R171). -/
def State.hostWrites (s : State) (address : BitVec 17) (data : Halfword) : State :=
  let s1 := s.giveWay.withPart Part.markHost
  let bytes := fieldBytes s1.order 2 data.toNat
  let decided := s1.part.decideWrite s1.order (halfwordAddress address) bytes
  { s1 with part := decided.1
            mem := if decided.2 then s1.mem.writeBytes (halfwordAddress address) bytes else s1.mem }

/-- The halfword at a byte address as the host's data lines carry it (R186). -/
def State.halfwordAt (s : State) (address : Nat) : Halfword :=
  BitVec.ofNat 16 (fieldValue s.order [s.mem.read address, s.mem.read (address + 1)])

/-- A host read granted (R160, R171). -/
def State.hostReads (s : State) (address : BitVec 17) : State :=
  let s1 := s.giveWay.withPart Part.markHost
  { s1 with hostData := s1.halfwordAt (halfwordAddress address) }

end Sys2Proof.Machine
end

