-- ==== Sys2Proof/Machine/Players.lean ====
section
/-! DEFINITION. The player ports (Chapter 4): parsing the serial bytes, and what a completed message becomes. -/

namespace Sys2Proof.Machine

/-- A player port replaced. -/
def Part.setPlayer (p : Part) (i : Fin 4) (port : PlayerPort) : Part := { p with players := p.players.set i port }

/-- The classes of a received byte (R56). -/
inductive ByteClass where
  | data | channelStatus | exclusive | endExclusive | common | realTime
  deriving DecidableEq, Repr

def classOf (b : Byte) : ByteClass :=
  if b.toNat < 0x80 then .data
  else if b.toNat < 0xF0 then .channelStatus
  else if b.toNat = 0xF0 then .exclusive
  else if b.toNat < 0xF7 then .common
  else if b.toNat = 0xF7 then .endExclusive
  else .realTime

/-- Data bytes of a channel message by its status (R57). -/
def dataCount (status : Byte) : Nat := if status.toNat / 16 = 12 ∨ status.toNat / 16 = 13 then 1 else 2

/-- Data bytes stepped over after a system common byte (R59). -/
def commonSkip (b : Byte) : Nat :=
  if b.toNat = 0xF1 ∨ b.toNat = 0xF3 then 1 else if b.toNat = 0xF2 then 2 else 0

/-- A break in the message stream: no message in progress, no running status, the parser in a state (R55, R58,
R59). -/
def PlayerPort.broken (q : PlayerPort) (parser : Parser) (skip : Nat) : PlayerPort :=
  { q with parser := parser, running := none, held := none, skip := skip }

/-- A completed channel message: status and its data bytes (R57). -/
structure Completed where
  status : Byte
  first : Nat
  second : Nat
  deriving DecidableEq, Repr

/-- A data byte of a message of the running status (R57). -/
def PlayerPort.takeData (q : PlayerPort) (status b : Byte) : PlayerPort × Option Completed :=
  if q.expected = 1 then
    ({ q with parser := .idle, held := none }, some { status := status, first := b.toNat, second := 0 })
  else
    match q.held with
    | none => ({ q with parser := .collecting, held := some b }, none)
    | some a =>
      ({ q with parser := .idle, held := none },
        some { status := status, first := a.toNat, second := b.toNat })

/-- A data byte by the parser's state (R56 to R59). -/
def PlayerPort.data (q : PlayerPort) (b : Byte) : PlayerPort × Option Completed :=
  match q.parser with
  | .skipping => (q, none)
  | .idle | .collecting =>
    if 0 < q.skip then ({ q with skip := q.skip - 1 }, none)
    else
      match q.running with
      | none => (q, none)
      | some status => q.takeData status b

/-- The parser on one byte (R56 to R59). -/
def PlayerPort.receive (q : PlayerPort) (b : Byte) : PlayerPort × Option Completed :=
  match classOf b with
  | .realTime => (q, none)
  | .data => q.data b
  | .channelStatus =>
    ({ q with parser := .collecting, running := some b, expected := dataCount b, held := none, skip := 0 }, none)
  | .exclusive => (q.broken .skipping 0, none)
  | .endExclusive => (q.broken .idle 0, none)
  | .common => (q.broken .idle (commonSkip b), none)

/-- The channel filter's test (R60). -/
def ChannelFilter.keeps (f : ChannelFilter) (status : Byte) : Bool :=
  match f with
  | .omni => true
  | .only channel => status.toNat % 16 == channel.val

/-- Whether key messages are delivered: the engine Running and a scene active (R61). -/
def Part.takesKeys (p : Part) : Bool := p.engine = .running && p.loader.activeScene.isSome

/-- A pedal value (R63). -/
def Part.pedalValue (p : Part) (i : Fin 4) (value : Nat) : Part :=
  let down := decide (64 ≤ value)
  match p.players[i].pedal, down with
  | .up, true => (p.setPedal i .down).pedalDown i
  | .down, false => (p.setPedal i .up).pedalUp i
  | _, _ => p

/-- A tap controller value (R64). -/
def Part.tapLevel (p : Part) (i : Fin 4) (value : Nat) : Part :=
  let high := decide (64 ≤ value)
  let was := p.players[i].tapHigh
  let p1 := p.setPlayer i { p.players[i] with tapHigh := high }
  if high && !was then p1.tap else p1

/-- A kept controller message (R60, R63 to R65). -/
def Part.controllerKept (p : Part) (i : Fin 4) (number value : Nat) : Part :=
  if p.players[i].tapController = some number then p.tapLevel i value
  else if !p.takesKeys then p
  else if number = 64 then p.pedalValue i value
  else p.routeController i number value

/-- What a kept message becomes (R60 to R65). Key pressure and program change are discarded. -/
def Part.messageKept (p : Part) (i : Fin 4) (m : Completed) : Part :=
  match m.status.toNat / 16 with
  | 8 => if p.takesKeys then p.releaseKey i m.first m.second else p
  | 9 =>
    if !p.takesKeys then p
    else if m.second = 0 then p.releaseKey i m.first 64
    else p.noteOn i m.first m.second
  | 11 => p.controllerKept i m.first m.second
  | 13 => if p.takesKeys then p.routePressure i m.first else p
  | 14 => if p.takesKeys then p.routeBend i (m.first + 128 * m.second) else p
  | _ => p

/-- A byte taken by a player port's receiver; a port that is not enabled receives nothing (R55 to R60). -/
def Part.byteArrives (p : Part) (i : Fin 4) (b : Byte) : Part :=
  if !p.players[i].enabled then p
  else
    let (port, completed) := p.players[i].receive b
    let p1 := p.setPlayer i port
    match completed with
    | none => p1
    | some m => if port.filter.keeps m.status then p1.messageKept i m else p1

/-- A framing error: a break in the message stream (R55). -/
def Part.framingError (p : Part) (i : Fin 4) : Part :=
  if !p.players[i].enabled then p else p.setPlayer i (p.players[i].broken .idle 0)

end Sys2Proof.Machine
end

