-- ==== Sys2Proof/Machine/Frame.lean ====
section
/-! DEFINITION. One frame event (1.2, 1.3): what it brings in each block, in order. -/

namespace Sys2Proof.Machine

/-! ### Steps that are due (log 3) -/

/-- The steps that stand due when a frame arrives are taken before it: settle countdowns and a hold at 0, cues that
can execute, the end of the drain. -/
def Part.takeOverdue (p : Part) : Part :=
  ((allRoles.foldl Part.endSettle p).expireHold.executeDue).drainTest

/-- One frame of the hold countdown (R128). -/
def HeldSwitch.tick (h : HeldSwitch) : HeldSwitch := { h with countdown := h.countdown - 1 }

/-- One frame of every countdown (R128, R167). -/
def Part.tickCountdowns (p : Part) : Part :=
  { p with
    watch := { p.watch with residents := p.watch.residents.tickSettle }
    loader := { p.loader with held := p.loader.held.map HeldSwitch.tick } }

/-- The frame counted while Running (R3), and an External frame as an edge of the word clock (R2, R22). -/
def Part.countFrame (p : Part) : Part :=
  { p with timeline := { p.timeline with
      frame := if p.engine = .running then p.timeline.frame + 1 else p.timeline.frame
      monitor := if p.timeline.source = .external then .present else p.timeline.monitor } }

/-! ### The timeline's act (R4 to R6) -/

/-- What the timeline hands on in a frame: a boundary with its kind and position stamp, a fine tick, or nothing. -/
inductive FrameNews where
  | nothing
  | tick (index : Nat)
  | boundary (kind : BoundaryKind) (stamp : Stamp)
  deriving DecidableEq, Repr

/-- The accumulator and the beat open mark replaced. -/
def Part.setAcc (p : Part) (acc : Nat) (beatOpen : Bool) : Part :=
  { p with timeline := { p.timeline with acc := acc, beatOpen := beatOpen } }

/-- A sync pulse: a Start byte if one is owed to it, then a clock byte (R20). -/
def Part.syncPulse (p : Part) : Part :=
  if p.timeline.startByte.owesPulse then
    (({ p with timeline := { p.timeline with startByte := p.timeline.startByte.pulsed } }).requestRt
      .start).requestRt .clock
  else p.requestRt .clock

/-- A fine tick: kept by the song pointer, with its sync pulse (R6, R20). -/
def Part.fineTick (p : Part) (index : Nat) : Part :=
  let p1 := p.setPointer { p.pointer with lastTick := index }
  if index % 40 = 0 then p1.syncPulse else p1

/-- The song's end: SongEnded with the stamp of the final beat, and the clock parked (R31). -/
def Part.endSong (p : Part) (final : Stamp) : Part :=
  let song := p.activeSongNumber.getD 0
  (p.journalAt final (.songEnded song)).enterParked

/-- A beat boundary the pointer has taken: the tempo fixed, tick 0 (R4, R6, R33). -/
def Part.boundaryTaken (p : Part) (kind : BoundaryKind) : Part × FrameNews :=
  let p1 := (p.fixTempo (kind == .newSection)).fineTick 0
  (p1, .boundary kind p1.stamp)

/-- The start frame (R5, R27). -/
def Part.startFrame (p : Part) : Part × FrameNews :=
  (({ p with timeline := { p.timeline with startPending := false } }).placeAtStart).boundaryTaken .bar

/-- A beat boundary (R4). -/
def Part.beatBoundary (p : Part) : Part × FrameNews :=
  let final := p.stamp
  match p.advance with
  | (p1, .songEnd) => (p1.endSong final, .nothing)
  | (p1, .boundary kind) => p1.boundaryTaken kind

/-- The accumulator's frame (R4, R6). -/
def Part.accumulate (p : Part) : Part × FrameNews :=
  let d := p.timeline.rate.d
  let t := p.timeline.rate.t
  let sum := p.timeline.acc + p.timeline.tempo
  if d ≤ sum then (p.setAcc (sum - d) true).beatBoundary
  else if p.timeline.acc / t < sum / t then (((p.setAcc sum false).fineTick (sum / t)), .tick (sum / t))
  else (p.setAcc sum false, .nothing)

/-- The timeline's act in a frame; the accumulator moves only in CountIn and Playing (R4, R5). -/
def Part.timelineAct (p : Part) : Part × FrameNews :=
  if !p.clockRuns then (p, .nothing)
  else if p.timeline.startPending then p.startFrame
  else p.accumulate

/-! ### The other blocks (log 4) -/

/-- The scene loader takes the announcement, and the trigger given with it (R121, R122). -/
def Part.loaderTakes (p : Part) (kind : BoundaryKind) : Part := (p.loaderAnnounce kind).actTrigger

/-- The blocks whose place in the frame this is (R33). -/
def Part.placeActs (p : Part) (order : FrameOrder) (kind : BoundaryKind) (place : FramePlace) : Part :=
  let cuesHere := order.cues == some place
  let loaderHere := order.loader == place
  let first := if cuesHere && order.cuesFirst then p.executeDue else p
  let second := if loaderHere then first.loaderTakes kind else first
  if cuesHere && !order.cuesFirst then second.executeDue else second

/-- The cue unit in a frame without an announcement: a song's end makes its cues due at once (R31, R124). -/
def Part.cuesUnannounced (p : Part) (order : FrameOrder) (afterRender : Bool) : Part :=
  if order.cues.isSome && (order.cues == some .afterRender) == afterRender then p.executeDue else p

/-- What the blocks make of the timeline's news, and the frame rendered (R33, R44, R45, R48, R124). -/
def Part.blocksAct (p : Part) (order : FrameOrder) (news : FrameNews) : Part :=
  match news with
  | .nothing => ((p.cuesUnannounced order false).render).cuesUnannounced order true
  | .tick index => (p.subClick index).render
  | .boundary kind stamp =>
    let p1 := (p.markDue kind).placeActs order kind .beforeClick
    let p2 := (p1.clickEvent (boundaryClass stamp.phase kind) stamp).placeActs order kind .beforeRender
    p2.render.placeActs order kind .afterRender

/-- One frame event (R2). -/
def Part.frame (p : Part) (order : FrameOrder) : Part :=
  let counted := p.takeOverdue.tickCountdowns.countFrame
  let act := counted.timelineAct
  act.1.blocksAct order act.2

/-- A rising edge on the word-clock input: a frame event with source External, otherwise for the monitor alone (R2,
R22). -/
def Part.wordClock (p : Part) (order : FrameOrder) : Part :=
  if p.timeline.source = .external then p.frame order else p.setMonitor .present

/-! ### Voice ports (R106, R107) -/

/-- A byte boundary of a voice port: the byte ends; a freed entry is reported to the note tracker, then to the scene
loader; the next byte is chosen (R106, R107). -/
def Part.byteBoundary (p : Part) (voice : Fin 8) : Part :=
  let ended := p.voices.ports[voice].finishByte
  let p1 := { p with voices := p.voices.setPort voice ended.1 }
  let p2 := if ended.2 then (p1.deliverOwed voice).recheckHeld voice else p1
  ({ p2 with voices := p2.voices.setPort voice p2.voices.ports[voice].choose }).drainTest

end Sys2Proof.Machine
end

