-- ==== Sys2Proof/WellFormed.lean ====
section
/-! DEFINITION. Which commands are well formed: the operand is one that the row of the table names. Operand
types already bound ports, addresses, roles and register values; what is left are the rows that are particular
writes of a register. -/

namespace Sys2Proof

/-- Bit 0 of CONTROL, RUN (R188). -/
def controlRun (value : Halfword) : Bool := value.getLsbD 0

/-- Bit 1 of CONTROL, ENGINE_RESET (R188). -/
def controlReset (value : Halfword) : Bool := value.getLsbD 1

/-- ENGINE_START is a CONTROL write with RUN 1 and ENGINE_RESET 0 (R175). -/
def startValueOk (value : Halfword) : Bool := controlRun value && !controlReset value

/-- ENGINE_STOP is a CONTROL write with RUN 0 and ENGINE_RESET 0 (R175). -/
def stopValueOk (value : Halfword) : Bool := !controlRun value && !controlReset value

/-- ENGINE_RESET is a CONTROL write with ENGINE_RESET 1, whatever RUN is (R178). -/
def resetValueOk (value : Halfword) : Bool := controlReset value

/-- The registers whose writes are ignored: IDENT, STATUS, MAIL_OUT and number 7 (R173, R188). -/
def ignoredRegister (register : BitVec 3) : Bool :=
  register == 0 || register == 2 || register == 6 || register == 7

/-- The command codes that name none of the four commands: 0 and 5 to 15 (R188). -/
def unknownCode (code : BitVec 4) : Bool := code == 0 || 5 ≤ code.toNat

/-- A command is well formed when its operands are those its row of the table names. -/
def Instr.wellFormed : Instr → Bool
  | .powerOnReset _ => true
  | .engineStart value => startValueOk value
  | .engineStop value => stopValueOk value
  | .engineReset value => resetValueOk value
  | .directoryReadComplete => true
  | .engineBecomesRunning => true
  | .stoppingDrainEnd => true
  | .registerWriteIgnored register _ => ignoredRegister register
  | .intStatusWrite _ => true
  | .intMaskWrite _ => true
  | .mailOutRead => true
  | .panic _ => true
  | .halt _ => true
  | .tap _ => true
  | .whereAmI _ => true
  | .unknownCommand code _ => unknownCode code
  | .frameEvent _ => true
  | .wordClockEdge _ => true
  | .holdExpiry => true
  | .settleEnd _ => true
  | .clockFallback => true
  | .tapPinRise => true
  | .byteArrival _ _ => true
  | .framingError _ => true
  | .byteBoundary _ => true
  | .hostWrite _ _ => true
  | .hostRead _ => true
  | .engineWordAccess => true
  | .takeReadStart => true
  | .takeReadComplete => true
  | .fetchComplete => true
  | .remapReadComplete => true
  | .cueResultWritten => true
  | .journalEntryWritten => true
  | .cueExecute => true
  | .sceneSwitch => true
  | .mailInWrite _ => true
  | .externalClockAbsent => true

end Sys2Proof
end

