-- ==== Sys2Proof/Machine/Operands.lean ====
section
/-! DEFINITION. The fields of what the host writes into a register: a CONTROL value, a mailbox command, the causes of
INT_STATUS and INT_MASK (12.7). -/

namespace Sys2Proof.Machine

/-- The command code of a MAIL_IN value (R188). -/
def mailCode (value : Halfword) : Nat := value.toNat / 4096

/-- A MAIL_IN value from its code and argument (R188). -/
def mailValue (code : BitVec 4) (argument : BitVec 12) : Halfword := code ++ argument

/-- The MAIL_OUT value of a reply: the code echoed, the result and the data (R188). -/
def replyValue (code : Nat) (unknown : Bool) (data : Nat) : Halfword :=
  BitVec.ofNat 16 (4096 * code + bitOf unknown 11 + data)

/-- The cause bits of an INT_STATUS or INT_MASK value (R188). -/
def causeBits (value : Halfword) : BitVec 5 := value.setWidth 5

/-- The register numbers (R188). -/
def regIdent : Nat := 0
def regControl : Nat := 1
def regStatus : Nat := 2
def regIntStatus : Nat := 3
def regIntMask : Nat := 4
def regMailIn : Nat := 5
def regMailOut : Nat := 6

end Sys2Proof.Machine
end

