-- ==== Sys2Proof/Machine/Flags.lean ====
section
/-! DEFINITION. What the host sees without changing anything: the values the registers read and the IRQ line (R173,
R185, R188). -/

namespace Sys2Proof.Machine

/-- The engine state codes (R188). -/
def EngineState.code : EngineState → Nat
  | .stopped => 0
  | .starting => 1
  | .running => 2
  | .stopping => 3

/-- The start error codes (R188). -/
def StartError.code : StartError → Nat
  | .none => 0
  | .badSignature => 1
  | .badVersion => 2
  | .badRate => 3
  | .badArea => 4
  | .badMap => 5

/-- RUN reads 1 while the engine is Starting or Running (R173). -/
def EngineState.run : EngineState → Bool
  | .starting => true
  | .running => true
  | .stopped => false
  | .stopping => false

/-- The value STATUS reads (R173, R188). -/
def Part.statusValue (p : Part) : Halfword :=
  BitVec.ofNat 16 (p.engine.code + 4 * p.startError.code + bitOf (p.timeline.source == .external) 5 +
    bitOf p.notice.overflow 6 + bitOf p.mail.inFull 7 + bitOf p.mail.outFull 8)

/-- The value a register reads (R173, R188). Reading MAIL_OUT also clears its flag: see Part.readMailOut. -/
def Part.readRegister (p : Part) (number : Nat) : Halfword :=
  match number with
  | 0 => 0x5C21
  | 1 => BitVec.ofNat 16 (bitOf p.engine.run 0)
  | 2 => p.statusValue
  | 3 => p.irq.status.setWidth 16
  | 4 => p.irq.mask.setWidth 16
  | 5 => p.mail.inValue
  | 6 => p.mail.outValue
  | _ => 0

/-- IRQ is asserted while any cause is set and enabled (R185). -/
def Interrupts.asserted (i : Interrupts) : Bool := i.status &&& i.mask != 0

def Part.irqAsserted (p : Part) : Bool := p.irq.asserted

end Sys2Proof.Machine
end

