-- ==== Sys2Proof/Machine/Reset.lean ====
section
/-! DEFINITION. The two resets (R174, R178) and the engine states' acts (R175 to R177). -/

namespace Sys2Proof.Machine

/-- What either reset leaves of the part: every block at its reset value, but for the external clock monitor, which
is not reset (R1), and a serial byte under way, which is sent to its end (R111). -/
def Part.afterReset (p : Part) : Part :=
  { Part.reset with
    timeline := { Timeline.reset with monitor := p.timeline.monitor }
    voices := { reserve := 8, ports := Vector.ofFn fun i => p.voices.ports[i].afterReset } }

/-- An engine reset: the part reset, the shared RAM and the strap untouched (R178). -/
def State.engineReset (s : State) : State := s.withPart Part.afterReset

/-- What a register access made while RESETn is low leaves on the host's data lines: a read returns 0; the access is
not taken (R173). -/
def LowAccess.drive (data : Halfword) : LowAccess → Halfword
  | .read _ => 0
  | .write _ _ => data

/-- A power-on reset: the part reset, the strap sampled, the RAM's contents undefined; the register accesses made while
RESETn is low are not taken, and a read returns 0 (R135, R173, R174; log 6). -/
def State.powerOn (s : State) (interval : ResetInterval) : State :=
  { s with
    mem := Memory.ofCells (Config.undefinedRam s.freeCount)
    order := interval.strap
    hostData := interval.accesses.foldl LowAccess.drive s.hostData
    freeCount := s.freeCount + 1
    part := s.part.afterReset }

/-- The scene loader gives up its stores at Stopping and the four song and scene entries are removed; the router's
flags are cleared (R66, R112, R165). -/
def Part.giveUpStores (p : Part) : Part :=
  let p1 := p.emptyShadow
  let p2 := { p1 with
    flags := 0
    loader := { p1.loader with activeSong := none, activeScene := none } }
  (p2.putResident .activeSong none).putResident .activeScene none

/-- The engine enters Stopping, in one act (R42, R176); where nothing is left to send it reaches Stopped in that act
(R177). -/
def Part.enterStopping (p : Part) : Part :=
  let p1 := p.idleClock.refuseAll
  let p2 := (p1.panic .stopping).1
  ({ p2.giveUpStores.endCursors with engine := .stopping }).drainTest

/-- A CONTROL write with ENGINE_RESET 0, by the engine state and the RUN value (R175). -/
def Part.writeRun (p : Part) (run : Bool) : Part :=
  match p.engine, run with
  | .stopped, true => p.beginStarting
  | .running, false => p.enterStopping
  | _, _ => p

/-- A CONTROL write (R175, R178). -/
def State.writeControl (s : State) (value : Halfword) : State :=
  if controlReset value then s.engineReset else s.withPart fun p => p.writeRun (controlRun value)

end Sys2Proof.Machine
end

