-- ==== Sys2Proof/Machine/Registers.lean ====
section
/-! DEFINITION. The register window and the mailboxes (11.1, 11.3, 11.5). -/

namespace Sys2Proof.Machine

/-! ### Mailboxes (R179, R180) -/

/-- What a mailbox command does, with the data of its reply (R180). -/
def Part.mailCommand (p : Part) (code : Nat) : Part × Nat :=
  match code with
  | 1 => if p.engine = .running ∨ p.engine = .stopping then p.panic .mail else (p, 0)
  | 2 => (if p.engine = .running then p.haltClock else p, 0)
  | 3 => (p.tap, 0)
  | 4 => (p, min p.pointer.barsPlayed 2047)
  | _ => (p, 0)

/-- The codes that name a command (R188). -/
def knownCode (code : Nat) : Bool := decide (1 ≤ code) && decide (code ≤ 4)

/-- The command in MAIL_IN taken, if MAIL_IN is full and MAIL_OUT empty (R180). -/
def Part.takeCommand (p : Part) : Part :=
  if p.mail.inFull && !p.mail.outFull then
    let code := mailCode p.mail.inValue
    let cleared := { p with mail := { p.mail with inFull := false } }
    let done := cleared.mailCommand code
    let replied := { done.1 with mail := { done.1.mail with
      outValue := replyValue code (!knownCode code) done.2, outFull := true } }
    replied.raise .replyReady
  else p

/-- A write to MAIL_IN (R179). -/
def Part.writeMailIn (p : Part) (value : Halfword) : Part :=
  if p.mail.inFull then p
  else ({ p with mail := { p.mail with inValue := value, inFull := true } }).takeCommand

/-- A read of MAIL_OUT, but for the value it returns (R179). -/
def Part.readMailOut (p : Part) : Part := ({ p with mail := { p.mail with outFull := false } }).takeCommand

/-! ### Interrupt registers (R185) -/

/-- A write to INT_STATUS clears each cause written as 1. -/
def Part.writeIntStatus (p : Part) (value : Halfword) : Part :=
  { p with irq := { p.irq with status := p.irq.status &&& ~~~causeBits value } }

/-- A write to INT_MASK. -/
def Part.writeIntMask (p : Part) (value : Halfword) : Part :=
  { p with irq := { p.irq with mask := causeBits value } }

/-! ### The window (R173, R188) -/

/-- A write to a register by its number; IDENT, STATUS, MAIL_OUT and number 7 ignore it. -/
def State.writeRegister (s : State) (number : Nat) (value : Halfword) : State :=
  match number with
  | 1 => s.writeControl value
  | 3 => s.withPart fun p => p.writeIntStatus value
  | 4 => s.withPart fun p => p.writeIntMask value
  | 5 => s.withPart fun p => p.writeMailIn value
  | _ => s

end Sys2Proof.Machine
end

