-- ==== Sys2Proof/Machine/FrameTime.lean ====
section
/-! DEFINITION. Meanings: frames, word clock, countdowns, taps (Chapters 1, 8 and 10). -/

namespace Sys2Proof.Machine

/-- FRAME_EVENT (R2). -/
def execFrameEvent (order : FrameOrder) (s : State) : Host.Outcome State Fault Refusal :=
  go (s.withPart fun p => p.frame order)

/-- WORD_CLOCK_EDGE (R2, R22; log 10). -/
def execWordClockEdge (order : FrameOrder) (s : State) : Host.Outcome State Fault Refusal :=
  go (s.withPart fun p => p.wordClock order)

/-- HOLD_EXPIRY (R130). -/
def execHoldExpiry (s : State) : Host.Outcome State Fault Refusal := go (s.withPart Part.expireHold)

/-- SETTLE_END (R167). -/
def execSettleEnd (role : Role) (s : State) : Host.Outcome State Fault Refusal :=
  go (s.withPart fun p => p.endSettle role)

/-- CLOCK_FALLBACK: the monitor turns Absent while Running with source External (R22). -/
def execClockFallback (s : State) : Host.Outcome State Fault Refusal :=
  go (s.withPart fun p =>
    if p.engine = .running ∧ p.timeline.source = .external then p.monitorAbsent else p)

/-- EXTERNAL_CLOCK_ABSENT: the monitor turns Absent (R22). -/
def execExternalClockAbsent (s : State) : Host.Outcome State Fault Refusal := go (s.withPart Part.monitorAbsent)

/-- TAP_PIN_RISE (R12). -/
def execTapPinRise (s : State) : Host.Outcome State Fault Refusal := go (s.withPart Part.tap)

end Sys2Proof.Machine
end

