-- ==== Sys2Proof/Machine/MailCommands.lean ====
section
/-! DEFINITION. Meanings: the mailbox commands, each a write to MAIL_IN of the command's code (11.3). -/

namespace Sys2Proof.Machine

/-- PANIC: a MAIL_IN write with command code 1 (R96, R97, R180). -/
def execPanic (argument : BitVec 12) (s : State) : Host.Outcome State Fault Refusal :=
  go (s.withPart fun p => p.writeMailIn (mailValue 1 argument))

/-- HALT: a MAIL_IN write with command code 2 (R17, R180). -/
def execHalt (argument : BitVec 12) (s : State) : Host.Outcome State Fault Refusal :=
  go (s.withPart fun p => p.writeMailIn (mailValue 2 argument))

/-- TAP: a MAIL_IN write with command code 3 (R12, R180). -/
def execTap (argument : BitVec 12) (s : State) : Host.Outcome State Fault Refusal :=
  go (s.withPart fun p => p.writeMailIn (mailValue 3 argument))

/-- WHERE_AM_I: a MAIL_IN write with command code 4 (R180). -/
def execWhereAmI (argument : BitVec 12) (s : State) : Host.Outcome State Fault Refusal :=
  go (s.withPart fun p => p.writeMailIn (mailValue 4 argument))

/-- UNKNOWN_COMMAND: a MAIL_IN write with a code that names no command (R180). -/
def execUnknownCommand (code : BitVec 4) (argument : BitVec 12) (s : State) : Host.Outcome State Fault Refusal :=
  go (s.withPart fun p => p.writeMailIn (mailValue code argument))

end Sys2Proof.Machine
end

