-- ==== Sys2Proof/Machine/RegisterAccess.lean ====
section
/-! DEFINITION. Meanings: accesses to the register window (11.1, 11.3, 11.5). -/

namespace Sys2Proof.Machine

/-- REGISTER_WRITE_IGNORED: a write to a register by its number (R173; log 27). -/
def execRegisterWriteIgnored (register : BitVec 3) (value : Halfword) (s : State) :
    Host.Outcome State Fault Refusal := go (s.writeRegister register.toNat value)

/-- INT_STATUS_WRITE (R185). -/
def execIntStatusWrite (value : Halfword) (s : State) : Host.Outcome State Fault Refusal :=
  go (s.withPart fun p => p.writeIntStatus value)

/-- INT_MASK_WRITE (R185). -/
def execIntMaskWrite (value : Halfword) (s : State) : Host.Outcome State Fault Refusal :=
  go (s.withPart fun p => p.writeIntMask value)

/-- MAIL_OUT_READ: the stored reply on the data lines, the flag cleared, a waiting command taken (R179). -/
def execMailOutRead (s : State) : Host.Outcome State Fault Refusal :=
  go { s with hostData := s.part.mail.outValue, part := s.part.readMailOut }

/-- MAIL_IN_WRITE (R179). -/
def execMailInWrite (value : Halfword) (s : State) : Host.Outcome State Fault Refusal :=
  go (s.withPart fun p => p.writeMailIn value)

end Sys2Proof.Machine
end

