-- ==== Sys2Proof/Machine/ResetEngine.lean ====
section
/-! DEFINITION. Meanings: resets and engine states (11.1, 11.2). -/

namespace Sys2Proof.Machine

/-- POWER_ON_RESET (R173, R174). -/
def execPowerOnReset (interval : ResetInterval) (s : State) : Host.Outcome State Fault Refusal :=
  go (s.powerOn interval)

/-- ENGINE_START: a CONTROL write with RUN 1 (R175, R154). -/
def execEngineStart (value : Halfword) (s : State) : Host.Outcome State Fault Refusal := go (s.writeControl value)

/-- ENGINE_STOP: a CONTROL write with RUN 0 (R175, R176). -/
def execEngineStop (value : Halfword) (s : State) : Host.Outcome State Fault Refusal := go (s.writeControl value)

/-- ENGINE_RESET: a CONTROL write with ENGINE_RESET 1 (R178). -/
def execEngineReset (value : Halfword) (s : State) : Host.Outcome State Fault Refusal := go (s.writeControl value)

/-- DIRECTORY_READ_COMPLETE: the grant that reads the last directory word (R154; log 7). -/
def execDirectoryReadComplete (s : State) : Host.Outcome State Fault Refusal := go (s.grantIf endsDirectory)

/-- ENGINE_BECOMES_RUNNING (R154). -/
def execEngineBecomesRunning (s : State) : Host.Outcome State Fault Refusal := go (s.withPart Part.becomeRunning)

/-- STOPPING_DRAIN_END (R177). -/
def execStoppingDrainEnd (s : State) : Host.Outcome State Fault Refusal := go (s.withPart Part.drainTest)

end Sys2Proof.Machine
end

