-- ==== Sys2Proof/Machine/Serial.lean ====
section
/-! DEFINITION. Meanings: the serial ports (Chapters 4 and 7). -/

namespace Sys2Proof.Machine

/-- BYTE_ARRIVAL (R56). -/
def execByteArrival (port : Fin 4) (byte : Byte) (s : State) : Host.Outcome State Fault Refusal :=
  go (s.withPart fun p => p.byteArrives port byte)

/-- FRAMING_ERROR (R55). -/
def execFramingError (port : Fin 4) (s : State) : Host.Outcome State Fault Refusal :=
  go (s.withPart fun p => p.framingError port)

/-- BYTE_BOUNDARY (R106). -/
def execByteBoundary (port : Fin 8) (s : State) : Host.Outcome State Fault Refusal :=
  go (s.withPart fun p => p.byteBoundary port)

end Sys2Proof.Machine
end

