-- ==== Sys2Proof/Machine/SharedMemory.lean ====
section
/-! DEFINITION. Meanings: accesses to the shared RAM (Chapter 10); the rows that complete a read or a write are the
grants that do so (log 7). -/

namespace Sys2Proof.Machine

/-- HOST_WRITE (R160, R161). -/
def execHostWrite (address : BitVec 17) (data : Halfword) (s : State) : Host.Outcome State Fault Refusal :=
  go (s.hostWrites address data)

/-- HOST_READ (R160). -/
def execHostRead (address : BitVec 17) (s : State) : Host.Outcome State Fault Refusal := go (s.hostReads address)

/-- ENGINE_WORD_ACCESS (R170). -/
def execEngineWordAccess (s : State) : Host.Outcome State Fault Refusal := go s.engineGrant

/-- TAKE_READ_START (R138). -/
def execTakeReadStart (s : State) : Host.Outcome State Fault Refusal := go (s.withPart Part.startTake)

/-- TAKE_READ_COMPLETE (R141). -/
def execTakeReadComplete (s : State) : Host.Outcome State Fault Refusal := go (s.grantIf endsTake)

/-- FETCH_COMPLETE (R115). -/
def execFetchComplete (s : State) : Host.Outcome State Fault Refusal := go (s.grantIf endsFetch)

/-- REMAP_READ_COMPLETE (R147). -/
def execRemapReadComplete (s : State) : Host.Outcome State Fault Refusal := go (s.grantIf endsRemap)

/-- CUE_RESULT_WRITTEN (R148). -/
def execCueResultWritten (s : State) : Host.Outcome State Fault Refusal := go (s.grantIf endsResult)

/-- JOURNAL_ENTRY_WRITTEN (R183). -/
def execJournalEntryWritten (s : State) : Host.Outcome State Fault Refusal := go (s.grantIf endsEntry)

end Sys2Proof.Machine
end

