-- ==== Sys2Proof/Machine/Dispatch.lean ====
section
/-! DEFINITION. The dispatch: one arm for each command. -/

namespace Sys2Proof.Machine

def exec (i : Instr) (s : State) : Host.Outcome State Fault Refusal :=
  match i with
  | .powerOnReset interval => Sys2Proof.Machine.execPowerOnReset interval s
  | .engineStart value => Sys2Proof.Machine.execEngineStart value s
  | .engineStop value => Sys2Proof.Machine.execEngineStop value s
  | .engineReset value => Sys2Proof.Machine.execEngineReset value s
  | .directoryReadComplete => Sys2Proof.Machine.execDirectoryReadComplete s
  | .engineBecomesRunning => Sys2Proof.Machine.execEngineBecomesRunning s
  | .stoppingDrainEnd => Sys2Proof.Machine.execStoppingDrainEnd s
  | .registerWriteIgnored register value => Sys2Proof.Machine.execRegisterWriteIgnored register value s
  | .intStatusWrite value => Sys2Proof.Machine.execIntStatusWrite value s
  | .intMaskWrite value => Sys2Proof.Machine.execIntMaskWrite value s
  | .mailOutRead => Sys2Proof.Machine.execMailOutRead s
  | .panic argument => Sys2Proof.Machine.execPanic argument s
  | .halt argument => Sys2Proof.Machine.execHalt argument s
  | .tap argument => Sys2Proof.Machine.execTap argument s
  | .whereAmI argument => Sys2Proof.Machine.execWhereAmI argument s
  | .unknownCommand code argument => Sys2Proof.Machine.execUnknownCommand code argument s
  | .frameEvent order => Sys2Proof.Machine.execFrameEvent order s
  | .wordClockEdge order => Sys2Proof.Machine.execWordClockEdge order s
  | .holdExpiry => Sys2Proof.Machine.execHoldExpiry s
  | .settleEnd role => Sys2Proof.Machine.execSettleEnd role s
  | .clockFallback => Sys2Proof.Machine.execClockFallback s
  | .tapPinRise => Sys2Proof.Machine.execTapPinRise s
  | .byteArrival port byte => Sys2Proof.Machine.execByteArrival port byte s
  | .framingError port => Sys2Proof.Machine.execFramingError port s
  | .byteBoundary port => Sys2Proof.Machine.execByteBoundary port s
  | .hostWrite address data => Sys2Proof.Machine.execHostWrite address data s
  | .hostRead address => Sys2Proof.Machine.execHostRead address s
  | .engineWordAccess => Sys2Proof.Machine.execEngineWordAccess s
  | .takeReadStart => Sys2Proof.Machine.execTakeReadStart s
  | .takeReadComplete => Sys2Proof.Machine.execTakeReadComplete s
  | .fetchComplete => Sys2Proof.Machine.execFetchComplete s
  | .remapReadComplete => Sys2Proof.Machine.execRemapReadComplete s
  | .cueResultWritten => Sys2Proof.Machine.execCueResultWritten s
  | .journalEntryWritten => Sys2Proof.Machine.execJournalEntryWritten s
  | .cueExecute => Sys2Proof.Machine.execCueExecute s
  | .sceneSwitch => Sys2Proof.Machine.execSceneSwitch s
  | .mailInWrite value => Sys2Proof.Machine.execMailInWrite value s
  | .externalClockAbsent => Sys2Proof.Machine.execExternalClockAbsent s

end Sys2Proof.Machine
end

