-- ==== Sys2Proof/Safety.lean ====
section
/-! DEFINITION. What counts as a safe run, in the terms the statements use: the canonical form of memory, the bounds
of the stores, the engine's arrows, and when nothing is due. -/

namespace Sys2Proof.Machine

/-- No command is waiting to be taken before a frame: no settle countdown and no hold stands at 0, no cue can
execute, and the engine is not in its drain (log 3). -/
def Part.quiet (p : Part) : Bool :=
  (allRoles.all fun role => !p.settleDue role) &&
    (match p.loader.held with | none => true | some held => held.countdown != 0) &&
    p.nextCue.isNone && p.engine != .stopping

/-- The queues within their bounds: at most 64 messages, at most 2 real-time bytes (R101, R108). -/
def Part.queuesBounded (p : Part) : Prop :=
  ∀ v : Fin 8, (p.voices.ports[v]).queue.length ≤ Config.queueSize ∧ (p.voices.ports[v]).slot.length ≤ 2

/-- The held-note table within its bound (R82). -/
def Part.tableBounded (p : Part) : Prop := p.tracker.table.length ≤ Config.tableSize

/-- The accepted list within its bound (R181). -/
def Part.acceptedBounded (p : Part) : Prop := p.notice.accepted.length ≤ Config.acceptedSize

/-- What Starting has read is kept only while the engine is Starting (R154). -/
def Part.startingKept (p : Part) : Prop := p.starting ≠ .none → p.engine = .starting

/-- The arrows of the engine states without a reset (11.2). Running leads to Stopped where Stopping has nothing to send
and ends in the act that enters it (R177). -/
def engineArrow (a b : EngineState) : Prop :=
  a = b ∨ (a = .stopped ∧ b = .starting) ∨ (a = .starting ∧ (b = .running ∨ b = .stopped)) ∨
    (a = .running ∧ (b = .stopping ∨ b = .stopped)) ∨ (a = .stopping ∧ b = .stopped)

/-- The byte under way at a reset, sent to its end although its message is gone (R111). -/
def cutByte : Transmitter → Transmitter
  | .idle => .idle
  | .sending byte _ => .sending byte .cut

/-- A part as a reset leaves it: every field at its value after reset, but for the external clock monitor and the
serial bytes under way (R1, R111, R174, R178). -/
def Part.isResetOf (p old : Part) : Prop :=
  p = { Part.reset with timeline := { Timeline.reset with monitor := old.timeline.monitor }, voices := p.voices } ∧
    p.voices.reserve = 8 ∧
    ∀ v : Fin 8, p.voices.ports[v] = { VoicePort.reset with tx := cutByte (old.voices.ports[v]).tx }

/-- Whether a command is a write of CONTROL or of another register that sets ENGINE_RESET, or a power-on reset. -/
def isReset : Instr → Bool
  | .powerOnReset _ => true
  | .engineStart value => controlReset value
  | .engineStop value => controlReset value
  | .engineReset value => controlReset value
  | .registerWriteIgnored register value => register == 1 && controlReset value
  | _ => false

/-- The commands that can carry out an engine requester's word access or a host write, or that leave the RAM
undefined: the only ones that can change shared memory. -/
def reachesMemory : Instr → Bool
  | .powerOnReset _ => true
  | .directoryReadComplete => true
  | .hostWrite _ _ => true
  | .hostRead _ => true
  | .engineWordAccess => true
  | .takeReadComplete => true
  | .fetchComplete => true
  | .remapReadComplete => true
  | .cueResultWritten => true
  | .journalEntryWritten => true
  | _ => false

/-- Whether an address lies in the areas the part writes: the cue board and the journal (10.1). -/
def Part.ownArea (p : Part) (address : Nat) : Prop :=
  (p.layout.cueBoard ≤ address ∧ address < p.layout.cueBoard + 1024) ∨
    ∃ c, p.notice.config = some c ∧ c.base ≤ address ∧ address < c.base + 16 + 16 * c.size

/-- The areas the part writes lie inside shared memory and on their boundaries, as the checks of Starting leave them
(R155). -/
def Part.areasInside (p : Part) : Prop :=
  p.layout.cueBoard % 1024 = 0 ∧ p.layout.cueBoard + 1024 ≤ Config.ramBytes ∧
    ∀ c, p.notice.config = some c → c.base % 16 = 0 ∧ 0 < c.size ∧ c.base + 16 + 16 * c.size ≤ Config.ramBytes

/-- The areas are inside memory, and so are those of a directory whose checks have passed (R154, R155). -/
def Part.areasKept (p : Part) : Prop :=
  p.areasInside ∧ ∀ d, p.starting = .loading d →
    Part.areasInside { p with layout := d.layout, notice := { p.notice with config := some d.journal } }

/-- The host is granted at once: the run count is below the limit (R171). -/
def State.hostFree (s : State) : Prop := s.part.arbiter.hostRun < s.part.arbiter.hostRunLimit

/-- The part after a host grant (R171). -/
def Part.hostGranted (p : Part) : Part :=
  { p with arbiter := { p.arbiter with hostRun := min (p.arbiter.hostRun + 1) 64 } }

/-- The part after an engine grant to a requester (R170, R171). -/
def Part.engineGranted (p : Part) (r : Requester) : Part :=
  { p with arbiter := { p.arbiter with rotation := r.next, hostRun := 0 } }

/-- The two bytes of a halfword in the strap's order, the lower address first (R186). -/
def halfwordBytes (order : ByteOrder) (d : Halfword) : Byte × Byte :=
  match order with
  | .leastFirst => (d.setWidth 8, (d >>> 8).setWidth 8)
  | .mostFirst => ((d >>> 8).setWidth 8, d.setWidth 8)

/-- Memory with the halfword at a halfword address replaced and every other byte kept. -/
def Memory.stored (m n : Memory) (order : ByteOrder) (address : BitVec 17) (d : Halfword) : Prop :=
  n.read (2 * address.toNat) = (halfwordBytes order d).1 ∧ n.read (2 * address.toNat + 1) = (halfwordBytes order d).2 ∧
    ∀ a, a < Config.ramBytes → a ≠ 2 * address.toNat → a ≠ 2 * address.toNat + 1 → n.read a = m.read a

/-- The mailbox free for a command that is answered at once (R179). -/
def Part.mailFree (p : Part) : Prop := p.mail.inFull = false ∧ p.mail.outFull = false

/-- A part with a mailbox reply stored and ReplyReady raised (R180). -/
def Part.answered (p : Part) (command reply : Halfword) : Part :=
  { p with mail := { inValue := command, inFull := false, outValue := reply, outFull := true }
           irq := { p.irq with status := p.irq.status ||| 4 } }

/-- A player port about to complete a message of two data bytes that its filter keeps (R57, R60). -/
def PlayerPort.awaits (q : PlayerPort) (status first : Byte) : Prop :=
  q.enabled = true ∧ q.parser ≠ .skipping ∧ q.skip = 0 ∧ q.running = some status ∧ q.expected = 2 ∧
    q.held = some first ∧ q.filter.keeps status = true

/-- A player port whose message has just been completed (R57). -/
def PlayerPort.completed (q : PlayerPort) : PlayerPort := { q with parser := .idle, held := none }

/-- The part with one player port replaced. -/
def Part.withPort (p : Part) (i : Fin 4) (q : PlayerPort) : Part := { p with players := p.players.set i q }

/-- Every enabled voice port has at least a number of free entries (R101). -/
def Voices.roomFor (v : Voices) (n : Nat) : Prop :=
  ∀ i : Fin 8, (v.ports[i]).enabled = true → (v.ports[i]).queue.length + n ≤ Config.queueSize

/-- The voice ports after a list of messages has been admitted in order: each enabled port holds its messages behind
those it held, a disabled port has discarded them (R102, R105); only the transmitter may have begun besides. -/
def Voices.received (v w : Voices) (messages : List (Fin 8 × Message)) : Prop :=
  w.reserve = v.reserve ∧
    ∀ i : Fin 8, w.ports[i] = { v.ports[i] with
      queue := (v.ports[i]).queue ++
        if (v.ports[i]).enabled then (messages.filter fun m => m.1 = i).map (·.2) else []
      tx := (w.ports[i]).tx
      sent := (w.ports[i]).sent }

/-- The journal event handed over at this moment (R182). -/
def Part.handed (p : Part) (event : JournalEvent) : Notice :=
  p.notice.handOver { event := event, stamp := p.stamp }

/-- The scene loader at rest: the shadow free, no switch late or held (R112). -/
def Part.loaderAtRest (p : Part) : Prop := p.loader.owner = none ∧ p.loader.late = none ∧ p.loader.held = none

/-- A frame rendered and sent from a state of the click generator (R48, R53): each mix's cursor has moved by the frame, and
each slot carries the mix's value in its upper 24 bits. -/
def Part.renderedFrom (q : Part) (c : ClickGen) : Prop :=
  q.click = { c with mixes := Vector.ofFn fun i => ((c.mixes[i]).render c.sounds).1 } ∧
    ∀ i : Fin 8, q.tdm[i] = BitVec.ofInt 32 (((c.mixes[i]).render c.sounds).2 * 256)

/-- A click event of a class taken by a part, and the frame rendered after it (R46, R47): q is the part after the frame,
stamp the event's position stamp, told the notice unit before the event. The active song gives the sound: an index above 3
and a sound without length trigger nothing; a sound that is Refreshing triggers nothing and journals ClickSkipped; any other
restarts the cursor of each mix that is not muted and has a level above 0 for the class. -/
def Part.clicked (p q : Part) (cls : ClickClass) (stamp : Stamp) (told : Notice) : Prop :=
  ∀ song, p.loader.activeSong = some song →
    let index := song.clickSound.get cls
    (4 ≤ index → q.renderedFrom p.click ∧ q.notice = told) ∧
      ∀ sound : Fin 4, sound.val = index →
        (p.isRefreshing (.click sound) = true → q.renderedFrom p.click ∧
          q.notice = told.handOver { event := .clickSkipped cls index, stamp := stamp }) ∧
        (p.isRefreshing (.click sound) = false → (p.click.sounds[sound]).length = 0 →
          q.renderedFrom p.click ∧ q.notice = told) ∧
        (p.isRefreshing (.click sound) = false → (p.click.sounds[sound]).length ≠ 0 →
          q.renderedFrom { p.click with mixes := Vector.ofFn fun i =>
            if (p.click.mixes[i]).mute = false ∧ 0 < (p.click.mixes[i]).levels.get cls then
              { p.click.mixes[i] with cursor :=
                { sound := some sound, position := 0, level := (p.click.mixes[i]).levels.get cls, running := true } }
            else p.click.mixes[i] } ∧ q.notice = told)

/-- The tempo fixed for a beat just begun (R8 to R10): the one the section schedule gives it, or the override's next; a
section entry ends an override without Keep. -/
def Part.paces (p q : Part) (scheduled : Nat) (entry : Bool) : Prop :=
  (p.timeline.plan = none → q.timeline.plan = none ∧ q.timeline.tempo = scheduled) ∧
    ∀ o, p.timeline.plan = some o →
      (entry = true → o.keep = false → q.timeline.plan = none ∧ q.timeline.tempo = scheduled) ∧
      (entry = false ∨ o.keep = true →
        let j := min (o.taken + 1) o.ramp
        q.timeline.tempo = (if o.ramp = 0 then o.target else rampTempo o.base o.target j o.ramp) ∧
          q.timeline.plan = some { o with taken := j })

/-- A SectionJump's target taken by the timeline (R35): q is the part after it. While Parked the target is the start section;
in the count-in it is the section the count-in leads to; with no beat open the entry stays pending; with the beat open the
pointer is in the section at once, here one of more than one bar. -/
def Part.jumped (p q : Part) (target : Nat) (sec : SongSection) : Prop :=
  let old := p.pointer
  let tempo := clampTempo sec.startTempo
  let plays := p.timeline.clock = .playing ∨ p.timeline.clock = .paused
  let vamp := old.vamp && target == old.sectionIndex
  (p.timeline.clock = .parked → q = { p with
    pointer := { old with
      startSection := target, phase := .song, sectionIndex := target, pass := 1, bar := 1, beat := 1, vamp := vamp }
    timeline := { p.timeline with tempo := tempo } }) ∧
  (p.timeline.clock = .countIn → q = { p with pointer := { old with
    startSection := target, sectionIndex := target, bar := min old.bar sec.bars, beat := min old.beat sec.beats } }) ∧
  (plays → p.timeline.beatOpen = false →
    q = { p with pointer := { old with entry := some { target := target, cause := .jump } } }) ∧
  (plays → p.timeline.beatOpen = true → 1 < sec.bars →
    let placed : SongPointer := { old with
      phase := .song, sectionIndex := target, pass := 1, bar := 1, beat := 1, lastTick := 0, vamp := vamp, leave := false
      entry := none, barsPlayed := min (old.barsPlayed + 1) 65535 }
    let kept := p.timeline.plan.filter (·.keep)
    q = { p with
      pointer := placed
      notice := { p with pointer := placed }.handed (.sectionEntered .jump target 1)
      loader := { p.loader with trigger := none }
      timeline := { p.timeline with
        startByte := p.timeline.startByte.landed
        plan := kept
        tempo := if kept.isSome then p.timeline.tempo else tempo } })

/-- A song swapped in as the timeline takes it (R11, R15, R25, R26): q is the part after it, sec the start section. While Idle
or Parked the pointer stands at the start section, Started at once for an auto-start. Otherwise it is a segue, which with the
beat open or Start pending is entered at once, here into a section of more than one bar, and else at the next boundary. -/
def Part.swappedIn (p q : Part) (song : Song) (start : Nat) (autoStart : Bool) (sec : SongSection) : Prop :=
  let tl := p.timeline
  let tempo := clampTempo sec.startTempo
  let idle := tl.clock = .idle ∨ tl.clock = .parked
  let atOnce := tl.beatOpen || tl.startPending
  let paused := tl.clock = .paused
  let active : Loader := { p.loader with activeSong := some song, trigger := none }
  let entering : SongPointer := { p.pointer with
    loaded := true, startSection := start, phase := .song, sectionIndex := start, pass := 1, bar := 1, beat := 1
    lastTick := 0, vamp := false, leave := false
    entry := if atOnce then none else some { target := start, cause := .segue }
    barsPlayed := if atOnce then 1 else 0 }
  let entered := { p with pointer := entering }.handed (.sectionEntered .segue start 1)
  (idle → q = { p with
    loader := active
    pointer := { SongPointer.reset with loaded := true, startSection := start, sectionIndex := start }
    timeline := { tl with
      plan := none, tempo := tempo, startByte := StartByte.none
      clock := if autoStart then (if 0 < song.countIn then .countIn else .playing) else .parked
      startPending := autoStart || tl.startPending
      acc := if autoStart then 0 else tl.acc
      beatOpen := autoStart || tl.beatOpen } }) ∧
  (¬idle → atOnce = true → 1 < sec.bars → q = { p with
    loader := active
    pointer := entering
    notice := entered
    timeline := { tl with
      plan := none, tempo := tempo, startByte := .nextPulse
      clock := if paused then .paused else .playing
      pausedFrom := if paused then some .playing else tl.pausedFrom } }) ∧
  (¬idle → atOnce = false → q = { p with
    loader := active
    pointer := entering
    timeline := { tl with
      plan := none, startByte := tl.startByte.withLanding
      tempo := if paused then tempo else tl.tempo
      clock := if paused then .paused else .playing
      pausedFrom := if paused then some .playing else tl.pausedFrom } })

/-- The destinations that the pedal carry of a scene switched in adds to a player port's fan-out set (R78, R94): with the
pedal Down, the sustain destinations of the incoming scene that are not in the set, once each. -/
def Part.carryJoins (p : Part) (incoming : Option Scene) (i : Fin 4) : List Dest :=
  match incoming with
  | none => []
  | some sc =>
    if (p.players[i]).pedal = .down then
      (((sc.layers.filter fun l => l.sources.getLsbD i.val && l.passSustain).map Layer.dest).eraseDups).filter fun d =>
        !(p.tracker.fan[i]).any fun f => f.dest = d
    else []

/-- The sustain-downs of the pedal carry, in the order of the player ports (R83, R94). -/
def Part.carryDowns (p : Part) (incoming : Option Scene) : List (Fin 8 × Message) :=
  ([0, 1, 2, 3] : List (Fin 4)).flatMap fun i => (p.carryJoins incoming i).map fun d =>
    (d.voice, [BitVec.ofNat 8 (0xB0 + d.channel.val), 64, 127])

/-- What a switch from p to q has sent (R94, R104, R127): the setup messages, and behind them the sustain-downs of the pedal
carry, whose destinations have joined the fan-out sets as Held. There is no sustain-down to send, or room for everything. -/
def Part.switchSends (p q : Part) (incoming : Option Scene) (setup : List SetupMessage) : Prop :=
  let downs := p.carryDowns incoming
  downs = [] ∨ p.voices.roomFor (p.voices.reserve + (setup.length + downs.length)) →
    p.voices.received q.voices ((setup.map fun m => (m.voice, m.message)) ++ downs) ∧
      ∀ i : Fin 4, q.tracker.fan[i] = p.tracker.fan[i] ++ (p.carryJoins incoming i).map fun d =>
        { dest := d, upOwed := false }

/-- A section's switch made (R127, R132): q is the part after it, told the notice unit before its entries. -/
def Part.sectionMade (p q : Part) (sc : Scene) (target : Nat) (cause : SectionCause) (announced : Option Nat)
    (told : Notice) : Prop :=
  let late : Notice := match announced with
    | none => told
    | some missed => told.handOver { event := .switchLate (.sectionEntry target) missed, stamp := p.stamp }
  let event := JournalEvent.sceneSwitched cause.journaled target (p.loader.activeScene.map (·.number)) sc.number p.flags
  q = { p with
    loader := { p.loader with
      activeScene := some sc, shadowScene := none, owner := none, ready := false, fetch := none
      late := none, held := none }
    watch := { p.watch with residents := { p.watch.residents with
      activeScene := p.watch.residents.shadowScene, shadowScene := none, shadowSong := none } }
    flags := 0
    notice := late.handOver { event := event, stamp := p.stamp }
    tracker := { p.tracker with fan := q.tracker.fan }
    voices := q.voices }

/-- A SectionJump with its switch, here one whose landing asks for no other scene and gives no trigger. -/
def Part.jumpFits (p : Part) (a : ArmedCue) (incoming : Option Scene) (place : Nat) (sec : SongSection) : Prop :=
  a.cue = .sectionJump place ∧ p.sectionAt place = some sec ∧ p.loader.shadowSong = none ∧ p.loader.trigger = none ∧
    (p.landsAtOnce = true → 1 < sec.bars ∧ (sec.scene = none ∨ sec.scene = incoming.map (·.number)))

/-- A SongLoad with its switch, here one whose start section, where it is entered at once, has more than one bar. -/
def Part.songFits (p : Part) (a : ArmedCue) (number start : Nat) (autoStart : Bool) (song : Song) (sec : SongSection) :
    Prop :=
  a.cue = .songLoad number start autoStart ∧ p.loader.shadowSong = some song ∧ song.sections[start]? = some sec ∧
    (p.clockRuns = true ∨ p.timeline.clock = .paused →
      p.timeline.beatOpen = true ∨ p.timeline.startPending = true → 1 < sec.bars)

/-- A cue with its switch, of one of the two kinds. -/
def Part.cueFits (p : Part) (a : ArmedCue) (incoming : Option Scene) : Prop :=
  (∃ place sec, p.jumpFits a incoming place sec) ∨
    ∃ number start autoStart song sec, p.songFits a number start autoStart song sec

/-- A cue's switch made (R26, R35, R127, R131, R132, R144): q is the part after it, told the notice unit before its entries.
Besides the scene, a SongLoad's song is swapped in or a SectionJump's target taken by the timeline; the slot is host-owned
again and its result queued. -/
def Part.cueMade (p q : Part) (a : ArmedCue) (incoming : Option Scene) (outcome : CueOutcome) (short : BitVec 8)
    (told : Notice) : Prop :=
  let outScene := p.loader.activeScene.map (·.number)
  let inScene := incoming.map (·.number)
  let swapped : Part := { p with
    loader := { p.loader with activeScene := incoming.or p.loader.activeScene, held := none }
    flags := if incoming.isSome then 0 else p.flags
    notice := if 0 < a.missed then
      told.handOver { event := .switchLate (.cue a.slot a.boundary) a.missed, stamp := p.stamp } else told
    tracker := { p.tracker with fan := q.tracker.fan }
    voices := q.voices }
  let ended (r : Part) (event : JournalEvent) : Part := { r with
    notice := r.notice.handOver { event := event, stamp := r.stamp }
    loader := { r.loader with shadowSong := none, shadowScene := none, owner := none, ready := false, fetch := none }
    watch := { p.watch with
      owners := p.watch.owners.set a.slot .host
      residents := { p.watch.residents with
        activeSong := if p.loader.shadowSong.isSome then p.watch.residents.shadowSong else p.watch.residents.activeSong
        activeScene := if incoming.isSome then p.watch.residents.shadowScene else p.watch.residents.activeScene
        shadowSong := none, shadowScene := none } }
    cues := { p.cues with
      arms := []
      writes := [{
        slot := a.slot
        words := [.answer outcome a.missed short, .position r.stamp, .positionEnd r.stamp, .frameCount r.stamp,
          .state .done]
        result := true, notice := a.notify }] } }
  (∃ place sec r, p.jumpFits a incoming place sec ∧ swapped.jumped r place sec ∧
    q = ended r (.sceneSwitched .cue place outScene (inScene.getD 0) p.flags)) ∨
  ∃ number start autoStart song sec r, p.songFits a number start autoStart song sec ∧
    swapped.swappedIn r song start autoStart sec ∧
    q = ended r (.songChanged (p.loader.activeSong.map (·.number)) number outScene inScene
      (if incoming.isSome then p.flags else 0) start outcome)

/-- A setup batch offered one message at a time, each alone as an opening message (R102, R130): v are the ports before, w the
ports after, with the short ports and the number of messages dropped. Each enabled port takes the messages named for it, in
list order, while it has more free entries than the reserve. -/
def Voices.offeredAlone (v w : Voices) (batch : List SetupMessage) (short : BitVec 8) (dropped : Nat) : Prop :=
  let named (i : Fin 8) : List Message := (batch.filter fun m => m.voice = i).map (·.message)
  let room (i : Fin 8) : Nat := Config.queueSize - (v.ports[i]).queue.length - v.reserve
  let left (i : Fin 8) : Nat := if (v.ports[i]).enabled then (named i).length - room i else 0
  w.reserve = v.reserve ∧
    (∀ i : Fin 8, w.ports[i] = { v.ports[i] with
      queue := (v.ports[i]).queue ++ if (v.ports[i]).enabled then (named i).take (room i) else []
      tx := (w.ports[i]).tx
      sent := (w.ports[i]).sent }) ∧
    (∀ i : Fin 8, short.getLsbD i.val = decide (0 < left i)) ∧ dropped = (List.ofFn left).sum

/-- The note-offs that a held-note table owes a voice port, oldest entry first, in list order (R87, R89). -/
def owedNoteOffs (v : Fin 8) (table : List HeldEntry) : List Message :=
  table.flatMap fun e => match e.state with
    | .sounding => []
    | .owed velocity => (e.dests.filter fun d => !d.delivered && d.dest.voice = v).map fun d =>
        [BitVec.ofNat 8 (0x80 + d.dest.channel.val), BitVec.ofNat 8 d.key, BitVec.ofNat 8 velocity]

/-- A voice port offered what it is owed as it frees an entry (R88, R89): freed is the port with the entry gone, its
transmitter not yet Idle, and q the part after the offers. The note-offs go first, then the sustain-ups, as many as the queue
has room for; a sustain-up admitted takes its destination out of the fan-out set, and an entry with every note-off delivered
leaves the table. What the table owes the other ports stays. -/
def Part.served (p q : Part) (v : Fin 8) (freed : VoicePort) : Prop :=
  let offs := owedNoteOffs v p.tracker.table
  let ups := p.tracker.upOwed[v]
  let room := 64 - freed.queue.length
  let owed := offs ++ ups.map fun u => [BitVec.ofNat 8 (0xB0 + u.dest.channel.val), 64, 0]
  let raised := ups.take (room - offs.length)
  q = { p with
    voices := { p.voices with
      ports := p.voices.ports.set v { freed with queue := freed.queue ++ owed.take room } }
    tracker := { q.tracker with upOwed := p.tracker.upOwed.set v (ups.drop (room - offs.length)) } } ∧
  (∀ i : Fin 4, q.tracker.fan[i] = (p.tracker.fan[i]).filter fun f =>
    !raised.any fun u => u.player = i && u.dest = f.dest) ∧
  owedNoteOffs v q.tracker.table = offs.drop room ∧
  (∀ j : Fin 8, j ≠ v → owedNoteOffs j q.tracker.table = owedNoteOffs j p.tracker.table) ∧
  (q.tracker.table.filter fun e => e.state = .sounding) = (p.tracker.table.filter fun e => e.state = .sounding) ∧
  (offs.length ≤ room → q.tracker.table = (p.tracker.table.map fun e =>
    if e.state = .sounding then e
    else { e with dests := e.dests.map fun d => if d.dest.voice = v then { d with delivered := true } else d }).filter
      fun e => e.state = .sounding || e.dests.any fun d => !d.delivered)

/-- The Lookahead's claim of the shadow for a scene, with its fetch begun (R114, R115, R121). -/
def Part.lookingFor (p : Part) (scene : Nat) : Part := { p with
  loader := { p.loader with
    owner := some (.lookahead scene), shadowSong := none, shadowScene := none, ready := false
    fetch := some { stage := .sceneIndex, songLoad := false, indexed := true, song := 0, scene := scene, start := none
                    also := false, base := 0, bytes := [], count := 0 } }
  watch := { p.watch with residents := { p.watch.residents with shadowSong := none, shadowScene := none } } }

/-- The shadow discarded and free (R114, R121). -/
def Part.shadowFreed (p : Part) : Part := { p with
  loader := { p.loader with owner := none, shadowSong := none, shadowScene := none, ready := false, fetch := none }
  watch := { p.watch with residents := { p.watch.residents with shadowSong := none, shadowScene := none } } }

/-- The scene loader acts on the standing trigger, in each case of R121's table: q is the part after it. -/
def Part.triggered (p q : Part) : Prop :=
  let l := p.loader
  let sectionHeld := ∃ target scene cause announced n,
    l.held = some { cause := .entry target scene cause announced, countdown := n }
  let active := l.activeScene.map (·.number)
  let acts := l.late = none ∧ ¬sectionHeld
  (l.trigger = none ∨ ¬acts → q = p) ∧
  (acts → l.trigger = some .toEnd ∨ (∃ target sec, l.trigger = some (.toSection target) ∧
      p.sectionAt target = some sec ∧ (sec.scene = none ∨ sec.scene = active)) →
    ((∃ n, l.owner = some (.lookahead n)) → q = p.shadowFreed) ∧
    ((∀ n, l.owner ≠ some (.lookahead n)) → q = p)) ∧
  ∀ target sec wanted, acts → l.trigger = some (.toSection target) → p.sectionAt target = some sec →
    sec.scene = some wanted → active ≠ some wanted →
    (l.owner = none ∨ (∃ n, n ≠ wanted ∧ l.owner = some (.lookahead n)) → q = p.lookingFor wanted) ∧
    ((∃ o, l.owner = some o ∧ ∀ n, n ≠ wanted → o ≠ .lookahead n) → q = p)

/-- A section's switch begun with the shadow ready (R127, R128): made where the batch fits, and held otherwise. -/
def Part.sectionBegun (p q : Part) (sc : Scene) (target : Nat) (cause : SectionCause) (announced : Option Nat) : Prop :=
  (p.voices.batchFits sc.setup = true →
    p.sectionMade q sc target cause announced p.notice ∧ p.switchSends q (some sc) sc.setup) ∧
  (p.voices.batchFits sc.setup = false → q = { p with loader := { p.loader with
    late := none
    held := some { cause := .entry target sc.number cause announced, countdown := p.loader.holdLimit } } })

/-- A section's scene considered by the scene loader with no section switch late or held, in each case of R122's tables; with
cause Park the switch is made as soon as its shadow is ready and no lateness of it is journaled (R123). q is the part after
it. -/
def Part.considered (p q : Part) (sec : SongSection) (target : Nat) (cause : SectionCause) : Prop :=
  let l := p.loader
  let active := l.activeScene.map (·.number)
  (sec.scene = none →
    ((∃ n, l.owner = some (.lookahead n)) → q = p.shadowFreed) ∧ ((∀ n, l.owner ≠ some (.lookahead n)) → q = p)) ∧
  (∀ scene, sec.scene = some scene → active = some scene →
    ((∃ n, n ≠ scene ∧ l.owner = some (.lookahead n)) → q = p.shadowFreed) ∧
    ((∀ n, n ≠ scene → l.owner ≠ some (.lookahead n)) → q = p)) ∧
  ∀ scene, sec.scene = some scene → active ≠ some scene →
    let pending (r : Part) (waiting : Bool) : Part := { r with loader := { r.loader with late := some {
      target := target, scene := scene, cause := cause, waiting := waiting, atOnce := decide (cause = .park)
      announced := if cause = .park then none else some 0 } } }
    (l.owner = none ∨ (∃ n, n ≠ scene ∧ l.owner = some (.lookahead n)) → q = pending (p.lookingFor scene) false) ∧
    (l.owner = some (.lookahead scene) → l.ready = false → q = pending p false) ∧
    (∀ sc, l.owner = some (.lookahead scene) → l.ready = true → l.shadowScene = some sc → sc.number = scene →
      l.shadowSong = none → p.sectionBegun q sc target cause none) ∧
    (l.owner = some .refreshScene ∨ (∃ b, l.owner = some (.refreshSong b)) → q = pending p true) ∧
    ((∃ slot, l.owner = some (.cue slot)) → q = { p with notice := p.handed (.sectionSceneSkipped target scene) })

/-- The clock enters Parked from CountIn, Playing or Paused (R10, R17, R20, R36, R123, R124): q is the part after it. A Stop
byte is requested unless the clock was Paused or Start pending; an override with Keep stands, its target in force, and
otherwise the tempo is the start section's; a clock that ran makes every armed cue due. The trigger, a late and a held section
switch are gone, and the start section's scene is considered. -/
def Part.parks (p q : Part) : Prop :=
  ∀ sec, p.sectionAt p.pointer.startSection = some sec →
    let tl := p.timeline
    let planned := tl.plan.bind fun o => if o.keep then some { o with taken := o.ramp } else none
    let parked : Part := { p with
      timeline := { tl with
        clock := .parked, pausedFrom := none, startPending := false, acc := 0, beatOpen := true
        startByte := .none, plan := planned
        tempo := match planned with | none => clampTempo sec.startTempo | some o => o.target }
      pointer := { p.pointer with
        phase := .song, sectionIndex := p.pointer.startSection, pass := 1, bar := 1, countInBar := 1, beat := 1
        lastTick := 0, vamp := false, leave := false, entry := none, barsPlayed := 0 }
      loader := { p.loader with
        trigger := none, late := none
        held := match p.loader.held with
          | some { cause := .entry _ _ _ _, .. } => none
          | held => held }
      cues := if p.clockRuns then { p.cues with arms := p.cues.arms.map fun b => { b with due := true } } else p.cues
      voices := if p.clockRuns && !tl.startPending then p.voices.request .stop else p.voices }
    parked.considered q sec p.pointer.startSection .park

/-- An announcement taken by the scene loader (R121, R122, R125): q is the part after it. At a Beat or Bar a late section
switch counts it and is made if its shadow is ready; with none pending the trigger is acted on. At a Section, here one that
gives no trigger, the section's scene is considered by R122's tables. -/
def Part.loaderHears (p q : Part) (kind : BoundaryKind) : Prop :=
  let l := p.loader
  let counted : Option HeldSwitch := l.held.map fun h => match h.cause with
    | .entry target scene cause announced => { h with cause := .entry target scene cause (announced.map (· + 1)) }
    | .cue _ => h
  let heard (late : Option LateSwitch) (held : Option HeldSwitch) : Part :=
    { p with loader := { l with late := late, held := held } }
  (kind ≠ .newSection →
    (l.late = none → (heard none counted).triggered q) ∧
    ∀ w, l.late = some w →
      let later : LateSwitch := { w with announced := w.announced.map (· + 1) }
      (l.ready = false ∨ l.owner ≠ some (.lookahead w.scene) → q = heard (some later) counted) ∧
      ∀ sc, l.ready = true → l.owner = some (.lookahead w.scene) → l.shadowScene = some sc → sc.number = w.scene →
        l.shadowSong = none → l.trigger = none →
        (heard (some later) counted).sectionBegun q sc w.target w.cause later.announced) ∧
  (kind = .newSection → l.trigger = none → ∀ sec, p.sectionAt p.pointer.sectionIndex = some sec →
    let considered (held : Option HeldSwitch) : Prop :=
      (heard none held).considered q sec p.pointer.sectionIndex .sectionEntry
    (l.held = none → considered none) ∧
    (∀ slot n, l.held = some { cause := .cue slot, countdown := n } → considered l.held) ∧
    ∀ at_ scene cause announced n, l.held = some { cause := .entry at_ scene cause announced, countdown := n } →
      (sec.scene = some scene → q = heard none counted) ∧ (sec.scene ≠ some scene → considered none))

/-- What an announcement does to one armed cue (R124, R125): it falls due, is passed on where its shadow is not ready, or
waits on. -/
def ArmedCue.heard (a : ArmedCue) (kind : BoundaryKind) : ArmedCue :=
  let met := match a.wait with
    | .now => false
    | .beat => true
    | .bar => kind != .beat
    | .newSection => kind == .newSection
  let loads := match a.cue with | .songLoad _ _ _ => true | .sectionJump _ => true | _ => false
  if a.due || !met then a
  else if a.working && loads then
    { a with missed := a.missed + 1, wait := if a.wait = .newSection then .bar else a.wait, due := false,
             atBoundary := false }
  else { a with due := true, atBoundary := true }

/-- A boundary's announcement, its click and its frame, in the order of the blocks (R33, R44, R122, R124): y is the part as
the timeline hands the boundary on, q the part after the frame, in which the cue unit executes nothing. The armed cues fall
due or are passed on; the scene loader takes the announcement before the click event or after it. -/
def Part.announced (y q : Part) (order : FrameOrder) (kind : BoundaryKind) (cls : ClickClass) : Prop :=
  ∃ m z : Part,
    m = { y with
      cues := { y.cues with arms := y.cues.arms.map fun a => a.heard kind }
      click := m.click, tdm := m.tdm, notice := m.notice } ∧
    m.loaderHears z kind ∧
    z = { m with
      voices := z.voices, tracker := z.tracker, flags := z.flags, loader := z.loader, notice := z.notice
      watch := { m.watch with residents := z.watch.residents } } ∧
    q = { z with click := q.click, tdm := q.tdm, notice := q.notice } ∧
    (y.engine = .running →
      (order.loader = .beforeClick → m.notice = y.notice ∧ y.clicked q cls y.stamp z.notice) ∧
      (order.loader ≠ .beforeClick → q.notice = z.notice ∧
        y.clicked { q with notice := m.notice } cls y.stamp y.notice))

/-- The sync pulse of a tick (R6, R20): the voice ports are asked for the Start byte owed to it, if one is, and for a clock
byte. -/
def Part.pulsed (p q : Part) (owed : StartByte) : Prop :=
  q.voices.reserve = p.voices.reserve ∧
    (∀ v : Fin 8, q.voices.ports[v] =
      if owed = .nextPulse ∨ owed = .pulseAndLanding then ((p.voices.ports[v]).request .start).request .clock
      else (p.voices.ports[v]).request .clock) ∧
    q.timeline.startByte = match owed with
      | .none => .none
      | .nextPulse => .none
      | .atLanding => .atLanding
      | .pulseAndLanding => .atLanding

/-- The lookahead trigger that a place of the pointer gives (R40): the section it would enter if its section ended now, or the
song's end. -/
def Part.triggerAt (p : Part) (r : SongPointer) : Trigger :=
  if r.vamp then .toSection r.sectionIndex
  else if (p.sectionAt (r.sectionIndex + 1)).isSome then .toSection (r.sectionIndex + 1)
  else match p.loader.activeSong with
    | none => .toEnd
    | some song => if song.loopLast then .toSection r.sectionIndex else .toEnd

/-- What a Panic has sent (R96, R97): q is the part after it. The note-offs of the Sounding entries go first, then the
sustain-ups of the Held destinations, then the all-notes-off of the active scene's destinations: with room for them all each
is admitted, and with every port enabled and full each is owed, or journaled as ControlDropped. -/
def Part.silenced (p q : Part) (source : PanicSource) : Prop :=
  let sounding := p.tracker.table.filter fun e => e.state == .sounding
  let owed := p.tracker.table.filter fun e => e.state != .sounding
  let released := sounding.length
  let control (number : Nat) (d : Dest) : Fin 8 × Message :=
    (d.voice, [BitVec.ofNat 8 (0xB0 + d.channel.val), BitVec.ofNat 8 number, 0])
  let noteOffs (e : HeldEntry) : List (Fin 8 × Message) := e.dests.map fun d =>
    (d.dest.voice, [BitVec.ofNat 8 (0x80 + d.dest.channel.val), BitVec.ofNat 8 d.key, 64])
  let held (i : Fin 4) : List FanEntry := (p.tracker.fan[i]).filter fun f => !f.upOwed
  let ups : List (Fin 8 × Message) := ([0, 1, 2, 3] : List (Fin 4)).flatMap fun i =>
    (held i).map fun f => control 64 f.dest
  let scene := match p.loader.activeScene with | none => [] | some sc => (sc.layers.map Layer.dest).eraseDups
  let sent := sounding.flatMap noteOffs ++ ups ++ scene.map (control 123)
  let handOver (n : Notice) (event : JournalEvent) : Notice := n.handOver { event := event, stamp := p.stamp }
  q.voices.reserve = p.voices.reserve ∧
  (p.voices.roomFor sent.length →
    p.voices.received q.voices sent ∧ q.tracker.table = owed ∧ q.tracker.upOwed = p.tracker.upOwed ∧
      (∀ i : Fin 4, q.tracker.fan[i] = (p.tracker.fan[i]).filter fun f => f.upOwed) ∧
      q.notice = handOver p.notice (.panic source released owed.length)) ∧
  ((∀ v : Fin 8, (p.voices.ports[v]).enabled = true ∧ 64 ≤ (p.voices.ports[v]).queue.length) →
    (∀ e ∈ sounding, e.dests ≠ [] ∧ ∀ d ∈ e.dests, d.delivered = false) →
    q.voices = p.voices ∧
      q.tracker.table = (p.tracker.table.map fun e =>
        if e.state = .sounding then { e with state := .owed 64 } else e) ∧
      (∀ i : Fin 4, q.tracker.fan[i] = (p.tracker.fan[i]).map fun f => { f with upOwed := true }) ∧
      (∀ v : Fin 8, q.tracker.upOwed[v] = p.tracker.upOwed[v] ++ ([0, 1, 2, 3] : List (Fin 4)).flatMap fun i =>
        ((held i).filter fun f => f.dest.voice = v).map fun f => { player := i, dest := f.dest }) ∧
      q.notice = handOver (scene.foldl (fun n d => handOver n (.controlDropped d 123)) p.notice)
        (.panic source released p.tracker.table.length))

/-- The conditions of the end of the drain (R177): every enabled port drained, nothing owed, the write list empty and no
accepted entry waiting. -/
def Part.allSent (p : Part) : Prop :=
  (∀ v : Fin 8, (p.voices.ports[v]).enabled = true →
    (p.voices.ports[v]).queue = [] ∧ (p.voices.ports[v]).slot = [] ∧ (p.voices.ports[v]).tx = .idle) ∧
  (∀ e ∈ p.tracker.table, e.state = .sounding) ∧ (∀ i : Fin 4, ∀ f ∈ p.tracker.fan[i], f.upOwed = false) ∧
  p.cues.writes = [] ∧ p.notice.accepted = []

/-- The end of the drain tested (R177): q is p, but Stopped where p is Stopping and everything has been sent. -/
def Part.drains (p q : Part) : Prop :=
  (p.engine = .stopping → p.allSent → q = { p with engine := .stopped }) ∧
  (p.engine ≠ .stopping ∨ ¬p.allSent → q = p)

/-- The shadow freed (R114): q is the part after it. A section entry that waits for the shadow is taken up as if it had just
arrived, and otherwise the standing trigger is acted on. -/
def Part.freed (p q : Part) : Prop :=
  let e := p.shadowFreed
  ((∀ w, p.loader.late = some w → w.waiting = false) → e.triggered q) ∧
  ∀ w sec, p.loader.late = some w → w.waiting = true →
    let target := if w.cause = .park then p.pointer.startSection else p.pointer.sectionIndex
    let active := p.loader.activeScene.map (·.number)
    p.sectionAt target = some sec →
    (sec.scene = none ∨ sec.scene = active → { e with loader := { e.loader with late := none } }.triggered q) ∧
    ∀ scene, sec.scene = some scene → active ≠ some scene →
      let claimed := e.lookingFor scene
      q = { claimed with loader := { claimed.loader with
        late := some { w with target := target, scene := scene, waiting := false } } }

/-- The shadow claimed by the cue of a slot for a fetch (R114): q is the part after it. A lookahead is displaced with its late
and its held section switch, each journaled as skipped, and a refresh leaves its active record Stale, which is journaled where
the record was not Stale before. -/
def Part.claims (p q : Part) (slot : Fin 32) (fetch : ShadowFetch) : Prop :=
  let l := p.loader
  let r := p.watch.residents
  let granted (l : Loader) (r : ResidentSet) (n : Notice) : Part := { p with
    loader := { l with
      owner := some (.cue slot), shadowSong := none, shadowScene := none, ready := false, fetch := some fetch }
    watch := { p.watch with residents := { r with shadowSong := none, shadowScene := none } }
    notice := n }
  let skipped (n : Notice) (target scene : Nat) : Notice :=
    n.handOver { event := .sectionSceneSkipped target scene, stamp := p.stamp }
  let unlated : Notice := match l.late with | none => p.notice | some w => skipped p.notice w.target w.scene
  let displaced (role : Role) (entry : Option Resident) (again : Option Resident → ResidentSet) : Prop :=
    (∀ e, entry = some e → e.state ≠ .stale → q = granted l (again (some { e with state := .stale, refetch := 0 }))
      (p.handed (.recordStale role e.kind e.number .displaced))) ∧
    ((∀ e, entry = some e → e.state = .stale) → q = granted l r p.notice)
  (l.owner = none ∨ (∃ other, l.owner = some (.cue other)) → q = granted l r p.notice) ∧
  ((∃ n, l.owner = some (.lookahead n)) →
    ((∀ at_ scene cause announced n, l.held ≠ some { cause := .entry at_ scene cause announced, countdown := n }) →
      q = granted { l with late := none } r unlated) ∧
    ∀ at_ scene cause announced n, l.held = some { cause := .entry at_ scene cause announced, countdown := n } →
      q = granted { l with late := none, held := none } r (skipped unlated at_ scene)) ∧
  ((∃ b, l.owner = some (.refreshSong b)) → displaced .activeSong r.activeSong fun e => { r with activeSong := e }) ∧
  (l.owner = some .refreshScene → displaced .activeScene r.activeScene fun e => { r with activeScene := e })

end Sys2Proof.Machine
end

