-- ==== Sys2Proof/Certificates/Slice0/Obligations.lean ====
section
/-! DEFINITION. The statements for the provers, by the chapters of the spec. -/

open Sys2Proof Sys2Proof.Machine

/-! ### Steps and resets (Chapters 1, 11) -/

/-- With a command at the front of the queue a step is that command on the rest of the queue; with an empty queue
the part idles (log 1). -/
def Obligations.StepRunsFrontCommand : Prop :=
  ∀ (c : Instr) (s : State),
    step { s with pending := c :: s.pending } = exec c s ∧ (s.pending = [] → step s = .next s)

/-- Every command completes in every state. None touches the queue of those behind it; the strap's level changes at
a power-on reset alone (R174), the host's data lines at a read, and shared memory only by the commands that access
it. That the data lines keep the last halfword driven, so that only HOST_READ and MAIL_OUT_READ change them (log
21), and the free-value counter, which is the model's own (log 6), are the model's choices. -/
def Obligations.EveryCommandCompletes : Prop :=
  ∀ (c : Instr) (s : State), ∃ t, exec c s = .next t ∧ t.pending = s.pending ∧
    ((∀ interval, c ≠ .powerOnReset interval) → t.order = s.order ∧ t.freeCount = s.freeCount ∧
      ((∀ address, c ≠ .hostRead address) → c ≠ .mailOutRead → t.hostData = s.hostData)) ∧
    (reachesMemory c = false → t.mem = s.mem)

/-- Values that the tables of R1, R24, R42, R54, R81, R100, R112, R135, R159, R172, R174 and R181 give for a reset,
and the invariants that a step keeps, which hold there. -/
def Obligations.ResetValues : Prop :=
  let p := State.reset.part
  p.engine = .stopped ∧ p.startError = .none ∧ p.mail = ⟨0, false, 0, false⟩ ∧ p.irq = ⟨0, 0⟩ ∧
    p.timeline.rate = .khz48 ∧ p.timeline.source = .internal ∧ p.timeline.clock = .idle ∧
    p.timeline.startPending = false ∧ p.timeline.acc = 0 ∧ p.timeline.beatOpen = true ∧
    p.timeline.tempo = 12000 ∧ p.timeline.plan = none ∧ p.timeline.lastTap = none ∧
    p.timeline.tapFollow = false ∧ p.timeline.frame = 0 ∧ p.pointer.loaded = false ∧
    p.pointer.pass = 1 ∧ p.pointer.bar = 1 ∧ p.pointer.beat = 1 ∧ p.pointer.barsPlayed = 0 ∧
    (∀ i : Fin 4, (p.click.sounds[i]).length = 0 ∧ (p.players[i]).enabled = false ∧
      (p.players[i]).pedal = .up ∧ p.tracker.fan[i] = []) ∧
    (∀ i : Fin 8, (p.click.mixes[i]).cursor.running = false ∧ (p.voices.ports[i]).queue = [] ∧
      (p.voices.ports[i]).enabled = false ∧ p.tracker.upOwed[i] = []) ∧
    p.tracker.table = [] ∧ p.voices.reserve = 8 ∧ p.loader.owner = none ∧ p.loader.holdLimit = 2400 ∧
    p.cues.posted = [] ∧ p.cues.arms = [] ∧ (∀ i : Fin 32, p.watch.owners[i] = .host) ∧
    (∀ a : Fin 0x40000, p.watch.region.regionKind a = .openWrite) ∧ p.watch.region.policy = .normal ∧
    p.arbiter = ⟨.cueUnit, 0, 8⟩ ∧ p.notice.config = none ∧ p.notice.written = 0 ∧ p.notice.taken = 0 ∧
    p.notice.accepted = [] ∧
    State.reset.mem.wf = true ∧ p.queuesBounded ∧ p.tableBounded ∧ p.acceptedBounded ∧ p.startingKept ∧
    p.areasKept

/-- A power-on reset samples the strap and resets the part (R174); an access made while RESETn is low is not taken,
and a read made then returns 0 (R173); what the RAM holds after it is left open (R135). An engine reset keeps memory
and strap (R178). After either, the register window reads as the table of R174 gives it and IRQ is not asserted.
That the interval of RESETn is one act (log 28), that the RAM's contents are a free value (log 6) and that a byte
under way at a reset is sent to its end as a cut byte (log 22) are the model's choices. So are the data lines kept
where no read is made, the layout addresses 0, the taken copy 0 and the expected data count 1 (log 21), and the TDM
slots 0 (log 29). -/
def Obligations.ResetsResetThePart : Prop :=
  ∀ (s : State) (interval : ResetInterval) (value : Halfword),
    let reads := ∃ register, .read register ∈ interval.accesses
    (∃ p m d, exec (.powerOnReset interval) s = .next { s with
        part := p, mem := m, order := interval.strap, hostData := d, freeCount := s.freeCount + 1 } ∧
      (reads → d = 0) ∧ (¬reads → d = s.hostData) ∧
      p.isResetOf s.part ∧ p.readRegister 0 = 0x5C21 ∧ (∀ n, 0 < n → p.readRegister n = 0) ∧
      p.irqAsserted = false) ∧
    (resetValueOk value = true → ∃ p, exec (.engineReset value) s = .next { s with part := p } ∧
      p.isResetOf s.part ∧ p.readRegister 0 = 0x5C21 ∧ (∀ n, 0 < n → p.readRegister n = 0) ∧
      p.irqAsserted = false)

/-! ### Engine states (11.2, 10.2) -/

/-- A RUN write of 1 while Stopped begins Starting: the start error None, the directory read from its first word,
the resident set and the accepted list emptied, click fetches abandoned, all else kept. That a journal entry half
written is forgotten with the accepted list, and that a 0 still owed to the written-count word stays owed, are the
model's choices (log 31). -/
def Obligations.StartBeginsStarting : Prop :=
  ∀ (value : Halfword) (s : State), startValueOk value = true → s.part.engine = .stopped →
    exec (.engineStart value) s = .next { s with part := { s.part with
      engine := .starting
      startError := .none
      starting := .reading []
      loader := { s.part.loader with clickFetches := Vector.replicate 4 none }
      watch := { s.part.watch with residents := ResidentSet.reset }
      notice := { s.part.notice with accepted := [], wordsDone := 0 } } }

/-- The register writes that change nothing: CONTROL writes that ask for the state the engine is in or come while it
is Starting or Stopping, writes to a read-only register or to register 7, and a MAIL_IN write while MAIL_IN is full.
-/
def Obligations.WritesThatChangeNothing : Prop :=
  ∀ (value : Halfword) (register : BitVec 3) (s : State),
    (startValueOk value = true → s.part.engine ≠ .stopped → exec (.engineStart value) s = .next s) ∧
    (stopValueOk value = true → s.part.engine ≠ .running → exec (.engineStop value) s = .next s) ∧
    (ignoredRegister register = true → exec (.registerWriteIgnored register value) s = .next s) ∧
    (s.part.mail.inFull = true → exec (.mailInWrite value) s = .next s)

/-- The grant of the last directory word, where no other requester waits: the checks pass and the click sounds are
being read, or the engine is Stopped with the error of the first check that fails and no block has taken a value
(R154). The checks in their order are stated by PassedDirectoryIsSound. The click table is read by R43: a length of
0 clears the sound and every other sound begins its fetch; that no resident entry of a sound is made until its fetch
completes is the model's choice (log 39). -/
def Obligations.DirectoryReadDecides : Prop :=
  ∀ (s : State) (read : List Byte), s.part.engine = .starting → s.part.starting = .reading read →
    read.length = 508 → s.part.accessOf .cueUnit = none → s.part.accessOf .noticeUnit = none →
    let bytes := read ++ s.mem.readWord 508
    let granted := { s.part.arbiter with rotation := Requester.noticeUnit, hostRun := 0 }
    let fetchOf (e : SoundEntry) : Option ClickFetch :=
      if e.length = 0 then none
      else some ⟨.starting, e.address, e.length, (e.length + 1) / 2, 0⟩
    let loading : Part :=
      { s.part with
        arbiter := granted
        starting := .loading (parseDirectory s.order bytes)
        click := { s.part.click with sounds := Vector.ofFn fun i =>
          if ((parseDirectory s.order bytes).sounds[i]).length = 0 then { samples := [], length := 0 }
          else s.part.click.sounds[i] }
        loader := { s.part.loader with
          clickFetches := Vector.ofFn fun i => fetchOf (parseDirectory s.order bytes).sounds[i] } }
    let failed : Part :=
      { s.part with
        arbiter := granted
        engine := .stopped
        startError := directoryError s.order bytes
        starting := .none }
    exec .directoryReadComplete s =
      .next { s with part := if directoryError s.order bytes = .none then loading else failed }

/-- The checks of R155 in their order: the start error is that of the first that fails. A directory that passes them
puts the areas of 10.1 inside memory, aligned, and every two of the directory, cue board, journal area, song index
and scene index apart; a click sound of length 1 or more passes the address checks of R43; and its values lie in the
ranges R156 clamps them into. -/
def Obligations.PassedDirectoryIsSound : Prop :=
  ∀ (order : ByteOrder) (bytes : List Byte),
    let error := directoryError order bytes
    let num (k : Nat) := (bytes.getD k 0).toNat
    let field (offset size : Nat) := fieldAt order bytes offset size
    let size := 16 + 16 * match num 0x0B with | 0 => 64 | 1 => 128 | 2 => 256 | _ => 512
    let read : List (Nat × Nat) :=
      [(0, 512), (field 0x10 4, 1024), (field 0x14 4, size), (field 0x18 4, 512), (field 0x1C 4, 1024)]
    let placed := num 0x0B ≤ 3 ∧ field 0x10 4 % 1024 = 0 ∧ field 0x14 4 % 16 = 0 ∧ field 0x18 4 % 4 = 0 ∧
      field 0x1C 4 % 4 = 0 ∧ (∀ a ∈ read, a.1 + a.2 ≤ Config.ramBytes) ∧
      read.Pairwise (fun a b => a.1 + a.2 ≤ b.1 ∨ b.1 + b.2 ≤ a.1) ∧
      ∀ i, i < 4 →
        let length := min (field (0x40 + 8 * i + 4) 2) 2048
        0 < length → field (0x40 + 8 * i) 4 % 4 = 0 ∧
          field (0x40 + 8 * i) 4 + 4 * ((length + 1) / 2) ≤ Config.ramBytes
    let mapped := (parseRegion order ((bytes.drop 0xA0).take 64)).isSome = true
    (field 0 4 ≠ 0x53583234 → error = .badSignature) ∧
    (field 0 4 = 0x53583234 →
      (field 4 2 ≠ 1 → error = .badVersion) ∧
      (field 4 2 = 1 →
        (2 < num 6 → error = .badRate) ∧
        (num 6 ≤ 2 → (¬placed → error = .badArea) ∧
          (placed → (¬mapped → error = .badMap) ∧ (mapped → error = .none))))) ∧
    (error = .none →
    let d := parseDirectory order bytes
    let areas : List (Nat × Nat) :=
      [(0, 512), (d.layout.cueBoard, 1024), (d.journal.base, 16 + 16 * d.journal.size), (d.layout.songIndex, 512),
        (d.layout.sceneIndex, 1024)]
    areas.Pairwise (fun a b => a.1 + a.2 ≤ b.1 ∨ b.1 + b.2 ≤ a.1) ∧ (∀ a ∈ areas, a.1 + a.2 ≤ Config.ramBytes) ∧
      d.layout.cueBoard % 1024 = 0 ∧ d.journal.base % 16 = 0 ∧ d.layout.songIndex % 4 = 0 ∧
      d.layout.sceneIndex % 4 = 0 ∧
      (d.journal.size = 64 ∨ d.journal.size = 128 ∨ d.journal.size = 256 ∨ d.journal.size = 512) ∧
      (∀ i : Fin 4, 0 < (d.sounds[i]).length → (d.sounds[i]).address % 4 = 0 ∧
        (d.sounds[i]).address + 2 * (d.sounds[i]).length ≤ Config.ramBytes) ∧
      (1 ≤ d.journal.threshold ∧ d.journal.threshold ≤ d.journal.size) ∧
      (1 ≤ d.hostRunLimit ∧ d.hostRunLimit ≤ 64) ∧ (1 ≤ d.holdMs ∧ d.holdMs ≤ 250) ∧ d.reserve ≤ 16)

/-- The engine becomes Running once the click sounds are read: every block at its value for that moment, with the
clock fallback of R22 when the directory names External and the monitor reads Absent. That the 0 of the
written-count word waits for a grant of its own (log 31) and that a player port's expected data count is 1 (log 21)
are the model's choices. -/
def Obligations.BecomingRunningSetsEveryBlock : Prop :=
  ∀ (s : State) (d : Directory), s.part.starting = .loading d →
    (∀ i : Fin 4, s.part.loader.clickFetches[i] = none) →
    let falls := d.source = .external ∧ s.part.timeline.monitor = .absent
    let begun : Notice :=
      { config := some d.journal, written := 0, taken := 0, overflow := false, unwritten := 0,
        accepted := s.part.notice.accepted, wordsDone := 0, headPending := true }
    let origin : Stamp :=
      { phase := .song, sectionIndex := 0, pass := 1, bar := 1, beat := 1, tick := 0, frame := 0 }
    ∃ p, exec .engineBecomesRunning s = .next { s with part := p } ∧
      p = { s.part with
        engine := .running
        starting := .none
        layout := d.layout
        timeline := { Timeline.reset with
          rate := d.rate
          source := if s.part.timeline.monitor = .absent then .internal else d.source
          monitor := s.part.timeline.monitor }
        pointer := SongPointer.reset
        click := { s.part.click with mixes := Vector.ofFn fun m =>
          { levels := (d.mixes[m]).levels, trim := (d.mixes[m]).trim, mute := (d.mixes[m]).mute
            cursor := Cursor.ended } }
        flags := 0
        tracker := Tracker.reset
        cues := CueUnit.reset
        voices := { reserve := d.reserve, ports := Vector.ofFn fun v => { VoicePort.reset with
          enabled := (d.voices[v]).enabled, clockOut := (d.voices[v]).clockOut } }
        players := Vector.ofFn fun i => { PlayerPort.reset with
          enabled := (d.players[i]).enabled, filter := (d.players[i]).filter
          tapController := (d.players[i]).tapController }
        loader := { Loader.reset with holdLimit := d.holdMs * d.rate.hz / 1000, turn := s.part.loader.turn }
        watch :=
          { region := d.region, owners := Vector.replicate 32 .host, takenCopy := 0
            residents := { ResidentSet.reset with clicks := s.part.watch.residents.clicks } }
        arbiter := { s.part.arbiter with hostRunLimit := d.hostRunLimit }
        notice := if falls then begun.handOver { event := .clockFallback, stamp := origin } else begun
        irq := { s.part.irq with status := if falls then s.part.irq.status ||| 16 else s.part.irq.status } }

/-- The drain ends exactly when every port is drained, nothing is owed, the write list is empty and no accepted
entry waits (R177); nothing else changes. -/
def Obligations.DrainEndsWhenAllIsSent : Prop :=
  ∀ s : State,
    let p := s.part
    let portsDrained := ∀ v : Fin 8, (p.voices.ports[v]).enabled = true →
      (p.voices.ports[v]).queue = [] ∧ (p.voices.ports[v]).slot = [] ∧ (p.voices.ports[v]).tx = .idle
    let noneOwed := (∀ e ∈ p.tracker.table, e.state = .sounding) ∧
      ∀ i : Fin 4, ∀ f ∈ p.tracker.fan[i], f.upOwed = false
    let done := p.engine = .stopping ∧ portsDrained ∧ noneOwed ∧ p.cues.writes = [] ∧ p.notice.accepted = []
    (done → exec .stoppingDrainEnd s = .next { s with part := { p with engine := .stopped } }) ∧
    (¬done → exec .stoppingDrainEnd s = .next s)

/-- Entering Stopping, in one act (R176): the clock Idle and the pointer at its reset values, a Stop byte requested
where the clock ran and Start was not pending (R19, R20), every slot of the two lists (R134: every engine-owned
slot) host-owned with a result of EngineStopped queued and both lists empty (R153), nothing Sounding and every pedal
Up, every fan-out destination UpOwed, the note-offs, sustain-ups and all-notes-offs of the Panic sent or owed and
its entry journaled with source Stopping (R96 to R98), both active stores, the shadow and their resident entries
given up, every cursor ended. The engine is Stopping, or Stopped where the four conditions of R177 already hold
after that act. That the beat open mark is set with the accumulator (log 41) and that the Start byte still to come
is dropped with the clock (log 20) are the model's choices. That the conditions of R177 are tested in this act too
is the model's reading (log 23). -/
def Obligations.EnteringStoppingSilencesThePart : Prop :=
  ∀ (value : Halfword) (s : State), stopValueOk value = true → s.part.engine = .running →
    let idle : Part := { s.part with
      timeline := { s.part.timeline with
        clock := .idle, pausedFrom := none, startPending := false, acc := 0, beatOpen := true, plan := none
        startByte := .none }
      pointer := SongPointer.reset
      voices := if s.part.clockRuns && !s.part.timeline.startPending then s.part.voices.request .stop
        else s.part.voices }
    let refused (slot : Fin 32) (notify : Bool) : WriteItem :=
      { slot := slot
        words := [.answer .engineStopped 0 0, .position idle.stamp, .positionEnd idle.stamp, .frameCount idle.stamp,
          .state .refused]
        result := true, notice := notify }
    let results := s.part.cues.posted.map (fun slot => refused slot false) ++
      s.part.cues.arms.map fun a => refused a.slot a.notify
    let writes := s.part.cues.writes
    ∃ p, exec (.engineStop value) s = .next { s with part := p } ∧
      (p.allSent → p.engine = .stopped) ∧ (¬p.allSent → p.engine = .stopping) ∧
      idle.silenced p .stopping ∧
      ((results.map (·.slot)).Nodup → ((writes.filter fun w => !w.result).map (·.slot)).Nodup →
        p.cues.writes = (writes.map fun w =>
            if w.result then w else (results.find? fun r => r.slot = w.slot).getD w) ++
          results.filter fun r => !writes.any fun w => !w.result && w.slot = r.slot) ∧
      p.timeline = idle.timeline ∧
      p.pointer = SongPointer.reset ∧
      p.cues.posted = [] ∧ p.cues.arms = [] ∧ p.cues.take = none ∧
      (∀ slot : Fin 32, p.watch.owners[slot] =
        if slot ∈ s.part.cues.posted ∨ ∃ a ∈ s.part.cues.arms, a.slot = slot then .host
        else s.part.watch.owners[slot]) ∧
      (∀ e ∈ p.tracker.table, e.state ≠ .sounding) ∧
      (∀ i : Fin 4, (p.players[i]).pedal = .up ∧ ∀ f ∈ p.tracker.fan[i], f.upOwed = true) ∧
      p.flags = 0 ∧ p.loader.activeSong = none ∧ p.loader.activeScene = none ∧ p.loader.shadowSong = none ∧
      p.loader.shadowScene = none ∧ p.loader.owner = none ∧ p.loader.fetch = none ∧ p.loader.trigger = none ∧
      p.loader.late = none ∧ p.loader.held = none ∧ p.loader.clickFetches = s.part.loader.clickFetches ∧
      p.watch.residents = { ResidentSet.reset with clicks := s.part.watch.residents.clicks } ∧
      (∀ i : Fin 8, (p.click.mixes[i]).cursor.running = false) ∧
      p.click.sounds = s.part.click.sounds ∧ p.watch.region = s.part.watch.region ∧
      p.layout = s.part.layout ∧ p.mail = s.part.mail ∧ p.irq = s.part.irq ∧ p.arbiter = s.part.arbiter ∧
      p.startError = s.part.startError ∧ p.tdm = s.part.tdm

/-- The engine states and their arrows (11.2): a step that is no reset keeps the engine where it is or takes it
along one arrow, and what Starting has read is kept only while Starting. -/
def Obligations.EngineFollowsItsArrows : Prop :=
  ∀ s t : State, s.part.startingKept → step s = .next t →
    t.part.startingKept ∧
      ((∀ c, s.pending.head? = some c → isReset c = false) → engineArrow s.part.engine t.part.engine)

/-! ### Registers and mailboxes (11.1, 11.3, 11.5) -/

/-- INT_STATUS is cleared where 1 is written and INT_MASK holds what is written, bit by bit; IRQ is asserted while
any cause is set and enabled. -/
def Obligations.InterruptRegistersFollowWrites : Prop :=
  ∀ (value : Halfword) (s : State),
    (∃ status : BitVec 5,
      exec (.intStatusWrite value) s =
        .next { s with part := { s.part with irq := { s.part.irq with status := status } } } ∧
      ∀ i, i < 5 → status.getLsbD i = (s.part.irq.status.getLsbD i && !value.getLsbD i)) ∧
    (∃ mask : BitVec 5,
      exec (.intMaskWrite value) s =
        .next { s with part := { s.part with irq := { s.part.irq with mask := mask } } } ∧
      ∀ i, i < 5 → mask.getLsbD i = value.getLsbD i) ∧
    (s.part.irqAsserted = true ↔ ∃ i, i < 5 ∧ s.part.irq.status.getLsbD i = true ∧
      s.part.irq.mask.getLsbD i = true)

/-- A read of MAIL_OUT returns the stored reply and clears mail-out full; a command waiting in MAIL_IN is taken in
the same act, here one whose code names no command (R179, R180). That the data lines keep what was read is the
model's choice (log 21). -/
def Obligations.MailOutReadReturnsTheReply : Prop :=
  ∀ s : State,
    (s.part.mail.inFull = false →
      exec .mailOutRead s = .next { s with
        hostData := s.part.mail.outValue
        part := { s.part with mail := { s.part.mail with outFull := false } } }) ∧
    (∀ (code : BitVec 4) (argument : BitVec 12), s.part.mail.inFull = true →
      s.part.mail.inValue = code ++ argument → unknownCode code = true →
      exec .mailOutRead s = .next { s with
        hostData := s.part.mail.outValue
        part := s.part.answered (code ++ argument) (code ++ 0x800#12) })

/-- A write to MAIL_IN: stored and waiting while a reply is unread; otherwise taken at once as the command its code
names (R179, R180). A write while MAIL_IN is full is among the writes that change nothing. -/
def Obligations.MailInWriteIsStoredOrTaken : Prop :=
  ∀ (argument : BitVec 12) (value : Halfword) (s : State),
    (s.part.mail.inFull = false → s.part.mail.outFull = true →
      exec (.mailInWrite value) s = .next { s with part := { s.part with
        mail := { s.part.mail with inValue := value, inFull := true } } }) ∧
    exec (.mailInWrite (1#4 ++ argument)) s = exec (.panic argument) s ∧
    exec (.mailInWrite (2#4 ++ argument)) s = exec (.halt argument) s ∧
    exec (.mailInWrite (3#4 ++ argument)) s = exec (.tap argument) s ∧
    exec (.mailInWrite (4#4 ++ argument)) s = exec (.whereAmI argument) s

/-- The commands answered without any other effect (R180): an unknown code with Unknown, WhereAmI with the bars
played up to 2047, and Panic, Halt and Tap in the engine states in which they have none. -/
def Obligations.MailCommandsAnswered : Prop :=
  ∀ (code : BitVec 4) (argument : BitVec 12) (s : State), s.part.mailFree →
    let bars := BitVec.ofNat 12 (min s.part.pointer.barsPlayed 2047)
    (unknownCode code = true →
      exec (.unknownCommand code argument) s =
        .next { s with part := s.part.answered (code ++ argument) (code ++ 0x800#12) }) ∧
    exec (.whereAmI argument) s =
      .next { s with part := s.part.answered (4#4 ++ argument) (4#4 ++ bars) } ∧
    (s.part.engine = .stopped ∨ s.part.engine = .starting →
      exec (.panic argument) s = .next { s with part := s.part.answered (1#4 ++ argument) (1#4 ++ 0#12) }) ∧
    (s.part.engine ≠ .running →
      exec (.halt argument) s = .next { s with part := s.part.answered (2#4 ++ argument) (2#4 ++ 0#12) } ∧
      exec (.tap argument) s = .next { s with part := s.part.answered (3#4 ++ argument) (3#4 ++ 0#12) })

/-- The Tap command gives the timeline the tap that the TAP pin gives it, and the reply besides (R12, R180). -/
def Obligations.TapCommandGivesOneTap : Prop :=
  ∀ (argument : BitVec 12) (s : State), s.part.mailFree →
    ∃ p, exec .tapPinRise s = .next { s with part := p } ∧
      exec (.tap argument) s = .next { s with part := p.answered (3#4 ++ argument) (3#4 ++ 0#12) }

/-- The Panic command while Running or Stopping (R96 to R98, R180): no entry Sounding, every pedal Up, every fan-out
destination UpOwed, the number released in the reply; timeline, scene, cues and watch are kept. With room for every
message the ports receive the note-offs of the Sounding entries, oldest first, with velocity 64, then the
sustain-ups of the Held destinations of player ports 0 to 3, then an all-notes-off to each destination of the scene,
and the Panic entry alone is journaled. With every port enabled and full nothing is sent: each Sounding entry is
Owed, each Held destination UpOwed, and ControlDropped is journaled for each destination of the scene before the
Panic entry. -/
def Obligations.PanicReleasesEveryNote : Prop :=
  ∀ (argument : BitVec 12) (s : State), s.part.mailFree → s.part.tableBounded →
    s.part.engine = .running ∨ s.part.engine = .stopping →
    let old := s.part
    let released := (old.tracker.table.filter fun e => e.state == .sounding).length
    ∃ p, exec (.panic argument) s = .next { s with part := p } ∧
      (∀ e ∈ p.tracker.table, e.state ≠ .sounding) ∧
      (∀ i : Fin 4, (p.players[i]).pedal = .up ∧ ∀ f ∈ p.tracker.fan[i], f.upOwed = true) ∧
      p.mail = { inValue := 1#4 ++ argument, inFull := false, outValue := 1#4 ++ BitVec.ofNat 12 released,
                 outFull := true } ∧
      p.irq = { s.part.irq with status := s.part.irq.status ||| 4 } ∧
      (∀ i : Fin 4, p.players[i] = { s.part.players[i] with pedal := .up }) ∧
      p.engine = s.part.engine ∧ p.startError = s.part.startError ∧ p.starting = s.part.starting ∧
      p.layout = s.part.layout ∧ p.timeline = s.part.timeline ∧ p.pointer = s.part.pointer ∧
      p.click = s.part.click ∧ p.tdm = s.part.tdm ∧ p.flags = s.part.flags ∧ p.loader = s.part.loader ∧
      p.cues = s.part.cues ∧ p.watch = s.part.watch ∧ p.arbiter = s.part.arbiter ∧
      old.silenced p .mail

/-- The Halt command while Running (R17, R36, R180): from CountIn, Playing or Paused the clock is Parked with the
pointer at the start section, a Stop byte requested, the tempo that of the plan or of the start section, and the
start section's scene considered (Part.parks; R10, R20, R123); while Idle or Parked the clock stays as it is. That
the Start byte still to come is dropped (log 20) and that an override with Keep is complete when the clock is parked
(log 34) are the model's choices. -/
def Obligations.HaltParksTheClock : Prop :=
  ∀ (argument : BitVec 12) (s : State), s.part.mailFree → s.part.engine = .running →
    (s.part.timeline.clock = .idle ∨ s.part.timeline.clock = .parked →
      exec (.halt argument) s = .next { s with part := s.part.answered (2#4 ++ argument) (2#4 ++ 0#12) }) ∧
    (s.part.timeline.clock ≠ .idle → s.part.timeline.clock ≠ .parked →
      let taken : Part := { s.part with mail := { s.part.mail with
        inValue := 2#4 ++ argument, inFull := false, outFull := false } }
      ∃ p z, exec (.halt argument) s = .next { s with part := p } ∧ taken.parks z ∧
        p = z.answered (2#4 ++ argument) (2#4 ++ 0#12) ∧
        p.timeline.clock = .parked ∧ p.timeline.pausedFrom = none ∧ p.timeline.startPending = false ∧
        p.timeline.acc = 0 ∧ p.timeline.beatOpen = true ∧
        p.pointer = { s.part.pointer with
          phase := .song, sectionIndex := s.part.pointer.startSection, pass := 1, bar := 1, countInBar := 1
          beat := 1, lastTick := 0, vamp := false, leave := false, entry := none, barsPlayed := 0 } ∧
        (s.part.timeline.clock ≠ .paused → ∀ a ∈ p.cues.arms, a.due = true) ∧
        p.mail = { inValue := 2#4 ++ argument, inFull := false, outValue := 2#4 ++ 0#12, outFull := true } ∧
        p.irq = { s.part.irq with status := s.part.irq.status ||| 4 } ∧
        p.timeline.frame = s.part.timeline.frame ∧ p.timeline.rate = s.part.timeline.rate ∧
        p.engine = s.part.engine ∧ p.startError = s.part.startError ∧ p.layout = s.part.layout ∧
        p.arbiter = s.part.arbiter ∧ p.click = s.part.click ∧ p.tdm = s.part.tdm ∧
        p.players = s.part.players ∧ p.cues.posted = s.part.cues.posted ∧
        p.watch.owners = s.part.watch.owners ∧ p.watch.region = s.part.watch.region)

/-! ### Frames and the timeline (Chapters 1 to 3) -/

/-- The frame count (R3): one more on every frame event while Running and kept otherwise; 0 when the engine becomes
Running; no other command but a reset changes it; it is the last field of every position stamp. -/
def Obligations.FrameCountCountsFrames : Prop :=
  (∀ (order : FrameOrder) (s t : State), exec (.frameEvent order) s = .next t →
    t.part.timeline.frame =
      if s.part.engine = .running then s.part.timeline.frame + 1 else s.part.timeline.frame) ∧
  (∀ (c : Instr) (s t : State), exec c s = .next t → s.part.engine ≠ .running → t.part.engine = .running →
    t.part.timeline.frame = 0) ∧
  (∀ (c : Instr) (s t : State), exec c s = .next t → isReset c = false → c ≠ .engineBecomesRunning →
    (∀ order, c ≠ .frameEvent order) → (∀ order, c ≠ .wordClockEdge order) →
    t.part.timeline.frame = s.part.timeline.frame) ∧
  ∀ p : Part, p.stamp.frame = p.timeline.frame

/-- A frame in which nothing is due, while the clock is Idle, Parked or Paused (R2, R3, R22, R48, R53, R128, R167):
the frame count and the countdowns move, the frame is rendered and sent, nothing else changes. That overdue steps
come with the next frame event (log 3) and that a sent frame is kept as eight words (log 29) are the model's
choices. -/
def Obligations.QuietFrameOnlyCounts : Prop :=
  ∀ (order : FrameOrder) (s : State), s.part.quiet = true → s.part.clockRuns = false →
    let p := s.part
    let r := p.watch.residents
    let settled (e : Resident) : Resident :=
      match e.state with
      | .settling n => { e with state := .settling (n - 1) }
      | _ => e
    let slot (value : Int) : Word := BitVec.ofInt 32 (value * 256)
    let counted : Part := { p with
      timeline := { p.timeline with
        frame := if p.engine = .running then p.timeline.frame + 1 else p.timeline.frame
        monitor := if p.timeline.source = .external then .present else p.timeline.monitor }
      watch := { p.watch with residents :=
        { activeSong := r.activeSong.map settled, shadowSong := r.shadowSong.map settled
          activeScene := r.activeScene.map settled, shadowScene := r.shadowScene.map settled
          clicks := Vector.ofFn fun i => (r.clicks[i]).map settled } }
      loader := { p.loader with held := p.loader.held.map fun h => { h with countdown := h.countdown - 1 } } }
    (∀ value : Int, -8388608 ≤ value → value ≤ 8388607 →
      (slot value).toInt = value * 256 ∧ (slot value).extractLsb' 0 8 = 0) ∧
    (p.engine = .running → exec (.frameEvent order) s = .next { s with part := { counted with
      click := { p.click with mixes := Vector.ofFn fun i => ((p.click.mixes[i]).render p.click.sounds).1 }
      tdm := Vector.ofFn fun i => slot ((p.click.mixes[i]).render p.click.sounds).2 } }) ∧
    (p.engine ≠ .running → exec (.frameEvent order) s = .next { s with part := { counted with
      tdm := Vector.replicate 8 0 } })

/-- One mix in one frame (R48): 0 when muted or ended; otherwise the floor of sample, level and trim over 64,
clamped into 24 bits, the position one on, and the cursor ended at the sound's length. -/
def Obligations.RenderedMixValue : Prop :=
  ∀ (m : Mix) (sounds : Vector Sound 4) (sound : Fin 4),
    (m.mute = true ∨ m.cursor.running = false → m.render sounds = (m, 0)) ∧
    (m.mute = false → m.cursor.running = true → m.cursor.sound = some sound →
      let sample := ((sounds[sound]).samples.getD m.cursor.position 0).toInt
      let exact := (sample * m.cursor.level * m.trim) / 64
      (m.render sounds).2 = (if exact < -8388608 then -8388608 else if 8388607 < exact then 8388607 else exact) ∧
      (m.render sounds).1 = { m with cursor := { m.cursor with
        position := m.cursor.position + 1
        running := decide (m.cursor.position + 1 ≠ (sounds[sound]).length) } })

/-- A frame between boundaries in CountIn or Playing (R4, R6): the accumulator rises by the tempo in force and the
beat is not open; where the fine tick index rises, the pointer keeps it and at a multiple of 40 a clock byte is
requested, behind a Start byte that is owed to that pulse (R20). In the Song phase a tick index that is a multiple
of 960 over the section's subdivision gives a Sub click, and no other does (R45 to R47); the frame is rendered after
it. The Start byte still to come is the model's own field (log 20). -/
def Obligations.FrameAccumulatesTempo : Prop :=
  ∀ (order : FrameOrder) (s : State), s.part.quiet = true → s.part.clockRuns = true →
    s.part.timeline.startPending = false →
    let p := s.part.tickCountdowns.countFrame
    let sum := s.part.timeline.acc + s.part.timeline.tempo
    let index := sum / s.part.timeline.rate.t
    let ticked : SongPointer := { p.pointer with lastTick := index }
    sum < s.part.timeline.rate.d →
    (index = s.part.timeline.acc / s.part.timeline.rate.t →
      exec (.frameEvent order) s = .next { s with part :=
        { p with timeline := { p.timeline with acc := sum, beatOpen := false } }.render }) ∧
    (s.part.timeline.acc / s.part.timeline.rate.t < index →
      ∃ q, exec (.frameEvent order) s = .next { s with part := q } ∧
        q = { p with
          timeline := { p.timeline with acc := sum, beatOpen := false, startByte := q.timeline.startByte }
          pointer := ticked
          voices := q.voices, click := q.click, tdm := q.tdm, notice := q.notice } ∧
        (index % 40 = 0 → p.pulsed q p.timeline.startByte) ∧
        (index % 40 ≠ 0 → q.voices = p.voices ∧ q.timeline.startByte = p.timeline.startByte) ∧
        ∀ sec, p.engine = .running → p.currentSection = some sec →
          let sub := p.pointer.phase = .song ∧ index ≠ 0 ∧ index % (960 / sec.subdivision) = 0
          (sub → p.clicked q .sub ({ p with pointer := ticked } : Part).stamp p.notice) ∧
          (¬sub → q.renderedFrom p.click ∧ q.notice = p.notice))

/-- A beat boundary (R4, R20, R28 to R33, R40, R44, R122, R124, R125), in a frame in which the cue unit executes
nothing: D is subtracted, the beat is open, the pointer moves as the rules say, the trigger it gives stands, the
tempo of the beat begun is fixed, tick 0 gives its sync pulse, and the entry named is journaled. In the Song phase:
a beat inside the bar; a bar inside the section; at the section's end, or with the leave mark set at the bar's, a
vamp pass, the next section, or for the last section a loop or the song's end. In the count-in: a beat, a bar, and
the step into bar 1. A pending entry lands. The announcement then reaches the blocks (Part.announced): each armed
cue falls due, is passed on or waits, the scene loader takes it, a section switch among its acts, and the click
generator takes the boundary's click. The song's end parks the clock (Part.parks), announces nothing and makes every
armed cue due; its journal is stated with the shadow neither ready nor a cue's. The Start byte still to come (log
20), the announcements that a late and a held section switch count with SwitchLate before SceneSwitched (log 17),
the clock state that a landing keeps (log 42), the count-in bar once the count-in is over (log 45) and an override
with Keep complete when the clock is parked (log 34) are the model's choices. -/
def Obligations.BeatBoundaryAdvances : Prop :=
  ∀ (order : FrameOrder) (s : State) (sec : SongSection), s.part.quiet = true → s.part.clockRuns = true →
    s.part.timeline.startPending = false → order.cues = none ∨ s.part.cues.arms = [] →
    s.part.currentSection = some sec → s.part.timeline.rate.d ≤ s.part.timeline.acc + s.part.timeline.tempo →
    let p := s.part.tickCountdowns.countFrame
    let ptr := p.pointer
    let start := ptr.startSection
    let played := min (ptr.barsPlayed + 1) 65535
    let standing := p.loader.trigger
    let owed := p.timeline.startByte
    let stampAt (r : SongPointer) : Stamp := ({ p with pointer := r } : Part).stamp
    let boundary (clock : ClockState) (r : SongPointer) (kind : BoundaryKind) (cls : ClickClass) (told : Notice)
        (scheduled : Nat) (trigger : Option Trigger) (owed : StartByte) : Prop :=
      ∃ y q, exec (.frameEvent order) s = .next { s with part := q } ∧
        y = { p with
          timeline := { p.timeline with
            clock := clock, acc := p.timeline.acc + p.timeline.tempo - p.timeline.rate.d, beatOpen := true
            tempo := y.timeline.tempo, plan := y.timeline.plan, startByte := y.timeline.startByte }
          pointer := r
          loader := { p.loader with trigger := trigger }
          notice := told
          voices := y.voices } ∧
        p.paces y scheduled (kind == .newSection) ∧ p.pulsed y owed ∧
        ∃ click, (ptr.loaded = true → click = cls) ∧ y.announced q order kind click
    let enters (r : SongPointer) (cause : EntryCause) (next : SongSection) (owed : StartByte) : Prop :=
      boundary p.timeline.clock r .newSection .downbeat
        (p.notice.handOver { event := .sectionEntered cause r.sectionIndex r.pass, stamp := stampAt r })
        (clampTempo next.startTempo) (if next.bars ≤ 1 then some (p.triggerAt r) else none) owed
    let within (r : SongPointer) (kind : BoundaryKind) (cls : ClickClass) (k : Nat) (trigger : Option Trigger) : Prop :=
      boundary p.timeline.clock r kind cls p.notice
        (rampTempo (clampTempo sec.startTempo) (clampTempo sec.endTempo) k (sec.bars * sec.beats)) trigger owed
    let counted (r : SongPointer) (kind : BoundaryKind) : Prop :=
      boundary p.timeline.clock r kind .countIn p.notice (clampTempo sec.startTempo) standing owed
    let ended (song : Song) : Prop :=
      let told : Part := { p with
        notice := p.notice.handOver { event := .songEnded song.number, stamp := p.stamp } }
      ∃ z q, exec (.frameEvent order) s = .next { s with part := q } ∧ told.parks z ∧
        q = { z with click := q.click, tdm := q.tdm } ∧ (p.engine = .running → q.renderedFrom z.click) ∧
        q.timeline.clock = .parked ∧ q.timeline.pausedFrom = none ∧ q.timeline.startPending = false ∧
        q.timeline.acc = 0 ∧ q.timeline.beatOpen = true ∧
        q.pointer = { ptr with
          phase := .song, sectionIndex := start, pass := 1, bar := 1, countInBar := 1, beat := 1, lastTick := 0
          vamp := false, leave := false, entry := none, barsPlayed := 0 } ∧
        q.cues = { p.cues with arms := p.cues.arms.map fun a => { a with due := true } } ∧
        (p.loader.ready = false → (∀ slot, p.loader.owner ≠ some (.cue slot)) → p.engine = .running →
          q.renderedFrom p.click ∧
          q.notice = p.notice.handOver { event := .songEnded song.number, stamp := p.stamp } ∧
          ∀ v : Fin 8, q.voices.ports[v] = (p.voices.ports[v]).request .stop)
    (ptr.entry = none → ptr.phase = .song →
      (ptr.beat + 1 ≤ sec.beats →
        within { ptr with beat := ptr.beat + 1, lastTick := 0 } .beat .beat ((ptr.bar - 1) * sec.beats + ptr.beat)
          standing) ∧
      (sec.beats < ptr.beat + 1 →
        let here : SongPointer :=
          { ptr with bar := 1, beat := 1, lastTick := 0, barsPlayed := played, leave := false }
        let onward : SongPointer := { ptr with bar := ptr.bar + 1, beat := 1, lastTick := 0, barsPlayed := played }
        (ptr.leave = false → ptr.bar + 1 ≤ sec.bars →
          within onward .bar .downbeat (ptr.bar * sec.beats)
            (if ptr.bar + 1 = sec.bars then some (p.triggerAt onward) else standing)) ∧
        (ptr.leave = false → sec.bars < ptr.bar + 1 → ptr.vamp = true →
          enters { here with pass := min (ptr.pass + 1) 255 } .vamp sec owed) ∧
        (ptr.leave = true ∨ (sec.bars < ptr.bar + 1 ∧ ptr.vamp = false) →
          (∀ next, p.sectionAt (ptr.sectionIndex + 1) = some next →
            enters { here with sectionIndex := ptr.sectionIndex + 1, pass := 1, vamp := false }
              (if ptr.leave then .early else .advance) next owed) ∧
          ∀ song, p.loader.activeSong = some song → song.sections.length = ptr.sectionIndex + 1 →
            (song.loopLast = true →
              enters { here with pass := min (ptr.pass + 1) 255, vamp := false } .loopLast sec owed) ∧
            (song.loopLast = false → ended song)))) ∧
    (ptr.entry = none → ptr.phase = .countIn → ptr.sectionIndex = start →
      (ptr.beat + 1 ≤ sec.beats → counted { ptr with beat := ptr.beat + 1, lastTick := 0 } .beat) ∧
      (sec.beats < ptr.beat + 1 →
        (ptr.countInBar + 1 ≤ p.countInBars →
          counted { ptr with beat := 1, lastTick := 0, countInBar := ptr.countInBar + 1 } .bar) ∧
        (p.countInBars < ptr.countInBar + 1 →
          let first : SongPointer :=
            { ptr with phase := .song, pass := 1, bar := 1, beat := 1, lastTick := 0, barsPlayed := 1 }
          boundary .playing first .bar .downbeat
            (p.notice.handOver { event := .sectionEntered .start start 1, stamp := stampAt first })
            (clampTempo sec.startTempo)
            (if sec.bars ≤ 1 ∨ ptr.leave = true then some (p.triggerAt first) else standing) .nextPulse))) ∧
    ∀ e next, ptr.entry = some e → p.sectionAt e.target = some next →
      enters { ptr with
          phase := .song, sectionIndex := e.target, pass := 1, bar := 1, beat := 1, lastTick := 0, leave := false
          entry := none, vamp := ptr.vamp && e.target == ptr.sectionIndex
          barsPlayed := match e.cause with | .segue => 1 | .jump => played }
        (match e.cause with | .segue => .segue | .jump => .jump) next
        (match owed with
          | .atLanding => .nextPulse
          | .pulseAndLanding => .nextPulse
          | .none => .none
          | .nextPulse => .nextPulse)

/-- The start frame (R5, R8, R20, R27, R40, R44, R122, R124), in a frame in which the cue unit executes nothing:
Start pending clear, the accumulator left as it is, the pointer at the first beat of the count-in, or of Song-phase
bar 1 with SectionEntered of cause Start and a Start byte owed to its sync pulse; the tempo of the beat begun is the
start section's start tempo, or the override's next. The boundary is announced to the blocks as a Bar
(Part.announced), with a CountIn or a Downbeat click. The Start byte still to come (log 20) and the announcements
that a late and a held section switch count with SwitchLate before SceneSwitched (log 17) are the model's choices.
-/
def Obligations.StartFramePlacesThePointer : Prop :=
  ∀ (order : FrameOrder) (s : State) (sec : SongSection), s.part.quiet = true → s.part.clockRuns = true →
    s.part.timeline.startPending = true → order.cues = none ∨ s.part.cues.arms = [] →
    s.part.sectionAt s.part.pointer.startSection = some sec →
    let p := s.part.tickCountdowns.countFrame
    let ptr := p.pointer
    let start := ptr.startSection
    let counts := p.timeline.clock = .countIn
    let atCountIn : SongPointer := { ptr with
      phase := .countIn, sectionIndex := start, pass := 1, bar := 1, countInBar := 1, beat := 1, lastTick := 0
      barsPlayed := 0 }
    let atSong : SongPointer := { ptr with
      phase := .song, sectionIndex := start, pass := 1, bar := 1, beat := 1, lastTick := 0, barsPlayed := 1 }
    let placed := if counts then atCountIn else atSong
    ∃ y q, exec (.frameEvent order) s = .next { s with part := q } ∧
      y = { p with
        timeline := { p.timeline with
          startPending := false
          tempo := y.timeline.tempo, plan := y.timeline.plan, startByte := y.timeline.startByte }
        pointer := placed
        loader := { p.loader with
          trigger := if ¬counts ∧ (sec.bars ≤ 1 ∨ ptr.leave = true) then some (p.triggerAt placed)
            else p.loader.trigger }
        notice := if counts then p.notice else p.notice.handOver
          { event := .sectionEntered .start start 1, stamp := ({ p with pointer := atSong } : Part).stamp }
        voices := y.voices } ∧
      p.paces y (clampTempo sec.startTempo) false ∧
      p.pulsed y (if counts then p.timeline.startByte else .nextPulse) ∧
      ∃ click, (ptr.loaded = true → click = if counts then .countIn else .downbeat) ∧ y.announced q order .bar click

/-- The arithmetic of the accumulator (R4, R6): with a tempo of at most 30000 the fine tick index rises by at most
one a frame, it never passes 959, and after a boundary it is 0. -/
def Obligations.TickIndexRisesByOne : Prop :=
  ∀ (rate : SampleRate) (acc tempo : Nat), acc < rate.d → tempo ≤ 30000 →
    acc / rate.t ≤ 959 ∧
    (acc + tempo < rate.d → (acc + tempo) / rate.t ≤ acc / rate.t + 1) ∧
    (rate.d ≤ acc + tempo → acc + tempo - rate.d < tempo ∧ (acc + tempo - rate.d) / rate.t = 0)

/-- The clock commands (R2, R22): the fallback while Running with source External, and otherwise only the monitor;
an edge of the word clock is a frame event with source External, and otherwise for the monitor alone. How the rows
of the table divide the edges and the two losses of the clock is the model's choice (log 9, log 10). -/
def Obligations.ExternalClockCommands : Prop :=
  ∀ (order : FrameOrder) (s : State),
    let p := s.part
    let fallen : Part := { p with
      timeline := { p.timeline with monitor := .absent, source := .internal }
      irq := { p.irq with status := p.irq.status ||| 16 }
      notice := p.handed .clockFallback }
    (p.engine = .running → p.timeline.source = .external →
      exec .clockFallback s = .next { s with part := fallen } ∧
      exec .externalClockAbsent s = .next { s with part := fallen }) ∧
    (p.engine ≠ .running ∨ p.timeline.source = .internal →
      exec .clockFallback s = .next s ∧
      exec .externalClockAbsent s =
        .next { s with part := { p with timeline := { p.timeline with monitor := .absent } } }) ∧
    (p.timeline.source = .internal →
      exec (.wordClockEdge order) s =
        .next { s with part := { p with timeline := { p.timeline with monitor := .present } } }) ∧
    (p.timeline.source = .external → exec (.wordClockEdge order) s = exec (.frameEvent order) s)

/-- A tap while Running (R13, R14): the first tap, a second in one frame, one after more than three seconds, and one
that gives a result, journaled and applied under tap follow, or too fast and recorded alone. A tap while the engine
is not Running changes nothing (R12). -/
def Obligations.TapMeasuresTheInterval : Prop :=
  ∀ s : State,
    let p := s.part
    let recorded (intervals : List Nat) : Part :=
      { p with timeline := { p.timeline with lastTap := some p.timeline.frame, intervals := intervals } }
    (p.engine ≠ .running → exec .tapPinRise s = .next s) ∧
    (p.engine = .running →
      (p.timeline.lastTap = none → exec .tapPinRise s = .next { s with part := recorded p.timeline.intervals }) ∧
      ∀ last, p.timeline.lastTap = some last →
        let i := (p.timeline.frame - last).toNat
        let held := (if p.timeline.intervals.length = 4 then p.timeline.intervals.tail else p.timeline.intervals) ++ [i]
        let n := held.length
        let result := (2 * p.timeline.rate.d * n + held.sum) / (2 * held.sum)
        (i = 0 → exec .tapPinRise s = .next s) ∧
        (3 * p.timeline.rate.hz < i → exec .tapPinRise s = .next { s with part := recorded [] }) ∧
        (0 < i → i ≤ 3 * p.timeline.rate.hz →
          (30000 < result → exec .tapPinRise s = .next { s with part := recorded [] }) ∧
          (result ≤ 30000 →
            let reported : Part := { recorded held with
              notice := p.notice.handOver { event := .tapMeasured n result, stamp := p.stamp } }
            (p.timeline.tapFollow = false → exec .tapPinRise s = .next { s with part := reported }) ∧
            (p.timeline.tapFollow = true →
              exec .tapPinRise s = .next { s with part := reported.setOverride result 0 false }))))

/-- A settle countdown that stands at 0 (R52, R133, R167): with the shadow free, the active record is fetched again
from its base and the shadow claimed as Refresh, and otherwise it becomes Stale; a click sound's fetch begins with
the cursors on it ended. Without a countdown at 0 the command changes nothing. That the command then changes nothing
is the guard of log 2; that an entry read again keeps its length is the model's choice (log 14). -/
def Obligations.SettleEndRefreshes : Prop :=
  ∀ (role : Role) (s : State) (e : Resident),
    let p := s.part
    let r := p.watch.residents
    let begun := some { e with state := .refreshing, refetch := 0 }
    let gone := some { e with state := .stale, refetch := 0 }
    let refetch (stage : FetchStage) (song scene : Nat) : ShadowFetch :=
      { stage := stage, songLoad := false, indexed := false, song := song, scene := scene, start := none
        also := false, base := e.base, bytes := [], count := 0 }
    let claimed (owner : ShadowOwner) (fetch : ShadowFetch) (set : ResidentSet) : Part := { p with
      watch := { p.watch with residents := set }
      loader := { p.loader with
        owner := some owner
        shadowSong := none
        shadowScene := none
        ready := false
        fetch := some fetch } }
    let songClaimed := claimed (.refreshSong false) (refetch .songRecord e.number 0)
      { r with activeSong := begun, shadowSong := begun }
    let sceneClaimed := claimed .refreshScene (refetch .sceneRecord 0 e.number)
      { r with activeScene := begun, shadowScene := begun }
    let stale (role : Role) (set : ResidentSet) : Part := { p with
      watch := { p.watch with residents := set }
      notice := p.handed (.recordStale role e.kind e.number .deferred) }
    let ended (i : Fin 4) (m : Mix) : Mix :=
      if m.cursor.sound = some i then { m with cursor := { m.cursor with running := false } } else m
    let again (i : Fin 4) : ClickFetch :=
      { kind := .refresh, base := e.base, length := (p.click.sounds[i]).length, words := e.length / 4, done := 0 }
    let clicked (i : Fin 4) : Part := { p with
      watch := { p.watch with residents := { r with clicks := r.clicks.set i begun } }
      click := { p.click with mixes := Vector.ofFn fun m => ended i p.click.mixes[m] }
      loader := { p.loader with clickFetches := p.loader.clickFetches.set i (some (again i)) } }
    ((∀ d, p.resident role = some d → d.state ≠ .settling 0) → exec (.settleEnd role) s = .next s) ∧
    (e.state = .settling 0 →
      (r.activeSong = some e → p.loader.owner = none →
        exec (.settleEnd .activeSong) s = .next { s with part := songClaimed }) ∧
      (r.activeSong = some e → p.loader.owner ≠ none →
        exec (.settleEnd .activeSong) s =
          .next { s with part := stale .activeSong { r with activeSong := gone } }) ∧
      (r.activeScene = some e → p.loader.owner = none →
        exec (.settleEnd .activeScene) s = .next { s with part := sceneClaimed }) ∧
      (r.activeScene = some e → p.loader.owner ≠ none →
        exec (.settleEnd .activeScene) s =
          .next { s with part := stale .activeScene { r with activeScene := gone } }) ∧
      ∀ i : Fin 4, r.clicks[i] = some e →
        exec (.settleEnd (.click i)) s = .next { s with part := clicked i })

/-- A settle countdown of a shadow record that stands at 0 (R120): the record is refetched under the owner the
shadow has, as a new fetch whose refetch count is 0; a SongLoad's song with the start section that R116 checks.
While the other shadow record is being fetched the new fetch waits for that one to end. That the record is read
again from the base its entry holds and not from the index, that the second fetch waits, and that the entry covers
the whole record meanwhile, are the model's choices (log 14). -/
def Obligations.SettleEndRefetchesShadow : Prop :=
  ∀ (s : State) (e : Resident), e.state = .settling 0 →
    let p := s.part
    let r := p.watch.residents
    let begun := some { e with state := .refreshing, refetch := 0 }
    let song (start : Option Nat) : ShadowFetch :=
      { stage := .songRecord, songLoad := false, indexed := false, song := e.number, scene := 0, start := start
        also := false, base := e.base, bytes := [], count := 0 }
    let scene : ShadowFetch :=
      { stage := .sceneRecord, songLoad := false, indexed := false, song := 0, scene := e.number, start := none
        also := false, base := e.base, bytes := [], count := 0 }
    let fetching (set : ResidentSet) (fetch : ShadowFetch) : Part := { p with
      watch := { p.watch with residents := set }
      loader := { p.loader with fetch := some fetch } }
    (r.shadowScene = some e → p.loader.fetch = none →
      exec (.settleEnd .shadowScene) s =
        .next { s with part := fetching { r with shadowScene := begun } scene }) ∧
    (∀ f, r.shadowScene = some e → p.loader.fetch = some f →
      exec (.settleEnd .shadowScene) s =
        .next { s with part := fetching { r with shadowScene := begun } { f with also := true } }) ∧
    (∀ f, r.shadowSong = some e → p.loader.fetch = some f →
      exec (.settleEnd .shadowSong) s =
        .next { s with part := fetching { r with shadowSong := begun } { f with also := true } }) ∧
    (∀ (a : ArmedCue) (slot : Fin 32) (number start : Nat) (autoStart : Bool), r.shadowSong = some e →
      p.loader.fetch = none → p.loader.owner = some (.cue slot) → p.cues.arms = [a] → a.slot = slot →
      a.cue = .songLoad number start autoStart →
      exec (.settleEnd .shadowSong) s =
        .next { s with part := fetching { r with shadowSong := begun } (song (some start)) })

/-- A hold that has run out (R94, R102, R130): each setup message is offered alone as an opening message,
SwitchPartial is journaled with the short ports and the number dropped, and the switch is made whole: a section's,
on time or late, or a cue's, whose outcome is OkPartial with the short ports. With every pedal Up nothing more is
sent. Without a countdown at 0 the command changes nothing (log 2). That SwitchPartial stands before SwitchLate is
the model's choice (log 17). The place of SwitchLate before SceneSwitched and SongChanged (log 17), the stamp of a
result after the cue's effect (log 18), the Start byte still to come (log 20), a jump's fields (log 24, log 25, log
42) and the layer flags of SongChanged under Keep (log 44) are the model's choices. -/
def Obligations.HoldExpiryForcesTheSwitch : Prop :=
  ∀ (s : State) (sc : Scene) (target scene : Nat) (cause : SectionCause) (announced : Option Nat) (a : ArmedCue)
    (incoming : Option Scene),
    let p := s.part
    let setup := match incoming with | none => [] | some scene => scene.setup
    let carries (q : Part) (incoming : Option Scene) (w : Voices) : Prop :=
      (p.carryDowns incoming = [] → q.voices = w ∧ q.tracker.fan = p.tracker.fan) ∧
        ({ p with voices := w } : Part).switchSends q incoming [] ∧ q.voices.reserve = p.voices.reserve ∧
        ∀ v : Fin 8, (w.ports[v]).queue <+: (q.voices.ports[v]).queue
    ((∀ h, p.loader.held = some h → h.countdown ≠ 0) → exec .holdExpiry s = .next s) ∧
    (p.loader.held = some { cause := .entry target scene cause announced, countdown := 0 } →
      p.loader.shadowScene = some sc → p.loader.shadowSong = none → p.loader.late = none → p.loader.trigger = none →
      ∃ q w short dropped, exec .holdExpiry s = .next { s with part := q } ∧
        p.voices.offeredAlone w sc.setup short dropped ∧
        p.sectionMade q sc target cause announced (p.handed (.switchPartial cause.journaled short dropped)) ∧
        carries q (some sc) w) ∧
    (p.loader.held = some { cause := .cue a.slot, countdown := 0 } → p.cues.arms = [a] → p.cues.writes = [] →
      p.loader.late = none → p.loader.shadowScene = incoming → p.cueFits a incoming →
      ∃ q w short dropped, exec .holdExpiry s = .next { s with part := q } ∧
        p.voices.offeredAlone w setup short dropped ∧
        p.cueMade q a incoming .okPartial short (p.handed (.switchPartial .cue short dropped)) ∧
        carries q incoming w)

/-! ### Player ports (Chapter 4) -/

/-- Status bytes, system bytes, real-time bytes and framing errors at a player port (R55 to R59); a port that is not
enabled receives nothing. -/
def Obligations.StatusBytesSetTheParser : Prop :=
  ∀ (i : Fin 4) (b : Byte) (s : State),
    let q := s.part.players[i]
    let stored (q : PlayerPort) : State := { s with part := s.part.withPort i q }
    (q.enabled = false → exec (.byteArrival i b) s = .next s ∧ exec (.framingError i) s = .next s) ∧
    (q.enabled = true →
      exec (.framingError i) s =
        .next (stored { q with parser := .idle, running := none, held := none, skip := 0 }) ∧
      (0xF8 ≤ b.toNat → exec (.byteArrival i b) s = .next s) ∧
      (0x80 ≤ b.toNat → b.toNat < 0xF0 →
        exec (.byteArrival i b) s = .next (stored { q with
          parser := .collecting, running := some b, held := none, skip := 0
          expected := if 0xC0 ≤ b.toNat ∧ b.toNat < 0xE0 then 1 else 2 })) ∧
      (b = 0xF0 → exec (.byteArrival i b) s =
        .next (stored { q with parser := .skipping, running := none, held := none, skip := 0 })) ∧
      (0xF1 ≤ b.toNat → b.toNat ≤ 0xF7 →
        exec (.byteArrival i b) s = .next (stored { q with
          parser := .idle, running := none, held := none
          skip := if b = 0xF1 ∨ b = 0xF3 then 1 else if b = 0xF2 then 2 else 0 })))

/-- Data bytes at an enabled player port that bring no event (R57 to R61): stepped over, discarded or held; the last
byte of a message that the filter rejects, of key pressure or program change, or of a key message while the engine
is not Running or no scene is active. -/
def Obligations.DataBytesWithoutEvent : Prop :=
  ∀ (i : Fin 4) (b : Byte) (s : State), (s.part.players[i]).enabled = true → b.toNat < 0x80 →
    let p := s.part
    let q := p.players[i]
    let stored (q : PlayerPort) : State := { s with part := p.withPort i q }
    let unheard := p.engine ≠ .running ∨ p.loader.activeScene = none
    (q.parser = .skipping → exec (.byteArrival i b) s = .next s) ∧
    (q.parser ≠ .skipping →
      (0 < q.skip → exec (.byteArrival i b) s = .next (stored { q with skip := q.skip - 1 })) ∧
      (q.skip = 0 → q.running = none → exec (.byteArrival i b) s = .next s) ∧
      ∀ status, q.skip = 0 → q.running = some status →
        (q.expected = 2 → q.held = none →
          exec (.byteArrival i b) s = .next (stored { q with parser := .collecting, held := some b })) ∧
        (q.expected = 1 →
          (q.filter.keeps status = false ∨ status.toNat / 16 = 12 ∨ (status.toNat / 16 = 13 ∧ unheard)) →
          exec (.byteArrival i b) s = .next (stored q.completed)) ∧
        (∀ first, q.expected = 2 → q.held = some first →
          (q.filter.keeps status = false ∨ status.toNat / 16 = 10 ∨
            ((status.toNat / 16 = 8 ∨ status.toNat / 16 = 9 ∨ status.toNat / 16 = 14 ∨
              (status.toNat / 16 = 11 ∧ q.tapController ≠ some first.toNat)) ∧ unheard)) →
          exec (.byteArrival i b) s = .next (stored q.completed)))

/-- The tap controller (R64): the level follows the value in every engine state, and a rise gives the timeline the
tap that the TAP pin gives it. -/
def Obligations.TapControllerGivesTaps : Prop :=
  ∀ (i : Fin 4) (number b : Byte) (channel : Fin 16) (s : State),
    let q := s.part.players[i]
    let stored (high : Bool) : State := { s with part := s.part.withPort i { q.completed with tapHigh := high } }
    q.awaits (BitVec.ofNat 8 (0xB0 + channel.val)) number → q.tapController = some number.toNat → b.toNat < 0x80 →
    (b.toNat < 64 → exec (.byteArrival i b) s = .next (stored false)) ∧
    (64 ≤ b.toNat → q.tapHigh = true → exec (.byteArrival i b) s = .next (stored true)) ∧
    (64 ≤ b.toNat → q.tapHigh = false → exec (.byteArrival i b) s = exec .tapPinRise (stored true))

/-- Pedal values while Running with a scene active (R63, R78, R83, R92, R93): a value on the pedal's own side
changes nothing. A press returns the UpOwed destinations of the port's set to Held and takes them from the up-owed
orders, then offers sustain-downs to the sustain destinations not in the set: with room they join as Held, and where
no port has more free entries than the reserve nothing is sent and none joins. A release offers sustain-ups to the
Held destinations: with room they leave the set, and with every port enabled and full they are UpOwed, each behind
those its port already owed. -/
def Obligations.PedalValuesReachTheFanOut : Prop :=
  ∀ (i : Fin 4) (b : Byte) (channel : Fin 16) (s : State) (sc : Scene),
    let p := s.part
    let q := p.players[i]
    let downs := ((sc.layers.filter fun l => l.sources.getLsbD i.val && l.passSustain).map Layer.dest).eraseDups
    let fan := p.tracker.fan[i]
    let missing := downs.filter fun d => fan.all fun f => f.dest != d
    let held := (fan.filter fun f => !f.upOwed).map (·.dest)
    let message (value : Nat) (d : Dest) : Fin 8 × Message :=
      (d.voice, [BitVec.ofNat 8 (0xB0 + d.channel.val), 64, BitVec.ofNat 8 value])
    q.awaits (BitVec.ofNat 8 (0xB0 + channel.val)) 64 → q.tapController ≠ some 64 → b.toNat < 0x80 →
    p.engine = .running → p.loader.activeScene = some sc →
    ((q.pedal = .up ↔ b.toNat < 64) →
      exec (.byteArrival i b) s = .next { s with part := p.withPort i q.completed }) ∧
    (q.pedal = .up → 64 ≤ b.toNat → ∃ (t : Part) (joins : List Dest),
      exec (.byteArrival i b) s = .next { s with part := t } ∧
      t = { p.withPort i { q.completed with pedal := .down } with
        tracker := { p.tracker with
          fan := p.tracker.fan.set i (fan.map (fun f => { f with upOwed := false }) ++
            joins.map fun d => { dest := d, upOwed := false })
          upOwed := Vector.ofFn fun v => (p.tracker.upOwed[v]).filter fun u => u.player != i }
        voices := t.voices } ∧
      (p.voices.roomFor (p.voices.reserve + missing.length) →
        joins = missing ∧ p.voices.received t.voices (missing.map (message 127))) ∧
      ((∀ v : Fin 8, (p.voices.ports[v]).enabled = true ∧ 64 ≤ (p.voices.ports[v]).queue.length + p.voices.reserve) →
        joins = [] ∧ t.voices = p.voices)) ∧
    (q.pedal = .down → b.toNat < 64 → ∃ (t : Part) (stays : List FanEntry) (orders : Vector (List UpOwed) 8),
      exec (.byteArrival i b) s = .next { s with part := t } ∧
      t = { p.withPort i { q.completed with pedal := .up } with
        tracker := { p.tracker with fan := p.tracker.fan.set i stays, upOwed := orders }
        voices := t.voices } ∧
      (p.voices.roomFor held.length → stays = fan.filter (fun f => f.upOwed) ∧ orders = p.tracker.upOwed ∧
        p.voices.received t.voices (held.map (message 0))) ∧
      ((∀ v : Fin 8, (p.voices.ports[v]).enabled = true ∧ 64 ≤ (p.voices.ports[v]).queue.length) →
        stays = fan.map (fun f => { f with upOwed := true }) ∧ t.voices = p.voices ∧
        ∀ v : Fin 8, orders[v] = p.tracker.upOwed[v] ++
          (held.filter fun d => d.voice = v).map fun d => { player := i, dest := d }))

/-! ### Layer router (Chapter 5) -/

/-- The zone of a layer (R68, R69): what each compare tests, the source set, its two tests under And and Or, the
cases of an Any test, and what a note-on that matches the zone of no matching-source layer is given. -/
def Obligations.ZoneCombinesTwoTests : Prop :=
  ∀ (l : Layer) (player : Fin 4) (key velocity : Nat) (layers : List Layer),
    let a := l.testA.passes key velocity = true
    let b := l.testB.passes key velocity = true
    let zone := l.zonePasses key velocity = true
    (∀ t : ZoneTest,
      let subject := match t.subject with | .key => key | .velocity => velocity
      (t.passes key velocity = true ↔ match t.compare with
        | .any => True
        | .equal => subject = t.value
        | .below => subject < t.value
        | .atOrAbove => t.value ≤ subject) ∧
      (t.subject = .velocity → t.value = 1 → 1 ≤ velocity →
        (t.compare = .below → t.passes key velocity = false) ∧
        (t.compare = .atOrAbove → t.passes key velocity = true))) ∧
    (l.listens player = l.sources.getLsbD player.val) ∧ (l.sources = 0 → l.route player key velocity = none) ∧
    (l.combine = .and → (zone ↔ a ∧ b)) ∧ (l.combine = .or → (zone ↔ a ∨ b)) ∧
    (l.testA.compare = .any → l.testB.compare = .any → zone) ∧
    (l.testA.compare = .any → (l.combine = .or → zone) ∧ (l.combine = .and → (zone ↔ b))) ∧
    (l.testB.compare = .any → (l.combine = .or → zone) ∧ (l.combine = .and → (zone ↔ a))) ∧
    (l.route player key velocity =
      if l.listens player = true ∧ zone then
        (l.outputKey key).map fun out => { dest := l.dest, key := out, velocity := l.outputVelocity velocity }
      else none) ∧
    ((∀ m ∈ layers, m.listens player = true → m.zonePasses key velocity = false) →
      routeNote layers player key velocity = [])

/-- The output velocity (R71): input velocity by gain, rounded half up, plus the offset, clamped into 1 to 127;
never 0, and the cases of gain 64, gain 0 and the largest scaled velocity. -/
def Obligations.OutputVelocityIsScaledAndClamped : Prop :=
  ∀ (l : Layer) (v : Nat),
    let scaled := (v * l.gain + 32) / 64
    let clamp (x : Int) : Int := if x < 1 then 1 else if 127 < x then 127 else x
    (l.outputVelocity v : Int) = clamp (scaled + l.offset) ∧
    l.outputVelocity v ≠ 0 ∧ l.outputVelocity v ≤ 127 ∧
    (l.gain = 64 → scaled = v) ∧
    (l.gain = 0 → scaled = 0 ∧ (l.outputVelocity v : Int) = clamp l.offset) ∧
    (v ≤ 127 → l.gain ≤ 255 → scaled ≤ 506) ∧
    (v = 127 → l.gain = 255 → -64 ≤ l.offset → scaled = 506 ∧ l.outputVelocity v = 127) ∧
    ∀ player key n, l.route player key v = some n → n.velocity = l.outputVelocity v

/-- The list of note destinations (R70, R72): what the matching layers give, in layer order, each destination and
output key once, with the velocity of the lowest-numbered layer that gave it; a layer whose test passes gives a
destination exactly where its transposed key lies in 0 to 127. -/
def Obligations.RoutedNotesAreMerged : Prop :=
  ∀ (layers : List Layer) (player : Fin 4) (key velocity : Nat),
    let notes := routeNote layers player key velocity
    let same (m n : RoutedNote) : Prop := m.dest = n.dest ∧ m.key = n.key
    let given (k : Nat) (n : RoutedNote) : Prop :=
      ∃ l, layers[k]? = some l ∧ l.route player key velocity = some n
    notes.Sublist (layers.filterMap fun l => l.route player key velocity) ∧
    notes.Pairwise (fun m n => ¬same m n) ∧ notes.length ≤ layers.length ∧
    (∀ n ∈ notes, ∃ k, given k n ∧ ∀ j m, j < k → given j m → ¬same m n) ∧
    (∀ k n, given k n → ∃ m ∈ notes, same m n) ∧
    (∀ l : Layer, l.sources.getLsbD player.val = true → l.zonePasses key velocity = true →
      let out : Int := key + l.transpose
      (0 ≤ out → out ≤ 127 → l.route player key velocity =
        some { dest := l.dest, key := out.toNat, velocity := l.outputVelocity velocity }) ∧
      (out < 0 ∨ 127 < out → l.route player key velocity = none)) ∧
    ∀ (l : Layer) (n : RoutedNote), l.route player key velocity = some n →
      n.dest = l.dest ∧ (n.key : Int) = key + l.transpose ∧ n.key ≤ 127

/-- Controller, bend and pressure messages while Running with a scene active (R65, R68, R74, R75, R77): offered,
unchanged, to the destinations of the layers whose source set holds the port and that pass them, once each in order
of first appearance; nothing else changes. There is room for every message. -/
def Obligations.PassedMessagesAreOffered : Prop :=
  ∀ (i : Fin 4) (a b : Byte) (channel : Fin 16) (s : State) (sc : Scene),
    let p := s.part
    let q := p.players[i]
    let passing (gives : Layer → Bool) : List Dest :=
      ((sc.layers.filter fun l => l.sources.getLsbD i.val && gives l).map Layer.dest).eraseDups
    let send (dests : List Dest) (bytes : Fin 16 → Message) : Prop :=
      p.voices.roomFor (p.voices.reserve + dests.length) →
      ∃ t, exec (.byteArrival i b) s = .next { s with part := t } ∧
        t = { p.withPort i q.completed with voices := t.voices } ∧
        p.voices.received t.voices (dests.map fun d => (d.voice, bytes d.channel))
    p.engine = .running → p.loader.activeScene = some sc → a.toNat < 0x80 → b.toNat < 0x80 →
    (q.awaits (BitVec.ofNat 8 (0xB0 + channel.val)) a → q.tapController ≠ some a.toNat → a ≠ 64 →
      send (passing fun l => l.passList.contains a.toNat) fun c => [BitVec.ofNat 8 (0xB0 + c.val), a, b]) ∧
    (q.awaits (BitVec.ofNat 8 (0xE0 + channel.val)) a →
      send (passing fun l => l.passBend) fun c => [BitVec.ofNat 8 (0xE0 + c.val), a, b]) ∧
    (q.enabled = true → q.parser ≠ .skipping → q.skip = 0 → q.expected = 1 →
      q.running = some (BitVec.ofNat 8 (0xD0 + channel.val)) →
      q.filter.keeps (BitVec.ofNat 8 (0xD0 + channel.val)) = true →
      send (passing fun l => l.passPressure) fun c => [BitVec.ofNat 8 (0xD0 + c.val), b])

/-! ### Note tracker (Chapter 6) -/

/-- A note-on while Running with a scene active (R72, R73, R83 to R86, R98). The flags of the layers it matched are
set in every case. With room at the ports, its note-ons are admitted in list order and the key is entered as the
youngest entry with the destinations of its list; a note with no destination is entered nowhere. A Sounding entry of
the key is released first, its note-offs with velocity 64 ahead of the note-ons. With a full table the oldest
Sounding entry is released so, and NoteStolen journaled; with none Sounding the note is dropped, NoteDropped for the
full table. With no port that has more free entries than the reserve nothing is admitted and no entry made,
NoteDropped for the full ports. -/
def Obligations.NoteOnEntersTheTable : Prop :=
  ∀ (i : Fin 4) (key velocity : Byte) (channel : Fin 16) (s : State) (sc : Scene),
    let p := s.part
    let q := p.players[i]
    let notes := routeNote sc.layers i key.toNat velocity.toNat
    let entry : HeldEntry :=
      { player := i, key := key.toNat, state := .sounding
        dests := notes.map fun n => { dest := n.dest, key := n.key, delivered := false } }
    let entered := if notes = [] then [] else [entry]
    let other (e : HeldEntry) : Prop := e.player = i → e.key = key.toNat → e.state ≠ .sounding
    let noteOns : List (Fin 8 × Message) := notes.map fun n =>
      (n.dest.voice, [BitVec.ofNat 8 (0x90 + n.dest.channel.val), BitVec.ofNat 8 n.key, BitVec.ofNat 8 n.velocity])
    let noteOffs (e : HeldEntry) : List (Fin 8 × Message) := e.dests.map fun d =>
      (d.dest.voice, [BitVec.ofNat 8 (0x80 + d.dest.channel.val), BitVec.ofNat 8 d.key, 64])
    let room (n : Nat) : Prop := p.voices.roomFor (p.voices.reserve + (n + notes.length))
    let ends (table : List HeldEntry) (notice : Notice) (voices : Voices → Prop) : Prop :=
      ∃ t, exec (.byteArrival i velocity) s = .next { s with part := t } ∧
        t = { p.withPort i q.completed with
          flags := t.flags
          tracker := { p.tracker with table := table }
          notice := notice
          voices := t.voices } ∧
        (∀ k : Fin 8, t.flags.getLsbD k = (p.flags.getLsbD k ||
          ((sc.layers[k.val]?).bind fun l => l.route i key.toNat velocity.toNat).isSome)) ∧
        voices t.voices
    q.awaits (BitVec.ofNat 8 (0x90 + channel.val)) key → 1 ≤ velocity.toNat → velocity.toNat < 0x80 →
    p.engine = .running → p.loader.activeScene = some sc →
    ((∀ e ∈ p.tracker.table, other e) →
      (p.tracker.table.length < 128 → room 0 →
        ends (p.tracker.table ++ entered) p.notice fun v => p.voices.received v noteOns) ∧
      (p.tracker.table.length < 128 → notes ≠ [] →
        (∀ n ∈ notes, (p.voices.ports[n.dest.voice]).enabled = true ∧
          64 ≤ (p.voices.ports[n.dest.voice]).queue.length + p.voices.reserve) →
        ends p.tracker.table (p.handed (.noteDroppedPortFull i key.toNat notes.length)) fun v => v = p.voices) ∧
      (p.tracker.table.length = 128 → notes ≠ [] →
        (∀ (owed younger : List HeldEntry) (e : HeldEntry), p.tracker.table = owed ++ e :: younger →
          (∀ f ∈ owed, f.state ≠ .sounding) → e.state = .sounding → room e.dests.length →
          ends (owed ++ younger ++ [entry]) (p.handed (.noteStolen e.player e.key 0)) fun v =>
            p.voices.received v (noteOffs e ++ noteOns)) ∧
        ((∀ e ∈ p.tracker.table, e.state ≠ .sounding) →
          ends p.tracker.table (p.handed (.noteDroppedTableFull i key.toNat notes.length)) fun v => v = p.voices))) ∧
    ∀ (older younger : List HeldEntry) (e : HeldEntry), p.tracker.table = older ++ e :: younger →
      (∀ f ∈ older ++ younger, other f) → e.player = i → e.key = key.toNat → e.state = .sounding →
      p.tableBounded → room e.dests.length →
      ends (older ++ younger ++ entered) p.notice fun v => p.voices.received v (noteOffs e ++ noteOns)

/-- A note-off, or a note-on with velocity 0, which releases with velocity 64 (R62, R84, R87): without a Sounding
entry it changes nothing; with room the note-offs of the entry are admitted and the entry leaves the table; with the
ports full the entry stays as Owed with the release velocity. -/
def Obligations.NoteOffReleasesTheEntry : Prop :=
  ∀ (i : Fin 4) (status key b : Byte) (s : State) (sc : Scene),
    let p := s.part
    let q := p.players[i]
    let velocity := if status.toNat / 16 = 9 then 64 else b.toNat
    let other (e : HeldEntry) : Prop := e.player = i → e.key = key.toNat → e.state ≠ .sounding
    let left (table : List HeldEntry) : Part :=
      { p.withPort i q.completed with tracker := { p.tracker with table := table } }
    q.awaits status key → status.toNat / 16 = 8 ∨ (status.toNat / 16 = 9 ∧ b = 0) → b.toNat < 0x80 →
    p.engine = .running → p.loader.activeScene = some sc →
    ((∀ e ∈ p.tracker.table, other e) →
      exec (.byteArrival i b) s = .next { s with part := left p.tracker.table }) ∧
    ∀ (older younger : List HeldEntry) (e : HeldEntry), p.tracker.table = older ++ e :: younger →
      (∀ f ∈ older ++ younger, other f) → e.player = i → e.key = key.toNat → e.state = .sounding →
      (p.voices.roomFor e.dests.length →
        ∃ t, exec (.byteArrival i b) s = .next { s with part := t } ∧
          t = { left (older ++ younger) with voices := t.voices } ∧
          p.voices.received t.voices (e.dests.map fun d => (d.dest.voice,
            [BitVec.ofNat 8 (0x80 + d.dest.channel.val), BitVec.ofNat 8 d.key, BitVec.ofNat 8 velocity]))) ∧
      (e.dests ≠ [] → (∀ d ∈ e.dests, d.delivered = false ∧ (p.voices.ports[d.dest.voice]).enabled = true ∧
          Config.queueSize ≤ (p.voices.ports[d.dest.voice]).queue.length) →
        exec (.byteArrival i b) s =
          .next { s with part := left (older ++ { e with state := .owed velocity } :: younger) })

/-! ### Voice ports (Chapter 7) -/

/-- Admission (R102, R105): by class and free entries, answered at once; an admitted message joins the queue's young
end and an Idle transmitter begins it, a message not admitted changes nothing, and a disabled port discards what it
admits. -/
def Obligations.AdmissionFollowsTheClass : Prop :=
  ∀ (v : Voices) (cls : Admission) (i : Fin 8) (m : Message),
    let port := v.ports[i]
    let free := 64 - port.queue.length
    let admitted := match cls with | .opening => v.reserve < free | .releasing => 1 ≤ free
    let w := (v.offer cls i m).2
    (port.enabled = false → v.offer cls i m = (true, v)) ∧
    (port.enabled = true → ¬admitted → v.offer cls i m = (false, v)) ∧
    (port.enabled = true → admitted → (v.offer cls i m).1 = true ∧ w.reserve = v.reserve ∧
      (∀ j, j ≠ i → w.ports[j] = v.ports[j]) ∧ 64 - (w.ports[i]).queue.length + 1 = free ∧
      (port.tx ≠ .idle → w.ports[i] = { port with queue := port.queue ++ [m] }) ∧
      (port.tx = .idle → port.slot = [] → port.queue = [] → port.sent = none →
        w.ports[i] = { port with queue := [m], tx := .sending (m.getD 0 0) .queue, sent := some 0 }))

/-- The setup batch (R104, R105): the check passes exactly when every named port that is enabled has free entries
for its messages and the reserve; the batch is then admitted whole, in list order, and the reserve is left free. -/
def Obligations.BatchLeavesTheReserve : Prop :=
  ∀ (v : Voices) (batch : List SetupMessage),
    let count (i : Fin 8) := (batch.filter fun m => m.voice = i).length
    let w := v.admitBatch batch
    (v.batchFits batch = true ↔ ∀ m ∈ batch, (v.ports[m.voice]).enabled = true →
      count m.voice + v.reserve ≤ 64 - (v.ports[m.voice]).queue.length) ∧
    v.received w (batch.map fun m => (m.voice, m.message)) ∧
    (v.batchFits batch = true → ∀ m ∈ batch, (v.ports[m.voice]).enabled = true →
      v.reserve ≤ 64 - (w.ports[m.voice]).queue.length)

/-- The real-time slot (R105, R108): requests to a port that is disabled or whose clock out is off change nothing;
else the slot's table, with an Idle transmitter beginning the slot's older byte. -/
def Obligations.RealTimeSlotTakesRequests : Prop :=
  ∀ (v : VoicePort) (r a b : RtByte),
    let after (slot : List RtByte) : VoicePort :=
      { v with slot := slot, tx := if v.tx = .idle then (v.request r).tx else v.tx }
    RtByte.clock.byte = 0xF8 ∧ RtByte.start.byte = 0xFA ∧ RtByte.resume.byte = 0xFB ∧ RtByte.stop.byte = 0xFC ∧
    (v.enabled = false ∨ v.clockOut = false → v.request r = v) ∧
    (v.enabled = true → v.clockOut = true →
      (v.slot = [] → v.request r = after [r] ∧ (v.tx = .idle → (v.request r).tx = .sending r.byte .slot)) ∧
      (v.slot = [a] → v.request r = after [a, r] ∧ (v.tx = .idle → (v.request r).tx = .sending a.byte .slot)) ∧
      (v.slot = [a, .clock] → r ≠ .clock → v.request r = after [a, r]) ∧
      (v.slot = [a, .clock] → r = .clock → v.request r = after [a, .clock]) ∧
      (v.slot = [a, b] → b ≠ .clock → v.request r = after [a, b]))

/-- A byte boundary (R88, R89, R106, R107, R128): the byte ends and the next is chosen, the slot's first, then the
next byte of the message in progress or of the head message; a cut byte leaves the rest of the port as it is, which
is the model's choice (log 22). A message sent whole frees its entry: the port is offered what it is owed, note-offs
before sustain-ups; a held switch whose batch names the port and fits is made, a section's or a cue's, and only then
is the byte chosen. A held switch that does not fit, or whose batch does not name the port, stays held. While
Stopping the end of the drain is tested after it (R177). That a real-time byte leaves the slot at the end of its
stop bit is read from R106 against a row of its worked example (log 19). The place of SwitchLate before
SceneSwitched and SongChanged (log 17), the stamp of a result after the cue's effect (log 18), the Start byte still
to come (log 20), a jump's fields (log 24, log 25, log 42) and the layer flags of SongChanged under Keep (log 44)
are the model's choices. So is the drain's test in this act (log 23). -/
def Obligations.ByteBoundaryChoosesTheNextByte : Prop :=
  ∀ (v : Fin 8) (s : State),
    let p := s.part
    let port := p.voices.ports[v]
    let chosen (q : VoicePort) : VoicePort :=
      match q.slot, q.queue with
      | r :: _, _ => { q with tx := .sending r.byte .slot }
      | [], [] => { q with tx := .idle }
      | [], m :: _ => { q with tx := .sending (m.getD (q.sent.getD 0) 0) .queue, sent := some (q.sent.getD 0) }
    let sends (q : Part) : Prop := ∃ y, exec (.byteBoundary v) s = .next { s with part := y } ∧
      ({ q with voices := { q.voices with
        ports := q.voices.ports.set v (chosen q.voices.ports[v]) } } : Part).drains y
    let after (q : VoicePort) : Part := { p with voices := { p.voices with ports := p.voices.ports.set v q } }
    let named (batch : List SetupMessage) : Prop := ∃ m ∈ batch, m.voice = v
    let batch := match p.loader.shadowScene with | none => [] | some scene => scene.setup
    (port.tx = .idle ∨ (∃ b, port.tx = .sending b .cut) → sends p) ∧
    (∀ b, port.tx = .sending b .slot → sends (after { port with slot := port.slot.tail })) ∧
    ∀ b m rest, port.tx = .sending b .queue → port.queue = m :: rest →
      (port.sent.getD 0 + 1 < m.length → sends (after { port with sent := some (port.sent.getD 0 + 1) })) ∧
      (m.length ≤ port.sent.getD 0 + 1 → port.enabled = true →
        ∃ r, p.served r v { port with queue := rest, sent := none } ∧
          (p.loader.held = none ∨ ¬named batch ∨ r.voices.batchFits batch = false → sends r) ∧
          (∀ (sc : Scene) (target scene : Nat) (cause : SectionCause) (announced : Option Nat) (n : Nat),
            p.loader.held = some { cause := .entry target scene cause announced, countdown := n } →
            p.loader.shadowScene = some sc → p.loader.shadowSong = none → p.loader.trigger = none → named sc.setup →
            r.voices.batchFits sc.setup = true →
            ∃ q, sends q ∧ r.sectionMade q sc target cause announced p.notice ∧ r.switchSends q (some sc) sc.setup) ∧
          ∀ (a : ArmedCue) (incoming : Option Scene) (n : Nat),
            p.loader.held = some { cause := .cue a.slot, countdown := n } → p.loader.shadowScene = incoming →
            p.cues.arms = [a] → p.cues.writes = [] → p.loader.late = none → p.cueFits a incoming → named batch →
            r.voices.batchFits batch = true →
            ∃ q, sends q ∧ r.cueMade q a incoming (if 0 < a.missed then .okLate else .ok) 0 p.notice ∧
              r.switchSends q incoming batch)

/-! ### Shared memory and the library watch (Chapter 10) -/

/-- The effective kind (R158): the strictest of the page's kind and the kinds of the windows that cover the address,
then the policy's table; both bytes of a halfword have one kind under a table whose windows are valid (R157). -/
def Obligations.EffectiveKindIsTheStrictest : Prop :=
  ∀ (r : RegionTable) (a h : Nat),
    let applies (kind : RegionKind) : Prop := kind = r.pages[Fin.ofNat 16 (a / 0x4000)] ∨
      ∃ (i : Fin 4) (w : Window), r.windows[i] = some w ∧ w.base ≤ a ∧ a < w.base + 2 ^ w.sizeLog ∧ w.kind = kind
    RegionKind.openWrite.rank < RegionKind.live.rank ∧ RegionKind.live.rank < RegionKind.staged.rank ∧
    RegionKind.staged.rank < RegionKind.guarded.rank ∧
    applies (r.regionKind a) ∧ (∀ kind, applies kind → kind.rank ≤ (r.regionKind a).rank) ∧
    (r.policy = .normal → r.effective a = r.regionKind a) ∧
    (r.policy = .hold →
      r.effective a = if r.regionKind a = .live then .staged else r.regionKind a) ∧
    (r.policy = .freeze →
      r.effective a = if r.regionKind a = .openWrite then .openWrite else .guarded) ∧
    ((∀ (i : Fin 4) (w : Window), r.windows[i] = some w → 8 ≤ w.sizeLog ∧ w.base % 2 ^ w.sizeLog = 0) →
      r.effective (2 * h + 1) = r.effective (2 * h))

/-- Host accesses granted at once (R160, R161, R171, R186): a read drives the halfword onto the data lines in the
strap's order; a write that the watch has no rule for is stored, and every other byte is kept. That the data lines
keep what was read is the model's choice (log 21). -/
def Obligations.HostAccessesReadAndStore : Prop :=
  ∀ (address : BitVec 17) (d : Halfword) (s : State), s.mem.wf = true → s.hostFree →
    let p := s.part
    let at_ := 2 * address.toNat
    let outside := 0x200 ≤ at_ ∧ (at_ < p.layout.cueBoard ∨ p.layout.cueBoard + 1024 ≤ at_) ∧
      ∀ c, p.notice.config = some c → at_ ≠ c.base + 4 ∧ at_ ≠ c.base + 6
    (∃ v, exec (.hostRead address) s = .next { s with part := p.hostGranted, hostData := v } ∧
      halfwordBytes s.order v = (s.mem.read at_, s.mem.read (at_ + 1))) ∧
    (p.engine ≠ .running ∨ (outside ∧ (p.touched at_ = [] ∨ p.watch.region.effective at_ = .openWrite)) →
      ∃ m, exec (.hostWrite address d) s = .next { s with part := p.hostGranted, mem := m } ∧
        s.mem.stored m s.order address d)

/-- The watch's decision on host writes that the directory or a resident record rules (R118, R120, R129, R161 to
R164, R166, R167), while Running and granted at once: refused with GuardRefused and Guard in the directory and where
the effective kind is Guarded. A record not under fetch becomes Settling for the settle time under Live and Stale
under Staged; under Live a shadow record is not ready, its cue Working, and a held switch begins again; under Staged
the shadow stays ready and a hold goes on. A record under fetch restarts its fetch, from the index where the fetch
began there, or at the fourth restart fails it with Unstable; a refresh's two entries are counted once. That the
address journaled is a byte address and that a refusal in the directory names no role (log 33), what a restarted
fetch keeps (log 12, log 13) that an entry read again covers the whole record (log 14) and that a section switch
held on time is journaled late by no edit (log 16) are the model's choices. -/
def Obligations.WatchDecidesHostWrites : Prop :=
  ∀ (address : BitVec 17) (d : Halfword) (s : State), s.mem.wf = true → s.hostFree → s.part.engine = .running →
    let p := s.part
    let at_ := 2 * address.toNat
    let kind := p.watch.region.effective at_
    let outside := 0x200 ≤ at_ ∧ (at_ < p.layout.cueBoard ∨ p.layout.cueBoard + 1024 ≤ at_) ∧
      ∀ c, p.notice.config = some c → at_ ≠ c.base + 4 ∧ at_ ≠ c.base + 6
    let refused (roles : List Role) (directory : Bool) : Part := { p.hostGranted with
      irq := { p.irq with status := p.irq.status ||| 8 }
      notice := p.handed (.guardRefused roles at_ p.watch.region.policy directory) }
    let took (q : Part) : Prop := ∃ m, exec (.hostWrite address d) s = .next { s with mem := m, part := q } ∧
      s.mem.stored m s.order address d
    let r := p.watch.residents
    let holds (x : ResidentSet) : Watch := { p.watch with residents := x }
    let holding (role : Role) (e : Resident) : Part := { p.hostGranted with watch := holds (r.put role (some e)) }
    let settling (e : Resident) : Resident := { e with state := .settling (p.timeline.rate.hz / 1000) }
    let stale (e : Resident) : Resident := { e with state := .stale, refetch := 0 }
    (at_ < 0x200 → exec (.hostWrite address d) s = .next { s with part := refused [] true }) ∧
    (outside → p.touched at_ ≠ [] → kind = .guarded →
      exec (.hostWrite address d) s = .next { s with part := refused (p.touched at_) false }) ∧
    (∀ role e, outside → p.touched at_ = [role] → p.resident role = some e → e.state ≠ .refreshing →
      let shadow := role = .shadowSong ∨ role = .shadowScene
      let unready : Part := { holding role (settling e) with loader := { p.loader with
        ready := false, held := none
        late := match p.loader.held with
          | some { cause := .entry target scene cause announced, .. } =>
            some { target := target, scene := scene, cause := cause, waiting := false, atOnce := true
                   announced := announced }
          | _ => p.loader.late } }
      (kind = .live → ¬shadow → took (holding role (settling e))) ∧
      (kind = .live → shadow → p.loader.ready = false ∨ (∀ slot, p.loader.owner ≠ some (.cue slot)) → took unready) ∧
      (∀ slot, kind = .live → shadow → p.loader.ready = true → p.loader.owner = some (.cue slot) →
        p.cues.writes = [] → took { unready with
          cues := { p.cues with
            arms := p.cues.arms.map fun b => if b.slot = slot then { b with working := true } else b
            writes := [{ slot := slot, words := [.state .working], result := false, notice := false }] }
          watch := { unready.watch with owners := p.watch.owners.set slot (.engine .working) } }) ∧
      (kind = .staged → (shadow → p.loader.ready = true) →
        (e.state ≠ .stale → took { holding role (stale e) with
          notice := p.handed (.recordStale role e.kind e.number .staged) }) ∧
        (e.state = .stale → took p.hostGranted))) ∧
    (∀ i e f, outside → p.touched at_ = [.click i] → r.clicks[i] = some e → e.state = .refreshing →
      p.loader.clickFetches[i] = some f → kind = .live ∨ kind = .staged →
      (e.refetch < 3 → took { holding (.click i) { e with refetch := e.refetch + 1 } with
        loader := { p.loader with clickFetches := p.loader.clickFetches.set i (some { f with done := 0 }) } }) ∧
      (3 ≤ e.refetch → took { holding (.click i) (stale e) with
        click := { p.click with sounds := p.click.sounds.set i { samples := [], length := 0 } }
        loader := { p.loader with clickFetches := p.loader.clickFetches.set i none }
        notice := p.handed (.recordStale (.click i) e.kind e.number .unstable) })) ∧
    ∀ f, outside → p.loader.fetch = some f → f.also = false → kind = .live ∨ kind = .staged →
      (∀ role ∈ p.touched at_, p.isRefreshing role = true) →
      let counted (e : Option Resident) : Option Resident :=
        e.map fun e => if e.state = .refreshing then { e with refetch := f.count + 1 } else e
      let again (g : ShadowFetch) : Loader := { p.loader with fetch := some { g with bytes := [], count := f.count + 1 } }
      let fromSong : ShadowFetch := { f with stage := .songIndex, scene := 0, base := 0 }
      let fromScene : ShadowFetch := { f with stage := .sceneIndex, base := 0 }
      let songs : ResidentSet := { r with shadowSong := counted r.shadowSong, activeSong := counted r.activeSong }
      let scenes : ResidentSet := { r with shadowScene := counted r.shadowScene, activeScene := counted r.activeScene }
      let both : ResidentSet := { r with shadowSong := counted r.shadowSong, shadowScene := counted r.shadowScene }
      let freed : Part := p.hostGranted.shadowFreed
      let noneWaits := p.loader.trigger = none ∧ p.loader.late = none
      (∀ scene, p.loader.owner = some (.lookahead scene) → f.songLoad = false → f.indexed = true →
        f.stage = .sceneRecord → p.touched at_ = [.shadowScene] → p.isRefreshing .activeScene = false →
        (f.count < 3 → took { p.hostGranted with
          loader := again fromScene, watch := holds { r with shadowScene := counted r.shadowScene } }) ∧
        (3 ≤ f.count → took { freed with
          loader := { freed.loader with trigger := none, late := none }
          notice := p.handed (.sceneBad scene .unstable) })) ∧
      (∀ a, p.loader.owner = some (.cue a.slot) → f.songLoad = true → f.indexed = true →
        (p.touched at_ = [.shadowSong] → f.count < 3 → took { p.hostGranted with
          loader := { again fromSong with shadowSong := none }, watch := holds both }) ∧
        (p.touched at_ = [.shadowScene] → f.stage = .sceneRecord → f.count < 3 → took { p.hostGranted with
          loader := again fromScene, watch := holds both }) ∧
        (p.touched at_ = [.shadowSong] ∨ p.touched at_ = [.shadowScene] → 3 ≤ f.count →
          p.cues.arms.find? (fun b => b.slot == a.slot) = some a → noneWaits → p.cues.writes = [] → took { freed with
            cues := { p.cues with
              arms := p.cues.arms.filter fun b => b.slot != a.slot
              writes := [{
                slot := a.slot
                words := [.answer .unstable a.missed 0, .position p.stamp, .positionEnd p.stamp, .frameCount p.stamp,
                  .state .refused]
                result := true, notice := a.notify }] }
            watch := { freed.watch with owners := p.watch.owners.set a.slot .host } })) ∧
      (∀ next e, p.loader.owner = some (.refreshSong next) → f.songLoad = false → f.indexed = false →
        f.stage = .songRecord → p.touched at_ = [.activeSong, .shadowSong] → r.activeSong = some e →
        (f.count < 3 → took { p.hostGranted with loader := again f, watch := holds songs }) ∧
        (3 ≤ f.count → noneWaits → took { freed with
          watch := { freed.watch with residents := { freed.watch.residents with activeSong := some (stale e) } }
          notice := p.handed (.recordStale .activeSong e.kind e.number .unstable) })) ∧
      ∀ e, p.loader.owner = some .refreshScene → f.songLoad = false → f.indexed = false → f.stage = .sceneRecord →
        p.touched at_ = [.activeScene, .shadowScene] → r.activeScene = some e →
        (f.count < 3 → took { p.hostGranted with loader := again f, watch := holds scenes }) ∧
        (3 ≤ f.count → noneWaits → took { freed with
          watch := { freed.watch with residents := { freed.watch.residents with activeScene := some (stale e) } }
          notice := p.handed (.recordStale .activeScene e.kind e.number .unstable) })

/-- A record that a host write may not touch stays as it is (R161, R163): while Running, no step but a power-on
reset changes a byte of the directory, or of a resident record where the effective kind is Guarded, outside the
areas that the part itself writes. -/
def Obligations.GuardedBytesAreUnchanged : Prop :=
  ∀ (s t : State) (a : Nat), s.part.engine = .running → s.hostFree → s.part.areasInside → a < Config.ramBytes →
    ¬s.part.ownArea a →
    (a < 0x200 ∨ (s.part.touched (a - a % 2) ≠ [] ∧ s.part.watch.region.effective (a - a % 2) = .guarded)) →
    (∀ interval, s.pending.head? ≠ some (.powerOnReset interval)) → step s = .next t →
    t.mem.read a = s.mem.read a

/-- Every step keeps memory in its canonical form, and the areas that the part writes, the cue board and the
journal, inside shared memory and on their boundaries (10.1, R155). Both hold after reset. -/
def Obligations.StepKeepsMemoryForm : Prop :=
  (State.reset.mem.wf = true ∧ State.reset.part.areasKept) ∧ ∀ s t : State, step s = .next t →
    (s.mem.wf = true → t.mem.wf = true) ∧ (s.part.areasKept → t.part.areasKept)

/-- Every step keeps the bounds of R82, R101, R108 and R181: 64 messages in a queue, 2 bytes in a real-time slot,
128 held notes, 16 accepted entries. -/
def Obligations.StepKeepsTheBounds : Prop :=
  ∀ s t : State, s.part.queuesBounded → s.part.tableBounded → s.part.acceptedBounded → step s = .next t →
    t.part.queuesBounded ∧ t.part.tableBounded ∧ t.part.acceptedBounded

/-- An engine grant (R170, R171): nothing when no requester waits; else the first that waits from the rotation
pointer on, the pointer passed on and the run count 0, with at most one word of memory written. A host access past
the run limit comes after it. The last clauses give three accesses whole. That a host access that must wait is
granted after one engine access is the model's choice (log 8). So are the 0 of the written-count word in a grant of
its own and the count of the words written (log 31), and a read of the RAM modulo its size (log 40). -/
def Obligations.EngineGrantsTakeTurns : Prop :=
  ∀ (s : State) (address : BitVec 17) (d : Halfword),
    let p := s.part
    let first := p.arbiter.rotation
    (p.accessOf first = none → p.accessOf first.next = none → p.accessOf first.next.next = none →
      exec .engineWordAccess s = .next s) ∧
    (∀ r a, p.accessOf r = some a →
      (r = first ∨ (p.accessOf first = none ∧
        (r = first.next ∨ (p.accessOf first.next = none ∧ r = first.next.next)))) →
      ∃ q m, exec .engineWordAccess s = .next { s with part := q, mem := m } ∧
        q.arbiter = (p.engineGranted r).arbiter ∧ (p.accessWrites s.order a = none → m = s.mem) ∧
        ∀ x, (∀ k, k < 4 → x % Config.ramBytes ≠ (p.accessAddress a + k) % Config.ramBytes) →
          m.read x = s.mem.read x) ∧
    (¬s.hostFree → 0 < p.arbiter.hostRunLimit → ∀ t, exec .engineWordAccess s = .next t →
      exec (.hostRead address) s = exec (.hostRead address) t ∧
      exec (.hostWrite address d) s = exec (.hostWrite address d) t) ∧
    (∀ read, p.engine = .starting → p.starting = .reading read → read.length + 4 < 512 → first = .sceneLoader →
      let longer : Part :=
        { p.engineGranted .sceneLoader with starting := .reading (read ++ s.mem.readWord read.length) }
      exec .engineWordAccess s = .next { s with part := longer }) ∧
    (∀ c, p.engine = .running → p.notice.config = some c → first = .noticeUnit →
      let noted (n : Notice) : Part := { p.engineGranted .noticeUnit with notice := n }
      let zeroed := noted { p.notice with headPending := false }
      let wordMore := noted { p.notice with wordsDone := p.notice.wordsDone + 1 }
      (p.notice.headPending = true → exec .engineWordAccess s =
        .next { s with mem := s.mem.writeBytes c.base [0, 0, 0, 0], part := zeroed }) ∧
      ∀ e rest, p.notice.headPending = false → p.notice.accepted = e :: rest → p.notice.wordsDone < 4 →
        let place := c.base + 16 + 16 * (p.notice.written.toNat % c.size) + 4 * p.notice.wordsDone
        let word := ((e.bytes s.order).drop (4 * p.notice.wordsDone)).take 4
        exec .engineWordAccess s = .next { s with mem := s.mem.writeBytes place word, part := wordMore })

/-! ### Cues (Chapter 9) -/

/-- Host writes into the cue board while Running and granted at once (R114, R134, R136, R137, R149 to R152): a
host-owned slot is stored, and posted or journaled WithdrawLate where its state byte becomes 1 or 7; an engine-owned
slot refuses every write, and takes a 7 as the request to withdraw a posted or an armed cue. An armed cue leaves the
arm list, the others keeping their places, its held switch is cancelled, and a shadow that it owned is freed. That a
refused write raises Guard and nothing else is the model's reading (log 11). That a freed shadow serves a waiting
section entry before the standing trigger is the model's choice (log 32). -/
def Obligations.BoardWritesPostAndWithdraw : Prop :=
  ∀ (address : BitVec 17) (d : Halfword) (slot : Fin 32) (k : Nat) (s : State), s.mem.wf = true →
    s.hostFree → s.part.engine = .running → k < 32 →
    2 * address.toNat = s.part.layout.cueBoard + 32 * slot.val + k → 0x200 ≤ s.part.layout.cueBoard →
    let p := s.part
    let state := (halfwordBytes s.order d).1
    let withdrawn (notify : Bool) : WriteItem :=
      { slot := slot
        words := [.position p.stamp, .positionEnd p.stamp, .frameCount p.stamp, .state .withdrawn]
        result := true, notice := notify }
    let posted : Part := { p.hostGranted with
      watch := { p.watch with owners := p.watch.owners.set slot (.engine .posted) }
      cues := { p.cues with
        posted := p.cues.posted ++ [slot], writes := p.cues.writes.filter fun w => w.slot != slot } }
    let late : Part := { p.hostGranted with notice := p.handed (.withdrawLate slot) }
    let guard : Part := { p.hostGranted with irq := { p.irq with status := p.irq.status ||| 8 } }
    let taking : Option TakeRead := p.cues.take.filter fun t => t.slot != slot
    let released (c : CueUnit) : Part := { p.hostGranted with
      watch := { p.watch with owners := p.watch.owners.set slot .host }, cues := c }
    let unposted := released { p.cues with
      posted := p.cues.posted.filter fun x => x != slot, take := taking, writes := p.cues.writes ++ [withdrawn false] }
    (p.watch.owners[slot] = .host → ∃ m q, s.mem.stored m s.order address d ∧
      q = (if k = 0 ∧ state = 1 then posted else if k = 0 ∧ state = 7 then late else p.hostGranted) ∧
      exec (.hostWrite address d) s = .next { s with mem := m, part := q }) ∧
    (p.watch.owners[slot] ≠ .host →
      (¬(k = 0 ∧ state = 7) → exec (.hostWrite address d) s = .next { s with part := guard }) ∧
      (k = 0 → state = 7 → (∀ w ∈ p.cues.writes, w.slot ≠ slot) →
        ((∀ a ∈ p.cues.arms, a.slot ≠ slot) → exec (.hostWrite address d) s = .next { s with part := unposted }) ∧
        ∀ ahead a rest, p.cues.arms = ahead ++ a :: rest → a.slot = slot → (∀ b ∈ ahead, b.slot ≠ slot) →
          let unarmed (held : Option HeldSwitch) : Part := { (released { p.cues with
            arms := p.cues.arms.filter fun b => b.slot != slot }) with loader := { p.loader with held := held } }
          let withdraws (q : Part) : Prop := exec (.hostWrite address d) s = .next { s with part := { q with
            cues := { q.cues with writes := p.cues.writes ++ [withdrawn a.notify] } } }
          let ends (held : Option HeldSwitch) : Prop :=
            (p.loader.owner ≠ some (.cue slot) → withdraws (unarmed held)) ∧
            (p.loader.owner = some (.cue slot) → ∃ q, (unarmed held).freed q ∧ withdraws q)
          ((∃ n, p.loader.held = some { cause := .cue slot, countdown := n }) → ends none) ∧
          ((∀ n, p.loader.held ≠ some { cause := .cue slot, countdown := n }) → ends p.loader.held)))

/-- A take read (R114, R138 to R143, R147): it starts on the oldest posted slot when none is in progress and the
write list is empty; its last word decides the cue in one act. The cue is refused by its kind, by its parameters, by
the state of the part, or for want of room; a refusal changes no other state. A cue that passes is armed with the
parameters that its slot spells, Working where it needs a fetch or, a Remap, its table read; a SongLoad or a
SectionJump then supersedes the scene-changing cue before it, if one is armed, and claims the shadow, or frees it
where it needs no fetch. Due and ready, it is executed in the same act, with every cue that can then execute. That
the start changes nothing when it is not due is the guard of log 2. That a freed shadow serves a waiting section
entry before the standing trigger is the model's choice (log 32). -/
def Obligations.TakeReadsDecideTheCue : Prop :=
  ∀ (s : State) (slot : Fin 32) (young : List (Fin 32)) (read : List Byte),
    let p := s.part
    let bytes := read ++ s.mem.readWord (p.layout.cueBoard + 32 * slot.val + read.length)
    let num (k : Nat) := (bytes.getD k 0).toNat
    let half (k : Nat) := fieldAt s.order bytes k 2
    let place := fieldAt s.order bytes 12 4
    let kind := num 4
    let first := num 8
    let notify := (bytes.getD 6 0).getLsbD 0
    let result (outcome : CueOutcome) (final : BoardState) : WriteItem :=
      { slot := slot
        words := [.answer outcome 0 0, .position p.stamp, .positionEnd p.stamp, .frameCount p.stamp, .state final]
        result := true, notice := notify }
    let after (owner : SlotOwner) (arms : List ArmedCue) (item : WriteItem) : Part :=
      { p.engineGranted .cueUnit with
        cues := { posted := young, take := none, arms := arms, writes := [item] }
        watch := { p.watch with owners := p.watch.owners.set slot owner } }
    let refused (outcome : CueOutcome) : Prop :=
      exec .takeReadComplete s = .next { s with part := after .host p.cues.arms (result outcome .refused) }
    let follow : ArmedCue :=
      { slot := slot, cue := .tapFollow true, boundary := .beat, notify := notify, working := false, due := false
        atBoundary := false, wait := .beat, missed := 0, read := none, table := none }
    let waits : WriteItem := { slot := slot, words := [.state .waiting], result := false, notice := false }
    let changing := kind = 1 ∨ kind = 2
    let outside := 3 < num 5 ∨ (kind = 1 ∧ (127 < first ∨ 15 < num 9)) ∨ (kind = 2 ∧ 15 < first) ∨
      (kind = 3 ∧ (1 < first ∨ (first = 1 ∧ 1 < num 9))) ∨ (kind = 4 ∧ 3 < first) ∨ (kind = 6 ∧ 1 < first) ∨
      (kind = 7 ∧ (7 < first ∨ 127 < num 9 ∨ 127 < num 10 ∨ 127 < num 11 ∨ 127 < num 12)) ∨
      (kind = 8 ∧ (3 < first ∨ half 10 = 0 ∨ 2048 < half 10 ∨ place % 4 ≠ 0 ∨
        0x3FFFF < place + 4 * ((half 10 + 1) / 2) - 1)) ∨
      (kind = 10 ∧ (place % 4 ≠ 0 ∨ 0x3FFFF < place + 63)) ∨ (kind = 11 ∧ 1 < first)
    let clock := p.timeline.clock
    let unready := (kind = 2 ∧ p.pointer.loaded = false) ∨ (kind = 3 ∧ clock = .idle) ∨
      (kind = 4 ∧ ((first = 0 ∧ clock ≠ .parked) ∨ (first = 1 ∧ p.clockRuns = false ∧ clock ≠ .paused) ∨
        (first = 2 ∧ p.clockRuns = false) ∨ (first = 3 ∧ clock ≠ .paused))) ∨
      (kind = 9 ∧ ((p.loader.activeSong = none ∧ p.loader.activeScene = none) ∨ p.loader.owner ≠ none))
    let absent := kind = 2 ∧ p.pointer.loaded = true ∧ p.sectionCount ≤ first
    let full := 8 ≤ p.cues.arms.length ∧
      (¬changing ∨ 8 < p.cues.arms.length ∨ ∀ b ∈ p.cues.arms, b.cue.sceneChanging = false)
    let levels : ByClass := { downbeat := num 9, beat := num 10, sub := num 11, countIn := num 12 }
    let spelled : List Cue := [
      .songLoad first (num 9) ((bytes.getD 10 0).getLsbD 0), .sectionJump first,
      if first = 0 then .vampSet else .vampRelease (num 9 == 1),
      .transport ([TransportAction.start, .stop, .pause, .resume].getD first .start),
      .tempoSet (half 8) (half 10) ((bytes.getD 12 0).getLsbD 0), .tapFollow (first == 1),
      .mixSet (Fin.ofNat 8 first) levels (num 13) ((bytes.getD 14 0).getLsbD 0),
      .clickSoundLoad (Fin.ofNat 4 first) place (half 10), .sceneRefresh, .remap place,
      .clockSelect (if first = 0 then .internal else .external)]
    let needs (fetch : Option ShadowFetch) : Prop :=
      (kind = 1 ∧ fetch = some (songLoadFetch first (num 9))) ∨
      (kind = 2 ∧ ∃ sec, p.sectionAt first = some sec ∧ fetch = match sec.scene with
        | none => none
        | some scene => if p.loader.activeScene.map (·.number) = some scene then none else some (sceneFetch scene)) ∨
      (¬changing ∧ fetch = none)
    let again (r : Host.Outcome State Fault Refusal) : Host.Outcome State Fault Refusal :=
      match r with | .next x => exec .cueExecute x | stop => stop
    (p.cues.posted = slot :: young → p.cues.take = none → p.cues.writes = [] →
      exec .takeReadStart s =
        .next { s with part := { p with cues := { p.cues with take := some { slot := slot, bytes := [] } } } }) ∧
    (p.cues.posted = [] ∨ p.cues.take ≠ none ∨ p.cues.writes ≠ [] → exec .takeReadStart s = .next s) ∧
    (p.engine = .running → p.arbiter.rotation = .cueUnit → p.cues.take = some { slot := slot, bytes := read } →
      p.cues.posted = slot :: young → slot ∉ young → p.cues.writes = [] → read.length = 28 →
      (kind = 0 → refused .blank) ∧ (12 ≤ kind → kind ≤ 15 → refused .reserved) ∧ (16 ≤ kind → refused .unknown) ∧
      (1 ≤ kind → kind ≤ 11 →
        (outside → refused .badParam) ∧ (¬outside → unready → refused .notReady) ∧
        (¬outside → absent → refused .badParam) ∧
        (¬outside → ¬unready → ¬absent → full → refused .armFull)) ∧
      (kind = 6 → first = 1 → p.loader.held = none →
        (num 5 = 0 → p.cues.arms = [] → ∃ t, exec .takeReadComplete s = .next { s with part := t } ∧
          t = { after .host [] (result .ok .done) with timeline := { p.timeline with tapFollow := true } }) ∧
        (num 5 = 1 → p.clockRuns = true → p.cues.arms.length < 8 → (∀ b ∈ p.cues.arms, b.slot ≠ slot) →
          exec .takeReadComplete s =
            .next { s with part := after (.engine .waiting) (p.cues.arms ++ [follow]) waits })) ∧
      ∀ (cue : Cue) (boundary : Boundary) (fetch : Option ShadowFetch) (old : Option ArmedCue),
        1 ≤ kind → kind ≤ 11 → ¬outside → ¬unready → ¬absent → ¬full → (∀ b ∈ p.cues.arms, b.slot ≠ slot) →
        spelled[kind - 1]? = some cue → [Boundary.now, .beat, .bar, .newSection][num 5]? = some boundary →
        needs fetch → (changing → p.cues.arms.filter (·.cue.sceneChanging) = old.toList) →
        let works := fetch.isSome || decide (kind = 10)
        let due := boundary == .now || !p.clockRuns
        let a : ArmedCue :=
          { slot := slot, cue := cue, boundary := boundary, notify := notify, working := works, due := due
            atBoundary := false, wait := boundary, missed := 0, read := if kind = 10 then some [] else none, table := none }
        let placed : Part := after (.engine (if works then .working else .waiting)) (p.cues.arms ++ [a])
          { slot := slot, words := [.state (if works then .working else .waiting)], result := false, notice := false }
        let taking (o : ArmedCue) : Part := { placed with
          loader := { p.loader with held := p.loader.held.filter fun h => h.cause != .cue o.slot }
          cues := { placed.cues with
            arms := (p.cues.arms.filter fun b => b.slot != o.slot) ++ [a]
            writes := placed.cues.writes ++ [{
              slot := o.slot
              words := [.answer .superseded o.missed 0, .position p.stamp, .positionEnd p.stamp,
                .frameCount p.stamp, .state .done]
              result := true, notice := o.notify }] }
          watch := { p.watch with owners := placed.watch.owners.set o.slot .host } }
        let base : Part := match old with | none => placed | some o => taking o
        let owned := ∃ o, old = some o ∧ p.loader.owner = some (.cue o.slot)
        ∃ u, exec .takeReadComplete s =
            (if due && !works then again^[u.cues.arms.length] (.next { s with part := u })
              else .next { s with part := u }) ∧
          (¬changing → u = placed) ∧
          (changing → (∀ f, fetch = some f → base.claims u slot f) ∧
            (fetch = none → (owned → base.freed u) ∧ (¬owned → u = base))))

/-- A cue executed (R124, R144, R145; R9, R14 to R18, R21, R35 to R39, R49, R51, R126, R146, R159): the first of the
arm list that is due and ready, with no held switch at or ahead of it. It has its effect, leaves the arm list, its
slot is host-owned again, and the result is queued with the stamp of the moment after the effect (log 18). A Pause
or a Stop makes the cues still waiting due. A SectionJump that finds that it needs a fetch claims the shadow and
stays armed, Working, passed on from the announcement it fell due on, if it did. With no cue due and ready, or none
ahead of the cue whose switch is held, the command changes nothing (log 2). That a jump in the count-in keeps the
vamp flag (log 24), that a jump while Parked sets the tempo under an override (log 25), that Parked counts a ramp
with Keep as done (log 34) and that a landing while Paused keeps the paused-from state (log 42) are the model's
choices. So are the Start byte still to come (log 20), a Park switch that a jump while Parked leaves pending (log
43) and a last bar by the leave mark that a Vamp Set clears (log 47). -/
def Obligations.CuesTakeEffect : Prop :=
  ∀ (s : State) (a : ArmedCue),
    let p := s.part
    let run := exec .cueExecute s
    let holds (b : ArmedCue) : Prop := ∃ n, p.loader.held = some { cause := .cue b.slot, countdown := n }
    let first := ∃ waiting rest, p.cues.arms = waiting ++ a :: rest ∧
      (∀ b ∈ waiting, (b.due = false ∨ b.working = true) ∧ ¬holds b) ∧ ¬holds a ∧ a.due = true ∧ a.working = false ∧
      (p.cues.writes = [] ∨ ∃ w, p.cues.writes = [w] ∧ w.slot = a.slot ∧ w.result = false)
    let allDue : CueUnit := { p.cues with arms := p.cues.arms.map fun b => { b with due := true } }
    let ended (q : Part) (outcome : CueOutcome) (final : BoardState) : Part := { q with
      cues := { q.cues with
        arms := q.cues.arms.filter fun b => b.slot != a.slot
        writes := [{
          slot := a.slot
          words := [.answer outcome a.missed 0, .position q.stamp, .positionEnd q.stamp, .frameCount q.stamp,
            .state final]
          result := true, notice := a.notify }] }
      watch := { q.watch with owners := q.watch.owners.set a.slot .host } }
    let ok (q : Part) : Prop := run = .next { s with part := ended q .ok .done }
    let refused (outcome : CueOutcome) : Prop := run = .next { s with part := ended p outcome .refused }
    let timed (tl : Timeline) : Part := { p with timeline := tl }
    let roles (f : ResidentSet → ResidentSet) : Watch := { p.watch with residents := f p.watch.residents }
    let looks (q : Part) (scene : Nat) : Part := { q with
      loader := { q.loader with
        owner := some (.lookahead scene), shadowSong := none, shadowScene := none, ready := false
        fetch := some (sceneFetch scene) }
      watch := roles fun r => { r with shadowSong := none, shadowScene := none } }
    let follows : Trigger :=
      if p.pointer.sectionIndex + 1 < p.sectionCount then .toSection (p.pointer.sectionIndex + 1)
      else match p.loader.activeSong with
        | none => .toEnd
        | some song => if song.loopLast then .toSection p.pointer.sectionIndex else .toEnd
    let stops : Voices :=
      if p.clockRuns && !p.timeline.startPending then p.voices.request .stop else p.voices
    ((∀ b ∈ p.cues.arms, b.due = false ∨ b.working = true) → exec .cueExecute s = .next s) ∧
    (∀ ahead h rest, p.cues.arms = ahead ++ h :: rest → holds h → (∀ b ∈ ahead, b.due = false ∨ b.working = true) →
      exec .cueExecute s = .next s) ∧
    (first →
      (∀ on, a.cue = .tapFollow on → ok (timed { p.timeline with tapFollow := on })) ∧
      (∀ target ramp keep, a.cue = .tempoSet target ramp keep →
        let t := max 2000 (min target 30000)
        let m := min ramp 1024
        let plan (j : Nat) : Option Override :=
          some { base := p.timeline.tempo, target := t, ramp := m, taken := j, keep := keep }
        (p.clockRuns = true → ok (timed { p.timeline with plan := plan 0 })) ∧
        (p.clockRuns = false → ok (timed { p.timeline with plan := plan m, tempo := t }))) ∧
      (∀ mix levels trim mute, a.cue = .mixSet mix levels trim mute →
        let old := p.click.mixes[mix]
        let ends := mute = true ∧ old.mute = false
        let new : Mix := { levels := levels, trim := trim, mute := mute, cursor := { old.cursor with
          running := if ends then false else old.cursor.running } }
        ok { p with click := { p.click with mixes := p.click.mixes.set mix new } }) ∧
      (∀ sound address length, a.cue = .clickSoundLoad sound address length →
        let words := (length + 1) / 2
        ok { p with
          click := { p.click with mixes := Vector.ofFn fun i =>
            if (p.click.mixes[i]).cursor.sound = some sound then
              { p.click.mixes[i] with cursor := { (p.click.mixes[i]).cursor with running := false } }
            else p.click.mixes[i] }
          loader := { p.loader with clickFetches := p.loader.clickFetches.set sound (some {
            kind := .load, base := address, length := length, words := words, done := 0 }) }
          watch := roles fun r => { r with clicks := r.clicks.set sound (some {
            kind := .click, number := sound.val, base := address, length := 4 * words, state := .refreshing
            refetch := 0 }) } }) ∧
      (a.cue = .clockSelect .internal → ok (timed { p.timeline with source := .internal })) ∧
      (a.cue = .clockSelect .external →
        (p.timeline.source = .external ∨ p.timeline.monitor = .present →
          ok (timed { p.timeline with source := .external })) ∧
        (p.timeline.source = .internal → p.timeline.monitor = .absent → refused .notReady)) ∧
      (a.cue = .vampSet →
        let set := { p with pointer := { p.pointer with vamp := true, leave := false } }
        let here := p.pointer.sectionIndex
        (p.inLastBar = false → p.loader.trigger = none → ok set) ∧
        (p.inLastBar = true → p.pointer.phase = .song → p.timeline.clock ≠ .idle → p.timeline.clock ≠ .parked →
          p.loader.late ≠ none ∨ (p.loaderAtRest ∧ ∀ scene, p.sceneOf here = some scene →
            p.loader.activeScene.map (·.number) = some scene) →
          ok { set with loader := { p.loader with trigger := some (.toSection here) } })) ∧
      (∀ nextBar, a.cue = .vampRelease nextBar →
        let released := { p with pointer := { p.pointer with vamp := false, leave := nextBar || p.pointer.leave } }
        let given : Part := { released with loader := { p.loader with trigger := some follows } }
        let gives := p.pointer.phase = .song ∧ p.timeline.clock ≠ .idle ∧ p.timeline.clock ≠ .parked ∧
          (nextBar = true ∨ (p.pointer.vamp = true ∧ p.inLastBar = true))
        (¬gives → p.loader.trigger = none → ok released) ∧
        (gives → p.loader.late ≠ none → ok given) ∧
        (gives → p.loaderAtRest →
          (∀ target scene, follows = .toSection target → p.sceneOf target = some scene →
            p.loader.activeScene.map (·.number) ≠ some scene → ok (looks given scene)) ∧
          ((∀ target scene, follows = .toSection target → p.sceneOf target = some scene →
            p.loader.activeScene.map (·.number) = some scene) → ok given))) ∧
      (a.cue = .transport .start → p.timeline.clock = .parked →
        ok (timed { p.timeline with
          clock := if 0 < p.countInBars then .countIn else .playing
          startPending := true, acc := 0, beatOpen := true })) ∧
      (a.cue = .transport .pause → p.clockRuns = true → p.loader.late = none →
        ok { p with
          timeline := { p.timeline with
            clock := .paused
            pausedFrom := some (if p.timeline.clock = .countIn then .countIn else .playing) }
          cues := allDue
          voices := stops }) ∧
      (a.cue = .transport .resume → p.timeline.clock = .paused →
        ok { p with
          timeline := { p.timeline with
            clock := if p.timeline.pausedFrom = some .countIn then .countIn else .playing
            pausedFrom := none }
          voices := if p.timeline.startPending then p.voices else p.voices.request .resume }) ∧
      (a.cue = .transport .stop → p.clockRuns = true ∨ p.timeline.clock = .paused → ∃ q, p.parks q ∧ ok q) ∧
      (∀ action, a.cue = .transport action → action.fits p.timeline.clock = false → refused .notReady) ∧
      (∀ target, a.cue = .sectionJump target → p.loader.owner ≠ some (.cue a.slot) →
        (p.sectionCount ≤ target → refused .badParam) ∧
        ∀ sec, p.sectionAt target = some sec →
          ((∀ scene, sec.scene = some scene → p.loader.activeScene.map (·.number) = some scene) →
            p.loader.trigger = none → (p.landsAtOnce = true → p.loaderAtRest ∧ 1 < sec.bars) →
            ∃ q, p.jumped q target sec ∧ ok q) ∧
          (∀ scene, sec.scene = some scene → p.loader.activeScene.map (·.number) ≠ some scene → p.loaderAtRest →
            run = .next { s with part := { p with
              loader := { p.loader with
                owner := some (.cue a.slot), shadowSong := none, shadowScene := none, ready := false
                fetch := some (sceneFetch scene) }
              cues := { p.cues with
                arms := p.cues.arms.map fun b => if b.slot ≠ a.slot then b else { b with
                  working := true
                  due := if b.atBoundary then !p.clockRuns else b.due
                  atBoundary := false
                  missed := b.missed + if b.atBoundary then 1 else 0
                  wait := if b.atBoundary = true ∧ b.wait = .newSection then .bar else b.wait }
                writes := [{ slot := a.slot, words := [.state .working], result := false, notice := false }] }
              watch := { p.watch with
                owners := p.watch.owners.set a.slot (.engine .working)
                residents := { p.watch.residents with shadowSong := none, shadowScene := none } } } })) ∧
      (a.cue = .sceneRefresh →
        let again (e : Resident) : Option Resident := some { e with state := .refreshing, refetch := 0 }
        let owned (owner : ShadowOwner) (fetch : ShadowFetch) : Loader := { p.loader with
          owner := some owner, shadowSong := none, shadowScene := none, ready := false, fetch := some fetch }
        (p.isStale .activeSong = false → p.isStale .activeScene = false → ok p) ∧
        (p.isStale .activeSong = true ∨ p.isStale .activeScene = true → p.loader.owner ≠ none → refused .notReady) ∧
        (∀ e, p.loader.owner = none → p.watch.residents.activeSong = some e → e.state = .stale →
          ok { p with
            loader := owned (.refreshSong (p.isStale .activeScene)) (songAgainFetch e none)
            watch := roles fun r => { r with activeSong := again e, shadowSong := again e } }) ∧
        (∀ e, p.loader.owner = none → p.isStale .activeSong = false → p.watch.residents.activeScene = some e →
          e.state = .stale →
          ok { p with
            loader := owned .refreshScene (sceneAgainFetch e)
            watch := roles fun r => { r with activeScene := again e, shadowScene := again e } })) ∧
      (∀ place table, a.cue = .remap place → a.table = some table →
        (∀ role e, p.resident role = some e → ∀ n, e.state ≠ .settling n) →
        ok { p with watch := { p.watch with region := table } }))

/-- The end of a Remap's table read (R143, R147, R157): a table that is not valid (a page, window or policy code
that names nothing, or an enabled window whose size code or base does not fit) ends the cue with BadMap; a valid one
is kept with the cue as its bytes give it, and the cue becomes ready. That a due cue is then left for a CUE_EXECUTE
command or the next frame event is the model's choice (log 2, log 3). -/
def Obligations.RemapReadChecksTheTable : Prop :=
  ∀ (s : State) (a : ArmedCue) (place : Nat) (read : List Byte),
    let p := s.part
    let bytes := read ++ s.mem.readWord (place + read.length)
    let ended (owner : SlotOwner) (arms : List ArmedCue) (item : WriteItem) : Part :=
      { p.engineGranted .cueUnit with
        cues := { p.cues with arms := arms, writes := [item] }
        watch := { p.watch with owners := p.watch.owners.set a.slot owner } }
    let refused : WriteItem :=
      { slot := a.slot
        words := [.answer .badMap a.missed 0, .position p.stamp, .positionEnd p.stamp, .frameCount p.stamp,
          .state .refused]
        result := true, notice := a.notify }
    let waits : WriteItem := { slot := a.slot, words := [.state .waiting], result := false, notice := false }
    p.engine = .running → p.arbiter.rotation = .cueUnit → p.cues.take = none → p.cues.writes = [] →
    p.cues.arms = [a] → a.cue = .remap place → a.read = some read → read.length = 60 →
    let bad := ended .host [] refused
    let good (table : RegionTable) : Part :=
      ended (.engine .waiting) [{ a with read := none, table := some table, working := false }] waits
    let num (k : Nat) := (bytes.getD k 0).toNat
    let enabled (w : Nat) := (bytes.getD (16 + 8 * w + 6) 0).getLsbD 0
    let base (w : Nat) := fieldAt s.order bytes (16 + 8 * w) 4
    let code (w : Nat) := num (16 + 8 * w + 4)
    let kind (w : Nat) := num (16 + 8 * w + 5)
    let policy : Policy → Nat
      | .normal => 0
      | .hold => 1
      | .freeze => 2
    let valid := (∀ k, k < 16 → num k ≤ 3) ∧ num 48 ≤ 2 ∧ ∀ w, w < 4 → enabled w = true →
      8 ≤ code w ∧ code w ≤ 18 ∧ base w % 2 ^ code w = 0 ∧ kind w ≤ 3
    let holds (table : RegionTable) : Prop := (∀ k : Fin 16, (table.pages[k]).rank = num k.val) ∧
      policy table.policy = num 48 ∧ ∀ w : Fin 4, (enabled w.val = false → table.windows[w] = none) ∧
        (enabled w.val = true → ∃ x, table.windows[w] = some x ∧ x.base = base w.val ∧ x.sizeLog = code w.val ∧
          x.kind.rank = kind w.val)
    (¬valid → exec .remapReadComplete s = .next { s with part := bad }) ∧
    (valid → ∃ table, holds table ∧ exec .remapReadComplete s = .next { s with part := good table })

/-! ### Fetches, the switch, and the words written (Chapters 8, 9 and 11) -/

/-- The last word of a fetch (R41, R43, R51, R52, R80, R94, R115 to R117, R119, R120, R133, R166): the sound of a
ClickSoundLoad or of a refresh in place has its samples and the length that its fetch was begun with, which for a
refresh is the sound's own, its entry is Current, and a refresh is journaled RecordRefreshed. A scene that has
passed its checks is in the shadow as its bytes are parsed, its entry Current, the shadow ready and an owning cue
Waiting; a SongLoad's song goes on to its start section's scene, or is the whole of it under Keep. A refresh puts
the record in the active store: the pointer is corrected, or the flags are cut and the pedals carried, and
RecordRefreshed is journaled. A word that meets a condition of R116 fails the fetch: the cue ends with the outcome,
a lookahead journals SceneBad, a refreshed record is Stale, and the shadow is free. That a fetch reads no further
word than the one that fails it, and that an index entry is checked for its header, is the reading of log 26; the
moment of an entry's making is that of log 12; the samples of a sound are kept up to the last one fetched (log 37);
a song refreshed while Parked sets the tempo under an override too and where nothing moved (log 25); an entry read
again keeps its length (log 14). -/
def Obligations.FetchesComplete : Prop :=
  ∀ (s : State) (turn : Fin 5), s.part.engine = .running →
    s.part.arbiter.rotation = .sceneLoader → s.part.starting = .none → s.part.loader.nextTurn = some turn →
    let p := s.part
    let r := p.watch.residents
    let current (e : Resident) : Resident := { e with state := .current, refetch := 0 }
    let stale (e : Resident) : Resident := { e with state := .stale, refetch := 0 }
    (∀ (i : Fin 4) (f : ClickFetch) (e : Resident), FetchUnit.ofTurn turn = .click i →
      p.loader.clickFetches[i] = some f → f.kind ≠ .starting → f.done + 1 = f.words → r.clicks[i] = some e →
      let word := s.mem.readWord (f.base + 4 * f.done)
      let half (a b : Byte) : Halfword := match s.order with | .leastFirst => b ++ a | .mostFirst => a ++ b
      let old := (p.click.sounds[i]).samples
      let told : Notice := if f.kind = .refresh then p.handed (.recordRefreshed (.click i) .click i.val) else p.notice
      ∃ samples, exec .fetchComplete s = .next { s with part := { p.engineGranted .sceneLoader with
          notice := told
          click := { p.click with sounds := p.click.sounds.set i { samples := samples, length := f.length } }
          loader := { p.loader with turn := turn + 1, clickFetches := p.loader.clickFetches.set i none }
          watch := { p.watch with residents := { r with clicks := r.clicks.set i (some (current e)) } } } } ∧
        samples.getD (2 * f.done) 0 = half (word.getD 0 0) (word.getD 1 0) ∧
        (f.length % 2 = 0 → samples.getD (2 * f.done + 1) 0 = half (word.getD 2 0) (word.getD 3 0)) ∧
        ∀ k, k < 2 * f.done → samples.getD k 0 = old.getD k 0) ∧
    ∀ f : ShadowFetch, FetchUnit.ofTurn turn = .shadow → p.loader.fetch = some f → f.also = false →
      let bytes := f.bytes ++ s.mem.readWord (f.base + f.bytes.length)
      let num (k : Nat) := (bytes.getD k 0).toNat
      let scene := parseScene f.scene bytes
      let song := parseSong s.order f.song bytes
      let completes (q : Part) : Prop := exec .fetchComplete s = .next { s with part := q }
      let goesOn (q : Part) : Prop := exec .engineWordAccess s = .next { s with part := q }
      let after (loader : Loader) (residents : ResidentSet) : Part := { p.engineGranted .sceneLoader with
        loader := { loader with turn := turn + 1 }, watch := { p.watch with residents := residents } }
      let read (e : Option Resident) : Option Resident :=
        e.map fun e => if e.state = .refreshing then current e else e
      let unsettled (e : Option Resident) : Prop := ∀ x n, e = some x → x.state ≠ .settling n
      let freed : Loader := { p.loader with
        owner := none, shadowSong := none, shadowScene := none, ready := false, fetch := none }
      let bare (residents : ResidentSet) : ResidentSet := { residents with shadowSong := none, shadowScene := none }
      let waiting (slot : Fin 32) (q : Part) : Part := { q with
        cues := { p.cues with
          arms := p.cues.arms.map fun b => if b.slot = slot then { b with working := false } else b
          writes := [{ slot := slot, words := [.state .waiting], result := false, notice := false }] }
        watch := { q.watch with owners := p.watch.owners.set slot (.engine .waiting) } }
      let sceneEnds := f.stage = .sceneRecord ∧ sceneCheck f.base bytes = none ∧
        bytes.length = 8 + 16 * num 0 + 4 * num 1
      let songEnds := f.stage = .songRecord ∧ songCheck f.base f.start bytes = none ∧ bytes.length = 16 + 16 * num 0
      (sceneEnds → p.loader.ready = false → unsettled r.shadowSong → unsettled r.shadowScene →
        let q := after { p.loader with shadowScene := some scene, fetch := none, ready := true }
          { r with shadowSong := read r.shadowSong, shadowScene := read r.shadowScene }
        (∀ number, p.loader.owner = some (.lookahead number) → p.loader.late = none → completes q) ∧
        ∀ slot, p.loader.owner = some (.cue slot) → p.cues.writes = [] → completes (waiting slot q)) ∧
      (∀ slot start sec, songEnds → f.songLoad = true → f.start = some start → song.sections[start]? = some sec →
        p.loader.owner = some (.cue slot) →
        (∀ number, sec.scene = some number → goesOn (after { p.loader with
          shadowSong := some song
          fetch := some { f with stage := .sceneIndex, scene := number, base := 0, bytes := [] } } r)) ∧
        (sec.scene = none → p.loader.ready = false → unsettled r.shadowSong → p.cues.writes = [] →
          completes (waiting slot (after { p.loader with shadowSong := some song, fetch := none, ready := true }
            { r with shadowSong := read r.shadowSong, shadowScene := none })))) ∧
      (∀ e, sceneEnds → p.loader.owner = some .refreshScene → r.shadowScene = some e → e.state = .refreshing →
        r.shadowSong = none → p.loader.late = none →
        ∃ x q, p.switchSends x (some scene) [] ∧
          x = { after { freed with activeScene := some scene } { bare r with activeScene := some (current e) } with
            flags := p.flags &&& BitVec.ofNat 8 (2 ^ scene.layers.length - 1)
            tracker := { p.tracker with fan := x.tracker.fan }
            voices := x.voices } ∧
          x.triggered q ∧
          completes { q with notice := q.handed (.recordRefreshed .activeScene .scene scene.number) }) ∧
      (∀ next e sec, songEnds → f.songLoad = false → p.loader.owner = some (.refreshSong next) →
        r.shadowSong = some e → e.state = .refreshing → r.shadowScene = none →
        let last := song.sections.length - 1
        let gone := song.sections.length ≤ p.pointer.sectionIndex
        let placed : SongPointer := if gone then { p.pointer with
          sectionIndex := last, pass := 1, bar := 1, beat := 1, vamp := false, leave := false } else p.pointer
        song.sections[placed.sectionIndex]? = some sec →
        let pointer : SongPointer := { placed with
          bar := min placed.bar sec.bars, beat := min placed.beat sec.beats
          startSection := min placed.startSection last
          countInBar := if placed.phase = .countIn then max 1 (min placed.countInBar song.countIn)
            else placed.countInBar
          entry := placed.entry.map fun x => { x with target := min x.target last } }
        let told : Notice := if gone then
          ({ p with pointer := placed } : Part).handed (.sectionEntered .refresh last 1) else p.notice
        let clock := p.timeline.clock
        let tempo := if clock = .parked then
          match song.sections[pointer.startSection]? with | none => p.timeline.tempo | some x => clampTempo x.startTempo
          else p.timeline.tempo
        let follows : Trigger :=
          if pointer.vamp then .toSection pointer.sectionIndex
          else if pointer.sectionIndex + 1 < song.sections.length then .toSection (pointer.sectionIndex + 1)
          else if song.loopLast then .toSection pointer.sectionIndex else .toEnd
        let gives := (clock = .playing ∨ clock = .paused) ∧ pointer.phase = .song ∧
          (pointer.leave = true ∨ sec.bars ≤ pointer.bar)
        let trigger := if gives then some follows else p.loader.trigger
        let fixed : Part := { after { freed with activeSong := some song, trigger := trigger }
            { bare r with activeSong := some (current e) } with
          pointer := pointer, timeline := { p.timeline with tempo := tempo } }
        let x : Part := { fixed with notice := told.handOver {
          event := .recordRefreshed .activeSong .song song.number, stamp := fixed.stamp } }
        (∀ c, next = true → r.activeScene = some c →
          let again : Resident := { c with state := .refreshing, refetch := 0 }
          completes { x with
            loader := { x.loader with owner := some .refreshScene, fetch := some (sceneAgainFetch c) }
            watch := { x.watch with residents := { x.watch.residents with
              activeScene := some again, shadowScene := some again } } }) ∧
        (next = false ∨ r.activeScene = none → p.loader.late = none → ∃ q, x.triggered q ∧ completes q)) ∧
      ∀ outcome,
        let place (index number : Nat) := fieldValue s.order (s.mem.readWord (index + 4 * number))
        let nowhere (at_ header : Nat) := at_ = 0 ∨ at_ % 4 ≠ 0 ∨ 0x3FFFF < at_ + header - 1
        let first := bytes.length = 4
        let setups := (bytes.length - (8 + 16 * num 0)) / 4
        let code (j : Nat) := num (8 + 16 * num 0 + 4 * j + 1)
        let badCounts := num 0 = 0 ∨ 16 < num 0 ∨ 0x3FFFF < f.base + (16 + 16 * num 0) - 1
        (f.stage = .songIndex ∧ nowhere (place p.layout.songIndex f.song) 16 ∧ outcome = .badSong) ∨
          (f.stage = .songRecord ∧ first ∧ badCounts ∧ outcome = .badSong) ∨
          (∃ start, f.stage = .songRecord ∧ first ∧ ¬badCounts ∧ f.start = some start ∧ num 0 ≤ start ∧
            outcome = .badParam) ∨
          (f.stage = .songRecord ∧ 16 < bytes.length ∧ bytes.length % 16 = 4 ∧
            num (bytes.length - 2) ∉ [1, 2, 3, 4, 6] ∧ outcome = .badSong) ∨
          (f.stage = .sceneIndex ∧ nowhere (place p.layout.sceneIndex f.scene) 8 ∧ outcome = .badScene) ∨
          (f.stage = .sceneRecord ∧ first ∧ (num 0 = 0 ∨ 8 < num 0 ∨ 32 < num 1 ∨
            0x3FFFF < f.base + (8 + 16 * num 0 + 4 * num 1) - 1) ∧ outcome = .badScene) ∨
          (f.stage = .sceneRecord ∧ 8 + 16 * num 0 < bytes.length ∧ ¬first ∧ (2 < num (bytes.length - 3) ∨
            32 < ((List.range setups).map fun j => if code j = 1 then 2 else 1).sum) ∧ outcome = .badScene) →
        (∀ a, p.loader.owner = some (.cue a.slot) → p.cues.arms.find? (fun b => b.slot == a.slot) = some a →
          p.cues.writes = [] → p.loader.late = none →
          let ended := after freed (bare r)
          ∃ q, goesOn q ∧ Part.triggered { ended with
            cues := { p.cues with
              arms := p.cues.arms.filter fun b => b.slot != a.slot
              writes := [{
                slot := a.slot
                words := [.answer outcome a.missed 0, .position p.stamp, .positionEnd p.stamp, .frameCount p.stamp,
                  .state .refused]
                result := true, notice := a.notify }] }
            watch := { ended.watch with owners := p.watch.owners.set a.slot .host } } q) ∧
        (∀ number, p.loader.owner = some (.lookahead number) →
          goesOn { after { freed with trigger := none, late := none } (bare r) with
            notice := p.handed (.sceneBad number .invalid) }) ∧
        (∀ next e, p.loader.owner = some (.refreshSong next) → r.activeSong = some e → e.state ≠ .stale →
          p.loader.late = none → ∃ q, goesOn q ∧
            Part.triggered { after freed { bare r with activeSong := some (stale e) } with
              notice := p.handed (.recordStale .activeSong e.kind e.number .invalid) } q) ∧
        ∀ e, p.loader.owner = some .refreshScene → r.activeScene = some e → e.state ≠ .stale →
          p.loader.late = none → ∃ q, goesOn q ∧
            Part.triggered { after freed { bare r with activeScene := some (stale e) } with
              notice := p.handed (.recordStale .activeScene e.kind e.number .invalid) } q

/-- The moment of a switch (R94, R122 to R128, R131, R132, R144). A section's: with room for the batch the shadow
scene becomes active, its setup is admitted in list order and behind it the sustain-downs of the pedal carry, the
flags are cleared, the shadow is free, SwitchLate and SceneSwitched are journaled. A cue's: besides, a SongLoad's
song is swapped in or a SectionJump's target taken by the timeline, SongChanged or SceneSwitched journaled, the slot
host-owned again and the result Ok, or OkLate with the boundaries missed. Without room either switch is held with
the hold limit. With no switch to make the command changes nothing (log 2). The place of SwitchLate before
SceneSwitched and SongChanged (log 17), the stamp of a result after the cue's effect (log 18), the Start byte still
to come (log 20), a jump's fields (log 24, log 25, log 42) and the layer flags of SongChanged under Keep (log 44)
are the model's choices. -/
def Obligations.SectionSwitchIsMadeOrHeld : Prop :=
  ∀ (s : State) (sc : Scene) (target : Nat) (cause : SectionCause) (atOnce : Bool) (announced : Option Nat),
    let p := s.part
    let late : LateSwitch :=
      { target := target, scene := sc.number, cause := cause, waiting := false, atOnce := atOnce
        announced := announced }
    let run (part : Part) : Prop := exec .sceneSwitch s = .next { s with part := part }
    let holding (cause : HeldCause) : Part := { p with loader := { p.loader with
      late := none, held := some { cause := cause, countdown := p.loader.holdLimit } } }
    (p.loader.late = none → p.cues.arms = [] → run p) ∧
    (p.loader.late = some late → atOnce = true ∨ p.clockRuns = false → p.loader.ready = true →
      p.loader.owner = some (.lookahead sc.number) → p.loader.shadowScene = some sc → p.loader.shadowSong = none →
      (p.voices.batchFits sc.setup = false → run (holding (.entry target sc.number cause announced))) ∧
      (p.voices.batchFits sc.setup = true → p.loader.trigger = none →
        ∃ q, run q ∧ p.sectionMade q sc target cause announced p.notice ∧ p.switchSends q (some sc) sc.setup)) ∧
    ∀ (a : ArmedCue) (incoming : Option Scene),
      let setup := match incoming with | none => [] | some scene => scene.setup
      p.cues.arms = [a] → a.due = true → a.working = false → p.cues.writes = [] → p.loader.late = none →
      p.loader.held = none → p.loader.owner = some (.cue a.slot) → p.loader.shadowScene = incoming →
      (p.voices.batchFits setup = false → a.cue.sceneChanging = true →
        (∀ place, a.cue = .sectionJump place → place < p.sectionCount) → run (holding (.cue a.slot))) ∧
      (p.voices.batchFits setup = true → p.cueFits a incoming →
        ∃ q, run q ∧ p.cueMade q a incoming (if 0 < a.missed then .okLate else .ok) 0 p.notice ∧
          p.switchSends q incoming setup)

/-- The words that end a result and a journal entry (R148, R177, R182, R183, R185), in every engine state: the
slot's state byte, with CueNotice where the cue asked for it; the written-count word, one higher, with JournalLevel
where the fill has reached the threshold, and with the Gap entry that the room so made lets in. A part that is
Stopping is Stopped where nothing is left. The count of words already written is the model's own field (log 31).
That the drain's end is tested in these acts is its reading (log 23). -/
def Obligations.FinishedWritesAreReported : Prop :=
  ∀ s : State,
    let p := s.part
    let number (n : Word) : List Byte :=
      let b := [n.setWidth 8, (n >>> 8).setWidth 8, (n >>> 16).setWidth 8, (n >>> 24).setWidth 8]
      match s.order with | .leastFirst => b | .mostFirst => b.reverse
    (∀ (item : WriteItem) (rest : List WriteItem) (state : BoardState), p.arbiter.rotation = .cueUnit →
      p.cues.take = none → p.cues.writes = item :: rest → item.words = [.state state] → item.result = true →
      ∃ y, exec .cueResultWritten s = .next { s with
        mem := s.mem.writeBytes (p.layout.cueBoard + 32 * item.slot.val) [BitVec.ofNat 8 state.code, 0, 0, 0]
        part := y } ∧
        Part.drains { p.engineGranted .cueUnit with
          cues := { p.cues with writes := rest }
          irq := { p.irq with status := if item.notice then p.irq.status ||| 2 else p.irq.status } } y) ∧
    (∀ (c : JournalConfig) (e : JournalEntry) (rest : List JournalEntry), p.arbiter.rotation = .noticeUnit →
      p.notice.config = some c → p.notice.headPending = false → p.notice.accepted = e :: rest →
      p.notice.wordsDone = 4 →
      let left : Notice := { p.notice with written := p.notice.written + 1, accepted := rest, wordsDone := 0 }
      let fill := (left.written - left.taken).toNat
      let gap : JournalEntry := { event := .gap left.unwritten, stamp := p.stamp }
      let room := fill + rest.length < c.size ∧ rest.length < 16
      let told (n : Notice) : Part := { p.engineGranted .noticeUnit with
        notice := n
        irq := { p.irq with status := if c.threshold ≤ fill then p.irq.status ||| 1 else p.irq.status } }
      ∃ y, exec .journalEntryWritten s = .next { s with
        mem := s.mem.writeBytes c.base (number (p.notice.written + 1))
        part := y } ∧
        (0 < left.unwritten ∧ room →
          (told { left with accepted := rest ++ [gap], unwritten := 0, overflow := false }).drains y) ∧
        (¬(0 < left.unwritten ∧ room) → (told left).drains y))

/-- The journal's room (R161, R182, R184): an event is accepted while the fill with the accepted list is below the
size and the list below 16, and counted as unwritten otherwise. A host write of half of the taken-count word moves
the taken count by the three cases of R184, and room lets a Gap entry in. -/
def Obligations.JournalRoomFollowsTheCounts : Prop :=
  ∀ (address : BitVec 17) (d : Halfword) (s : State) (c : JournalConfig) (event : JournalEvent),
    s.mem.wf = true → s.part.notice.config = some c →
    let p := s.part
    let n := p.notice
    let room (n : Notice) : Prop := (n.written - n.taken).toNat + n.accepted.length < c.size ∧ n.accepted.length < 16
    let copy := p.watch.takenCopy
    let lower : Word := match s.order with
      | .leastFirst => copy.extractLsb' 16 16 ++ d
      | .mostFirst => d ++ copy.extractLsb' 0 16
    let upper : Word := match s.order with
      | .leastFirst => d ++ copy.extractLsb' 0 16
      | .mostFirst => copy.extractLsb' 16 16 ++ d
    let moved (value : Word) : Notice := { n with taken :=
      if (value - n.taken).toNat ≤ (n.written - n.taken).toNat then value
      else if 2 ^ 31 ≤ (value - n.taken).toNat then n.taken
      else n.written }
    let gap : JournalEntry := { event := .gap n.unwritten, stamp := p.stamp }
    let written (value : Word) : Prop := ∃ m, s.mem.stored m s.order address d ∧
      (0 < n.unwritten ∧ room (moved value) →
        exec (.hostWrite address d) s = .next { s with mem := m, part := { p.hostGranted with
          watch := { p.watch with takenCopy := value }
          notice := { moved value with accepted := n.accepted ++ [gap], unwritten := 0, overflow := false } } }) ∧
      (¬(0 < n.unwritten ∧ room (moved value)) →
        exec (.hostWrite address d) s = .next { s with mem := m, part := { p.hostGranted with
          watch := { p.watch with takenCopy := value }
          notice := moved value } })
    (room n → p.handed event = { n with accepted := n.accepted ++ [{ event := event, stamp := p.stamp }] }) ∧
    (¬room n → p.handed event =
      { n with unwritten := min (n.unwritten + 1) (2 ^ 32 - 1), overflow := true }) ∧
    (s.hostFree → p.engine = .running → 0x200 ≤ 2 * address.toNat →
      (2 * address.toNat < p.layout.cueBoard ∨ p.layout.cueBoard + 1024 ≤ 2 * address.toNat) →
      (2 * address.toNat = c.base + 4 → written lower) ∧ (2 * address.toNat = c.base + 6 → written upper))
end

