-- ==== Sys2Proof/Laws/Router.lean ====
section
/-! SUPPORT. What the layer router answers: the merged lists of destinations and the compares of the zone tests (5.2 to
5.5). -/

namespace Sys2Proof.Machine

/-- Merging from a list on: what is not in it yet joins it, once each. -/
theorem mergeDests_from : ∀ (l out : List Dest),
    l.foldl (fun out d => if out.contains d then out else out ++ [d]) out =
      out ++ (l.filter fun d => !out.contains d).eraseDups
  | [], out => by simp
  | a :: rest, out => by
    rw [List.foldl_cons, mergeDests_from rest]
    by_cases h : out.contains a = true
    · rw [if_pos h, List.filter_cons_of_neg (by rw [h]; decide)]
    · rw [if_neg h, List.filter_cons_of_pos (by rw [Bool.not_eq_true'] ; simpa using h), List.eraseDups_cons,
        List.append_assoc, List.singleton_append, List.filter_filter]
      congr 4
      funext d
      by_cases hd : d = a
      · subst hd; simp
      · simp [hd]

/-- A merged list holds each destination once, in order of first appearance (R74). -/
theorem mergeDests_eq (l : List Dest) : mergeDests l = l.eraseDups := by
  unfold mergeDests
  rw [mergeDests_from]
  simp

/-- What a zone test tests (R68). -/
theorem ZoneTest.passes_iff (t : ZoneTest) (key velocity : Nat) :
    t.passes key velocity = true ↔ match t.compare with
      | .any => True
      | .equal => (match t.subject with | .key => key | .velocity => velocity) = t.value
      | .below => (match t.subject with | .key => key | .velocity => velocity) < t.value
      | .atOrAbove => t.value ≤ (match t.subject with | .key => key | .velocity => velocity) := by
  obtain ⟨s, c, v⟩ := t
  cases c <;> cases s <;> simp [ZoneTest.passes]

end Sys2Proof.Machine
end

