-- ==== Sys2Proof/Laws/State.lean ====
section
/-! SUPPORT. The simple updates of the part, field by field: what each writes, and that it keeps every other field. -/

namespace Sys2Proof.Machine

variable (s : State) (p : Part)

@[simp] theorem State.withPart_fields (f : Part → Part) :
    (s.withPart f).part = f s.part ∧ (s.withPart f).pending = s.pending ∧ (s.withPart f).mem = s.mem ∧
      (s.withPart f).order = s.order ∧ (s.withPart f).hostData = s.hostData ∧
      (s.withPart f).freeCount = s.freeCount := ⟨rfl, rfl, rfl, rfl, rfl, rfl⟩

@[simp] theorem Part.setPointer_fields (pointer : SongPointer) :
    (p.setPointer pointer).pointer = pointer ∧ (p.setPointer pointer).engine = p.engine ∧
      (p.setPointer pointer).startError = p.startError ∧ (p.setPointer pointer).starting = p.starting ∧
      (p.setPointer pointer).layout = p.layout ∧ (p.setPointer pointer).mail = p.mail ∧
      (p.setPointer pointer).irq = p.irq ∧ (p.setPointer pointer).timeline = p.timeline ∧
      (p.setPointer pointer).click = p.click ∧ (p.setPointer pointer).tdm = p.tdm ∧
      (p.setPointer pointer).players = p.players ∧ (p.setPointer pointer).flags = p.flags ∧
      (p.setPointer pointer).tracker = p.tracker ∧ (p.setPointer pointer).voices = p.voices ∧
      (p.setPointer pointer).loader = p.loader ∧ (p.setPointer pointer).cues = p.cues ∧
      (p.setPointer pointer).watch = p.watch ∧ (p.setPointer pointer).arbiter = p.arbiter ∧
      (p.setPointer pointer).notice = p.notice :=
    ⟨rfl, rfl, rfl, rfl, rfl, rfl, rfl, rfl, rfl, rfl, rfl, rfl, rfl, rfl, rfl, rfl, rfl, rfl, rfl⟩

@[simp] theorem Part.setTempo_fields (tempo : Nat) :
    (p.setTempo tempo).timeline = { p.timeline with tempo := tempo } ∧ (p.setTempo tempo).engine = p.engine ∧
      (p.setTempo tempo).startError = p.startError ∧ (p.setTempo tempo).starting = p.starting ∧
      (p.setTempo tempo).layout = p.layout ∧ (p.setTempo tempo).mail = p.mail ∧ (p.setTempo tempo).irq = p.irq ∧
      (p.setTempo tempo).pointer = p.pointer ∧ (p.setTempo tempo).click = p.click ∧
      (p.setTempo tempo).tdm = p.tdm ∧ (p.setTempo tempo).players = p.players ∧
      (p.setTempo tempo).flags = p.flags ∧ (p.setTempo tempo).tracker = p.tracker ∧
      (p.setTempo tempo).voices = p.voices ∧ (p.setTempo tempo).loader = p.loader ∧
      (p.setTempo tempo).cues = p.cues ∧ (p.setTempo tempo).watch = p.watch ∧
      (p.setTempo tempo).arbiter = p.arbiter ∧ (p.setTempo tempo).notice = p.notice :=
    ⟨rfl, rfl, rfl, rfl, rfl, rfl, rfl, rfl, rfl, rfl, rfl, rfl, rfl, rfl, rfl, rfl, rfl, rfl, rfl⟩

@[simp] theorem Part.setAcc_fields (acc : Nat) (beatOpen : Bool) :
    (p.setAcc acc beatOpen).timeline = { p.timeline with acc := acc, beatOpen := beatOpen } ∧
      (p.setAcc acc beatOpen).engine = p.engine ∧ (p.setAcc acc beatOpen).startError = p.startError ∧
      (p.setAcc acc beatOpen).starting = p.starting ∧ (p.setAcc acc beatOpen).layout = p.layout ∧
      (p.setAcc acc beatOpen).mail = p.mail ∧ (p.setAcc acc beatOpen).irq = p.irq ∧
      (p.setAcc acc beatOpen).pointer = p.pointer ∧ (p.setAcc acc beatOpen).click = p.click ∧
      (p.setAcc acc beatOpen).tdm = p.tdm ∧ (p.setAcc acc beatOpen).players = p.players ∧
      (p.setAcc acc beatOpen).flags = p.flags ∧ (p.setAcc acc beatOpen).tracker = p.tracker ∧
      (p.setAcc acc beatOpen).voices = p.voices ∧ (p.setAcc acc beatOpen).loader = p.loader ∧
      (p.setAcc acc beatOpen).cues = p.cues ∧ (p.setAcc acc beatOpen).watch = p.watch ∧
      (p.setAcc acc beatOpen).arbiter = p.arbiter ∧ (p.setAcc acc beatOpen).notice = p.notice :=
    ⟨rfl, rfl, rfl, rfl, rfl, rfl, rfl, rfl, rfl, rfl, rfl, rfl, rfl, rfl, rfl, rfl, rfl, rfl, rfl⟩

@[simp] theorem Part.setSource_fields (source : ClockSource) :
    (p.setSource source).timeline = { p.timeline with source := source } ∧
      (p.setSource source).engine = p.engine ∧ (p.setSource source).startError = p.startError ∧
      (p.setSource source).starting = p.starting ∧ (p.setSource source).layout = p.layout ∧
      (p.setSource source).mail = p.mail ∧ (p.setSource source).irq = p.irq ∧
      (p.setSource source).pointer = p.pointer ∧ (p.setSource source).click = p.click ∧
      (p.setSource source).tdm = p.tdm ∧ (p.setSource source).players = p.players ∧
      (p.setSource source).flags = p.flags ∧ (p.setSource source).tracker = p.tracker ∧
      (p.setSource source).voices = p.voices ∧ (p.setSource source).loader = p.loader ∧
      (p.setSource source).cues = p.cues ∧ (p.setSource source).watch = p.watch ∧
      (p.setSource source).arbiter = p.arbiter ∧ (p.setSource source).notice = p.notice :=
    ⟨rfl, rfl, rfl, rfl, rfl, rfl, rfl, rfl, rfl, rfl, rfl, rfl, rfl, rfl, rfl, rfl, rfl, rfl, rfl⟩

@[simp] theorem Part.setMonitor_fields (monitor : Monitor) :
    (p.setMonitor monitor).timeline = { p.timeline with monitor := monitor } ∧
      (p.setMonitor monitor).engine = p.engine ∧ (p.setMonitor monitor).startError = p.startError ∧
      (p.setMonitor monitor).starting = p.starting ∧ (p.setMonitor monitor).layout = p.layout ∧
      (p.setMonitor monitor).mail = p.mail ∧ (p.setMonitor monitor).irq = p.irq ∧
      (p.setMonitor monitor).pointer = p.pointer ∧ (p.setMonitor monitor).click = p.click ∧
      (p.setMonitor monitor).tdm = p.tdm ∧ (p.setMonitor monitor).players = p.players ∧
      (p.setMonitor monitor).flags = p.flags ∧ (p.setMonitor monitor).tracker = p.tracker ∧
      (p.setMonitor monitor).voices = p.voices ∧ (p.setMonitor monitor).loader = p.loader ∧
      (p.setMonitor monitor).cues = p.cues ∧ (p.setMonitor monitor).watch = p.watch ∧
      (p.setMonitor monitor).arbiter = p.arbiter ∧ (p.setMonitor monitor).notice = p.notice :=
    ⟨rfl, rfl, rfl, rfl, rfl, rfl, rfl, rfl, rfl, rfl, rfl, rfl, rfl, rfl, rfl, rfl, rfl, rfl, rfl⟩

@[simp] theorem Part.recordTap_fields (intervals : List Nat) :
    
      (p.recordTap intervals).timeline = { p.timeline with lastTap := some p.timeline.frame, intervals := intervals } ∧
      (p.recordTap intervals).engine = p.engine ∧ (p.recordTap intervals).startError = p.startError ∧
      (p.recordTap intervals).starting = p.starting ∧ (p.recordTap intervals).layout = p.layout ∧
      (p.recordTap intervals).mail = p.mail ∧ (p.recordTap intervals).irq = p.irq ∧
      (p.recordTap intervals).pointer = p.pointer ∧ (p.recordTap intervals).click = p.click ∧
      (p.recordTap intervals).tdm = p.tdm ∧ (p.recordTap intervals).players = p.players ∧
      (p.recordTap intervals).flags = p.flags ∧ (p.recordTap intervals).tracker = p.tracker ∧
      (p.recordTap intervals).voices = p.voices ∧ (p.recordTap intervals).loader = p.loader ∧
      (p.recordTap intervals).cues = p.cues ∧ (p.recordTap intervals).watch = p.watch ∧
      (p.recordTap intervals).arbiter = p.arbiter ∧ (p.recordTap intervals).notice = p.notice :=
    ⟨rfl, rfl, rfl, rfl, rfl, rfl, rfl, rfl, rfl, rfl, rfl, rfl, rfl, rfl, rfl, rfl, rfl, rfl, rfl⟩

@[simp] theorem Part.setTrigger_fields (trigger : Option Trigger) :
    (p.setTrigger trigger).loader = { p.loader with trigger := trigger } ∧
      (p.setTrigger trigger).engine = p.engine ∧ (p.setTrigger trigger).startError = p.startError ∧
      (p.setTrigger trigger).starting = p.starting ∧ (p.setTrigger trigger).layout = p.layout ∧
      (p.setTrigger trigger).mail = p.mail ∧ (p.setTrigger trigger).irq = p.irq ∧
      (p.setTrigger trigger).timeline = p.timeline ∧ (p.setTrigger trigger).pointer = p.pointer ∧
      (p.setTrigger trigger).click = p.click ∧ (p.setTrigger trigger).tdm = p.tdm ∧
      (p.setTrigger trigger).players = p.players ∧ (p.setTrigger trigger).flags = p.flags ∧
      (p.setTrigger trigger).tracker = p.tracker ∧ (p.setTrigger trigger).voices = p.voices ∧
      (p.setTrigger trigger).cues = p.cues ∧ (p.setTrigger trigger).watch = p.watch ∧
      (p.setTrigger trigger).arbiter = p.arbiter ∧ (p.setTrigger trigger).notice = p.notice :=
    ⟨rfl, rfl, rfl, rfl, rfl, rfl, rfl, rfl, rfl, rfl, rfl, rfl, rfl, rfl, rfl, rfl, rfl, rfl, rfl⟩

@[simp] theorem Part.setLate_fields (late : Option LateSwitch) :
    (p.setLate late).loader = { p.loader with late := late } ∧ (p.setLate late).engine = p.engine ∧
      (p.setLate late).startError = p.startError ∧ (p.setLate late).starting = p.starting ∧
      (p.setLate late).layout = p.layout ∧ (p.setLate late).mail = p.mail ∧ (p.setLate late).irq = p.irq ∧
      (p.setLate late).timeline = p.timeline ∧ (p.setLate late).pointer = p.pointer ∧
      (p.setLate late).click = p.click ∧ (p.setLate late).tdm = p.tdm ∧ (p.setLate late).players = p.players ∧
      (p.setLate late).flags = p.flags ∧ (p.setLate late).tracker = p.tracker ∧
      (p.setLate late).voices = p.voices ∧ (p.setLate late).cues = p.cues ∧ (p.setLate late).watch = p.watch ∧
      (p.setLate late).arbiter = p.arbiter ∧ (p.setLate late).notice = p.notice :=
    ⟨rfl, rfl, rfl, rfl, rfl, rfl, rfl, rfl, rfl, rfl, rfl, rfl, rfl, rfl, rfl, rfl, rfl, rfl, rfl⟩

@[simp] theorem Part.setHeld_fields (held : Option HeldSwitch) :
    (p.setHeld held).loader = { p.loader with held := held } ∧ (p.setHeld held).engine = p.engine ∧
      (p.setHeld held).startError = p.startError ∧ (p.setHeld held).starting = p.starting ∧
      (p.setHeld held).layout = p.layout ∧ (p.setHeld held).mail = p.mail ∧ (p.setHeld held).irq = p.irq ∧
      (p.setHeld held).timeline = p.timeline ∧ (p.setHeld held).pointer = p.pointer ∧
      (p.setHeld held).click = p.click ∧ (p.setHeld held).tdm = p.tdm ∧ (p.setHeld held).players = p.players ∧
      (p.setHeld held).flags = p.flags ∧ (p.setHeld held).tracker = p.tracker ∧
      (p.setHeld held).voices = p.voices ∧ (p.setHeld held).cues = p.cues ∧ (p.setHeld held).watch = p.watch ∧
      (p.setHeld held).arbiter = p.arbiter ∧ (p.setHeld held).notice = p.notice :=
    ⟨rfl, rfl, rfl, rfl, rfl, rfl, rfl, rfl, rfl, rfl, rfl, rfl, rfl, rfl, rfl, rfl, rfl, rfl, rfl⟩

@[simp] theorem Part.setFetch_fields (fetch : Option ShadowFetch) :
    (p.setFetch fetch).loader = { p.loader with fetch := fetch } ∧ (p.setFetch fetch).engine = p.engine ∧
      (p.setFetch fetch).startError = p.startError ∧ (p.setFetch fetch).starting = p.starting ∧
      (p.setFetch fetch).layout = p.layout ∧ (p.setFetch fetch).mail = p.mail ∧ (p.setFetch fetch).irq = p.irq ∧
      (p.setFetch fetch).timeline = p.timeline ∧ (p.setFetch fetch).pointer = p.pointer ∧
      (p.setFetch fetch).click = p.click ∧ (p.setFetch fetch).tdm = p.tdm ∧
      (p.setFetch fetch).players = p.players ∧ (p.setFetch fetch).flags = p.flags ∧
      (p.setFetch fetch).tracker = p.tracker ∧ (p.setFetch fetch).voices = p.voices ∧
      (p.setFetch fetch).cues = p.cues ∧ (p.setFetch fetch).watch = p.watch ∧
      (p.setFetch fetch).arbiter = p.arbiter ∧ (p.setFetch fetch).notice = p.notice :=
    ⟨rfl, rfl, rfl, rfl, rfl, rfl, rfl, rfl, rfl, rfl, rfl, rfl, rfl, rfl, rfl, rfl, rfl, rfl, rfl⟩

@[simp] theorem Part.setClickFetch_fields (sound : Fin 4) (fetch : Option ClickFetch) :
    
      (p.setClickFetch sound fetch).loader = { p.loader with clickFetches := p.loader.clickFetches.set sound fetch } ∧
      (p.setClickFetch sound fetch).engine = p.engine ∧
      (p.setClickFetch sound fetch).startError = p.startError ∧
      (p.setClickFetch sound fetch).starting = p.starting ∧ (p.setClickFetch sound fetch).layout = p.layout ∧
      (p.setClickFetch sound fetch).mail = p.mail ∧ (p.setClickFetch sound fetch).irq = p.irq ∧
      (p.setClickFetch sound fetch).timeline = p.timeline ∧ (p.setClickFetch sound fetch).pointer = p.pointer ∧
      (p.setClickFetch sound fetch).click = p.click ∧ (p.setClickFetch sound fetch).tdm = p.tdm ∧
      (p.setClickFetch sound fetch).players = p.players ∧ (p.setClickFetch sound fetch).flags = p.flags ∧
      (p.setClickFetch sound fetch).tracker = p.tracker ∧ (p.setClickFetch sound fetch).voices = p.voices ∧
      (p.setClickFetch sound fetch).cues = p.cues ∧ (p.setClickFetch sound fetch).watch = p.watch ∧
      (p.setClickFetch sound fetch).arbiter = p.arbiter ∧ (p.setClickFetch sound fetch).notice = p.notice :=
    ⟨rfl, rfl, rfl, rfl, rfl, rfl, rfl, rfl, rfl, rfl, rfl, rfl, rfl, rfl, rfl, rfl, rfl, rfl, rfl⟩

@[simp] theorem Part.passTurn_fields (turn : Fin 5) :
    (p.passTurn turn).loader = { p.loader with turn := turn + 1 } ∧ (p.passTurn turn).engine = p.engine ∧
      (p.passTurn turn).startError = p.startError ∧ (p.passTurn turn).starting = p.starting ∧
      (p.passTurn turn).layout = p.layout ∧ (p.passTurn turn).mail = p.mail ∧ (p.passTurn turn).irq = p.irq ∧
      (p.passTurn turn).timeline = p.timeline ∧ (p.passTurn turn).pointer = p.pointer ∧
      (p.passTurn turn).click = p.click ∧ (p.passTurn turn).tdm = p.tdm ∧
      (p.passTurn turn).players = p.players ∧ (p.passTurn turn).flags = p.flags ∧
      (p.passTurn turn).tracker = p.tracker ∧ (p.passTurn turn).voices = p.voices ∧
      (p.passTurn turn).cues = p.cues ∧ (p.passTurn turn).watch = p.watch ∧
      (p.passTurn turn).arbiter = p.arbiter ∧ (p.passTurn turn).notice = p.notice :=
    ⟨rfl, rfl, rfl, rfl, rfl, rfl, rfl, rfl, rfl, rfl, rfl, rfl, rfl, rfl, rfl, rfl, rfl, rfl, rfl⟩

@[simp] theorem Part.ownShadow_fields (owner : ShadowOwner) (fetch : Option ShadowFetch) :
    (p.ownShadow owner fetch).engine = p.engine ∧ (p.ownShadow owner fetch).startError = p.startError ∧
      (p.ownShadow owner fetch).starting = p.starting ∧ (p.ownShadow owner fetch).layout = p.layout ∧
      (p.ownShadow owner fetch).mail = p.mail ∧ (p.ownShadow owner fetch).irq = p.irq ∧
      (p.ownShadow owner fetch).timeline = p.timeline ∧ (p.ownShadow owner fetch).pointer = p.pointer ∧
      (p.ownShadow owner fetch).click = p.click ∧ (p.ownShadow owner fetch).tdm = p.tdm ∧
      (p.ownShadow owner fetch).players = p.players ∧ (p.ownShadow owner fetch).flags = p.flags ∧
      (p.ownShadow owner fetch).tracker = p.tracker ∧ (p.ownShadow owner fetch).voices = p.voices ∧
      (p.ownShadow owner fetch).cues = p.cues ∧ (p.ownShadow owner fetch).watch = p.watch ∧
      (p.ownShadow owner fetch).arbiter = p.arbiter ∧ (p.ownShadow owner fetch).notice = p.notice :=
    ⟨rfl, rfl, rfl, rfl, rfl, rfl, rfl, rfl, rfl, rfl, rfl, rfl, rfl, rfl, rfl, rfl, rfl, rfl⟩

@[simp] theorem Part.putResident_fields (role : Role) (entry : Option Resident) :
    (p.putResident role entry).watch = { p.watch with residents := p.watch.residents.put role entry } ∧
      (p.putResident role entry).engine = p.engine ∧ (p.putResident role entry).startError = p.startError ∧
      (p.putResident role entry).starting = p.starting ∧ (p.putResident role entry).layout = p.layout ∧
      (p.putResident role entry).mail = p.mail ∧ (p.putResident role entry).irq = p.irq ∧
      (p.putResident role entry).timeline = p.timeline ∧ (p.putResident role entry).pointer = p.pointer ∧
      (p.putResident role entry).click = p.click ∧ (p.putResident role entry).tdm = p.tdm ∧
      (p.putResident role entry).players = p.players ∧ (p.putResident role entry).flags = p.flags ∧
      (p.putResident role entry).tracker = p.tracker ∧ (p.putResident role entry).voices = p.voices ∧
      (p.putResident role entry).loader = p.loader ∧ (p.putResident role entry).cues = p.cues ∧
      (p.putResident role entry).arbiter = p.arbiter ∧ (p.putResident role entry).notice = p.notice :=
    ⟨rfl, rfl, rfl, rfl, rfl, rfl, rfl, rfl, rfl, rfl, rfl, rfl, rfl, rfl, rfl, rfl, rfl, rfl, rfl⟩

@[simp] theorem Part.setResidentState_fields (role : Role) (state : ResidentState) :
    (p.setResidentState role state).engine = p.engine ∧
      (p.setResidentState role state).startError = p.startError ∧
      (p.setResidentState role state).starting = p.starting ∧
      (p.setResidentState role state).layout = p.layout ∧ (p.setResidentState role state).mail = p.mail ∧
      (p.setResidentState role state).irq = p.irq ∧ (p.setResidentState role state).timeline = p.timeline ∧
      (p.setResidentState role state).pointer = p.pointer ∧ (p.setResidentState role state).click = p.click ∧
      (p.setResidentState role state).tdm = p.tdm ∧ (p.setResidentState role state).players = p.players ∧
      (p.setResidentState role state).flags = p.flags ∧ (p.setResidentState role state).tracker = p.tracker ∧
      (p.setResidentState role state).voices = p.voices ∧ (p.setResidentState role state).loader = p.loader ∧
      (p.setResidentState role state).cues = p.cues ∧ (p.setResidentState role state).arbiter = p.arbiter ∧
      (p.setResidentState role state).notice = p.notice :=
    ⟨rfl, rfl, rfl, rfl, rfl, rfl, rfl, rfl, rfl, rfl, rfl, rfl, rfl, rfl, rfl, rfl, rfl, rfl⟩

@[simp] theorem Part.beginRefreshing_fields (role : Role) :
    (p.beginRefreshing role).engine = p.engine ∧ (p.beginRefreshing role).startError = p.startError ∧
      (p.beginRefreshing role).starting = p.starting ∧ (p.beginRefreshing role).layout = p.layout ∧
      (p.beginRefreshing role).mail = p.mail ∧ (p.beginRefreshing role).irq = p.irq ∧
      (p.beginRefreshing role).timeline = p.timeline ∧ (p.beginRefreshing role).pointer = p.pointer ∧
      (p.beginRefreshing role).click = p.click ∧ (p.beginRefreshing role).tdm = p.tdm ∧
      (p.beginRefreshing role).players = p.players ∧ (p.beginRefreshing role).flags = p.flags ∧
      (p.beginRefreshing role).tracker = p.tracker ∧ (p.beginRefreshing role).voices = p.voices ∧
      (p.beginRefreshing role).loader = p.loader ∧ (p.beginRefreshing role).cues = p.cues ∧
      (p.beginRefreshing role).arbiter = p.arbiter ∧ (p.beginRefreshing role).notice = p.notice :=
    ⟨rfl, rfl, rfl, rfl, rfl, rfl, rfl, rfl, rfl, rfl, rfl, rfl, rfl, rfl, rfl, rfl, rfl, rfl⟩

@[simp] theorem Part.makeCurrent_fields (role : Role) :
    (p.makeCurrent role).engine = p.engine ∧ (p.makeCurrent role).startError = p.startError ∧
      (p.makeCurrent role).starting = p.starting ∧ (p.makeCurrent role).layout = p.layout ∧
      (p.makeCurrent role).mail = p.mail ∧ (p.makeCurrent role).irq = p.irq ∧
      (p.makeCurrent role).timeline = p.timeline ∧ (p.makeCurrent role).pointer = p.pointer ∧
      (p.makeCurrent role).click = p.click ∧ (p.makeCurrent role).tdm = p.tdm ∧
      (p.makeCurrent role).players = p.players ∧ (p.makeCurrent role).flags = p.flags ∧
      (p.makeCurrent role).tracker = p.tracker ∧ (p.makeCurrent role).voices = p.voices ∧
      (p.makeCurrent role).loader = p.loader ∧ (p.makeCurrent role).cues = p.cues ∧
      (p.makeCurrent role).arbiter = p.arbiter ∧ (p.makeCurrent role).notice = p.notice :=
    ⟨rfl, rfl, rfl, rfl, rfl, rfl, rfl, rfl, rfl, rfl, rfl, rfl, rfl, rfl, rfl, rfl, rfl, rfl⟩

@[simp] theorem Part.setOwner_fields (slot : Fin 32) (owner : SlotOwner) :
    (p.setOwner slot owner).watch = { p.watch with owners := p.watch.owners.set slot owner } ∧
      (p.setOwner slot owner).engine = p.engine ∧ (p.setOwner slot owner).startError = p.startError ∧
      (p.setOwner slot owner).starting = p.starting ∧ (p.setOwner slot owner).layout = p.layout ∧
      (p.setOwner slot owner).mail = p.mail ∧ (p.setOwner slot owner).irq = p.irq ∧
      (p.setOwner slot owner).timeline = p.timeline ∧ (p.setOwner slot owner).pointer = p.pointer ∧
      (p.setOwner slot owner).click = p.click ∧ (p.setOwner slot owner).tdm = p.tdm ∧
      (p.setOwner slot owner).players = p.players ∧ (p.setOwner slot owner).flags = p.flags ∧
      (p.setOwner slot owner).tracker = p.tracker ∧ (p.setOwner slot owner).voices = p.voices ∧
      (p.setOwner slot owner).loader = p.loader ∧ (p.setOwner slot owner).cues = p.cues ∧
      (p.setOwner slot owner).arbiter = p.arbiter ∧ (p.setOwner slot owner).notice = p.notice :=
    ⟨rfl, rfl, rfl, rfl, rfl, rfl, rfl, rfl, rfl, rfl, rfl, rfl, rfl, rfl, rfl, rfl, rfl, rfl, rfl⟩

@[simp] theorem Part.mapArm_fields (slot : Fin 32) (f : ArmedCue → ArmedCue) :
    (p.mapArm slot f).engine = p.engine ∧ (p.mapArm slot f).startError = p.startError ∧
      (p.mapArm slot f).starting = p.starting ∧ (p.mapArm slot f).layout = p.layout ∧
      (p.mapArm slot f).mail = p.mail ∧ (p.mapArm slot f).irq = p.irq ∧
      (p.mapArm slot f).timeline = p.timeline ∧ (p.mapArm slot f).pointer = p.pointer ∧
      (p.mapArm slot f).click = p.click ∧ (p.mapArm slot f).tdm = p.tdm ∧
      (p.mapArm slot f).players = p.players ∧ (p.mapArm slot f).flags = p.flags ∧
      (p.mapArm slot f).tracker = p.tracker ∧ (p.mapArm slot f).voices = p.voices ∧
      (p.mapArm slot f).loader = p.loader ∧ (p.mapArm slot f).watch = p.watch ∧
      (p.mapArm slot f).arbiter = p.arbiter ∧ (p.mapArm slot f).notice = p.notice :=
    ⟨rfl, rfl, rfl, rfl, rfl, rfl, rfl, rfl, rfl, rfl, rfl, rfl, rfl, rfl, rfl, rfl, rfl, rfl⟩

@[simp] theorem Part.dropArm_fields (slot : Fin 32) :
    (p.dropArm slot).cues = { p.cues with arms := p.cues.arms.filter fun a => a.slot != slot } ∧
      (p.dropArm slot).engine = p.engine ∧ (p.dropArm slot).startError = p.startError ∧
      (p.dropArm slot).starting = p.starting ∧ (p.dropArm slot).layout = p.layout ∧
      (p.dropArm slot).mail = p.mail ∧ (p.dropArm slot).irq = p.irq ∧ (p.dropArm slot).timeline = p.timeline ∧
      (p.dropArm slot).pointer = p.pointer ∧ (p.dropArm slot).click = p.click ∧ (p.dropArm slot).tdm = p.tdm ∧
      (p.dropArm slot).players = p.players ∧ (p.dropArm slot).flags = p.flags ∧
      (p.dropArm slot).tracker = p.tracker ∧ (p.dropArm slot).voices = p.voices ∧
      (p.dropArm slot).loader = p.loader ∧ (p.dropArm slot).watch = p.watch ∧
      (p.dropArm slot).arbiter = p.arbiter ∧ (p.dropArm slot).notice = p.notice :=
    ⟨rfl, rfl, rfl, rfl, rfl, rfl, rfl, rfl, rfl, rfl, rfl, rfl, rfl, rfl, rfl, rfl, rfl, rfl, rfl⟩

@[simp] theorem Part.dropPosted_fields (slot : Fin 32) :
    (p.dropPosted slot).cues = { p.cues with posted := p.cues.posted.filter fun s => s != slot } ∧
      (p.dropPosted slot).engine = p.engine ∧ (p.dropPosted slot).startError = p.startError ∧
      (p.dropPosted slot).starting = p.starting ∧ (p.dropPosted slot).layout = p.layout ∧
      (p.dropPosted slot).mail = p.mail ∧ (p.dropPosted slot).irq = p.irq ∧
      (p.dropPosted slot).timeline = p.timeline ∧ (p.dropPosted slot).pointer = p.pointer ∧
      (p.dropPosted slot).click = p.click ∧ (p.dropPosted slot).tdm = p.tdm ∧
      (p.dropPosted slot).players = p.players ∧ (p.dropPosted slot).flags = p.flags ∧
      (p.dropPosted slot).tracker = p.tracker ∧ (p.dropPosted slot).voices = p.voices ∧
      (p.dropPosted slot).loader = p.loader ∧ (p.dropPosted slot).watch = p.watch ∧
      (p.dropPosted slot).arbiter = p.arbiter ∧ (p.dropPosted slot).notice = p.notice :=
    ⟨rfl, rfl, rfl, rfl, rfl, rfl, rfl, rfl, rfl, rfl, rfl, rfl, rfl, rfl, rfl, rfl, rfl, rfl, rfl⟩

@[simp] theorem Part.queueItem_fields (item : WriteItem) :
    (p.queueItem item).cues = { p.cues with writes := queueWrite item p.cues.writes } ∧
      (p.queueItem item).engine = p.engine ∧ (p.queueItem item).startError = p.startError ∧
      (p.queueItem item).starting = p.starting ∧ (p.queueItem item).layout = p.layout ∧
      (p.queueItem item).mail = p.mail ∧ (p.queueItem item).irq = p.irq ∧
      (p.queueItem item).timeline = p.timeline ∧ (p.queueItem item).pointer = p.pointer ∧
      (p.queueItem item).click = p.click ∧ (p.queueItem item).tdm = p.tdm ∧
      (p.queueItem item).players = p.players ∧ (p.queueItem item).flags = p.flags ∧
      (p.queueItem item).tracker = p.tracker ∧ (p.queueItem item).voices = p.voices ∧
      (p.queueItem item).loader = p.loader ∧ (p.queueItem item).watch = p.watch ∧
      (p.queueItem item).arbiter = p.arbiter ∧ (p.queueItem item).notice = p.notice :=
    ⟨rfl, rfl, rfl, rfl, rfl, rfl, rfl, rfl, rfl, rfl, rfl, rfl, rfl, rfl, rfl, rfl, rfl, rfl, rfl⟩

@[simp] theorem Part.queueState_fields (slot : Fin 32) (working : Bool) :
    (p.queueState slot working).engine = p.engine ∧ (p.queueState slot working).startError = p.startError ∧
      (p.queueState slot working).starting = p.starting ∧ (p.queueState slot working).layout = p.layout ∧
      (p.queueState slot working).mail = p.mail ∧ (p.queueState slot working).irq = p.irq ∧
      (p.queueState slot working).timeline = p.timeline ∧ (p.queueState slot working).pointer = p.pointer ∧
      (p.queueState slot working).click = p.click ∧ (p.queueState slot working).tdm = p.tdm ∧
      (p.queueState slot working).players = p.players ∧ (p.queueState slot working).flags = p.flags ∧
      (p.queueState slot working).tracker = p.tracker ∧ (p.queueState slot working).voices = p.voices ∧
      (p.queueState slot working).loader = p.loader ∧ (p.queueState slot working).watch = p.watch ∧
      (p.queueState slot working).arbiter = p.arbiter ∧ (p.queueState slot working).notice = p.notice :=
    ⟨rfl, rfl, rfl, rfl, rfl, rfl, rfl, rfl, rfl, rfl, rfl, rfl, rfl, rfl, rfl, rfl, rfl, rfl⟩

@[simp] theorem Part.queueResult_fields (slot : Fin 32) (outcome : CueOutcome) (missed : Nat) (short : BitVec 8) (notify : Bool) :
    (p.queueResult slot outcome missed short notify).engine = p.engine ∧
      (p.queueResult slot outcome missed short notify).startError = p.startError ∧
      (p.queueResult slot outcome missed short notify).starting = p.starting ∧
      (p.queueResult slot outcome missed short notify).layout = p.layout ∧
      (p.queueResult slot outcome missed short notify).mail = p.mail ∧
      (p.queueResult slot outcome missed short notify).irq = p.irq ∧
      (p.queueResult slot outcome missed short notify).timeline = p.timeline ∧
      (p.queueResult slot outcome missed short notify).pointer = p.pointer ∧
      (p.queueResult slot outcome missed short notify).click = p.click ∧
      (p.queueResult slot outcome missed short notify).tdm = p.tdm ∧
      (p.queueResult slot outcome missed short notify).players = p.players ∧
      (p.queueResult slot outcome missed short notify).flags = p.flags ∧
      (p.queueResult slot outcome missed short notify).tracker = p.tracker ∧
      (p.queueResult slot outcome missed short notify).voices = p.voices ∧
      (p.queueResult slot outcome missed short notify).loader = p.loader ∧
      (p.queueResult slot outcome missed short notify).watch = p.watch ∧
      (p.queueResult slot outcome missed short notify).arbiter = p.arbiter ∧
      (p.queueResult slot outcome missed short notify).notice = p.notice :=
    ⟨rfl, rfl, rfl, rfl, rfl, rfl, rfl, rfl, rfl, rfl, rfl, rfl, rfl, rfl, rfl, rfl, rfl, rfl⟩

@[simp] theorem Part.queueWithdrawn_fields (slot : Fin 32) (notify : Bool) :
    (p.queueWithdrawn slot notify).engine = p.engine ∧
      (p.queueWithdrawn slot notify).startError = p.startError ∧
      (p.queueWithdrawn slot notify).starting = p.starting ∧ (p.queueWithdrawn slot notify).layout = p.layout ∧
      (p.queueWithdrawn slot notify).mail = p.mail ∧ (p.queueWithdrawn slot notify).irq = p.irq ∧
      (p.queueWithdrawn slot notify).timeline = p.timeline ∧
      (p.queueWithdrawn slot notify).pointer = p.pointer ∧ (p.queueWithdrawn slot notify).click = p.click ∧
      (p.queueWithdrawn slot notify).tdm = p.tdm ∧ (p.queueWithdrawn slot notify).players = p.players ∧
      (p.queueWithdrawn slot notify).flags = p.flags ∧ (p.queueWithdrawn slot notify).tracker = p.tracker ∧
      (p.queueWithdrawn slot notify).voices = p.voices ∧ (p.queueWithdrawn slot notify).loader = p.loader ∧
      (p.queueWithdrawn slot notify).watch = p.watch ∧ (p.queueWithdrawn slot notify).arbiter = p.arbiter ∧
      (p.queueWithdrawn slot notify).notice = p.notice :=
    ⟨rfl, rfl, rfl, rfl, rfl, rfl, rfl, rfl, rfl, rfl, rfl, rfl, rfl, rfl, rfl, rfl, rfl, rfl⟩

@[simp] theorem Part.cuesDueAtOnce_fields :
    p.cuesDueAtOnce.engine = p.engine ∧ p.cuesDueAtOnce.startError = p.startError ∧
      p.cuesDueAtOnce.starting = p.starting ∧ p.cuesDueAtOnce.layout = p.layout ∧
      p.cuesDueAtOnce.mail = p.mail ∧ p.cuesDueAtOnce.irq = p.irq ∧ p.cuesDueAtOnce.timeline = p.timeline ∧
      p.cuesDueAtOnce.pointer = p.pointer ∧ p.cuesDueAtOnce.click = p.click ∧ p.cuesDueAtOnce.tdm = p.tdm ∧
      p.cuesDueAtOnce.players = p.players ∧ p.cuesDueAtOnce.flags = p.flags ∧
      p.cuesDueAtOnce.tracker = p.tracker ∧ p.cuesDueAtOnce.voices = p.voices ∧
      p.cuesDueAtOnce.loader = p.loader ∧ p.cuesDueAtOnce.watch = p.watch ∧
      p.cuesDueAtOnce.arbiter = p.arbiter ∧ p.cuesDueAtOnce.notice = p.notice :=
    ⟨rfl, rfl, rfl, rfl, rfl, rfl, rfl, rfl, rfl, rfl, rfl, rfl, rfl, rfl, rfl, rfl, rfl, rfl⟩

@[simp] theorem Part.markDue_fields (kind : BoundaryKind) :
    (p.markDue kind).cues = { p.cues with arms := p.cues.arms.map (ArmedCue.announce kind) } ∧
      (p.markDue kind).engine = p.engine ∧ (p.markDue kind).startError = p.startError ∧
      (p.markDue kind).starting = p.starting ∧ (p.markDue kind).layout = p.layout ∧
      (p.markDue kind).mail = p.mail ∧ (p.markDue kind).irq = p.irq ∧ (p.markDue kind).timeline = p.timeline ∧
      (p.markDue kind).pointer = p.pointer ∧ (p.markDue kind).click = p.click ∧ (p.markDue kind).tdm = p.tdm ∧
      (p.markDue kind).players = p.players ∧ (p.markDue kind).flags = p.flags ∧
      (p.markDue kind).tracker = p.tracker ∧ (p.markDue kind).voices = p.voices ∧
      (p.markDue kind).loader = p.loader ∧ (p.markDue kind).watch = p.watch ∧
      (p.markDue kind).arbiter = p.arbiter ∧ (p.markDue kind).notice = p.notice :=
    ⟨rfl, rfl, rfl, rfl, rfl, rfl, rfl, rfl, rfl, rfl, rfl, rfl, rfl, rfl, rfl, rfl, rfl, rfl, rfl⟩

@[simp] theorem Part.setPlayer_fields (i : Fin 4) (port : PlayerPort) :
    (p.setPlayer i port).players = p.players.set i port ∧ (p.setPlayer i port).engine = p.engine ∧
      (p.setPlayer i port).startError = p.startError ∧ (p.setPlayer i port).starting = p.starting ∧
      (p.setPlayer i port).layout = p.layout ∧ (p.setPlayer i port).mail = p.mail ∧
      (p.setPlayer i port).irq = p.irq ∧ (p.setPlayer i port).timeline = p.timeline ∧
      (p.setPlayer i port).pointer = p.pointer ∧ (p.setPlayer i port).click = p.click ∧
      (p.setPlayer i port).tdm = p.tdm ∧ (p.setPlayer i port).flags = p.flags ∧
      (p.setPlayer i port).tracker = p.tracker ∧ (p.setPlayer i port).voices = p.voices ∧
      (p.setPlayer i port).loader = p.loader ∧ (p.setPlayer i port).cues = p.cues ∧
      (p.setPlayer i port).watch = p.watch ∧ (p.setPlayer i port).arbiter = p.arbiter ∧
      (p.setPlayer i port).notice = p.notice :=
    ⟨rfl, rfl, rfl, rfl, rfl, rfl, rfl, rfl, rfl, rfl, rfl, rfl, rfl, rfl, rfl, rfl, rfl, rfl, rfl⟩

@[simp] theorem Part.setPedal_fields (i : Fin 4) (pedal : Pedal) :
    (p.setPedal i pedal).engine = p.engine ∧ (p.setPedal i pedal).startError = p.startError ∧
      (p.setPedal i pedal).starting = p.starting ∧ (p.setPedal i pedal).layout = p.layout ∧
      (p.setPedal i pedal).mail = p.mail ∧ (p.setPedal i pedal).irq = p.irq ∧
      (p.setPedal i pedal).timeline = p.timeline ∧ (p.setPedal i pedal).pointer = p.pointer ∧
      (p.setPedal i pedal).click = p.click ∧ (p.setPedal i pedal).tdm = p.tdm ∧
      (p.setPedal i pedal).flags = p.flags ∧ (p.setPedal i pedal).tracker = p.tracker ∧
      (p.setPedal i pedal).voices = p.voices ∧ (p.setPedal i pedal).loader = p.loader ∧
      (p.setPedal i pedal).cues = p.cues ∧ (p.setPedal i pedal).watch = p.watch ∧
      (p.setPedal i pedal).arbiter = p.arbiter ∧ (p.setPedal i pedal).notice = p.notice :=
    ⟨rfl, rfl, rfl, rfl, rfl, rfl, rfl, rfl, rfl, rfl, rfl, rfl, rfl, rfl, rfl, rfl, rfl, rfl⟩

@[simp] theorem Part.requestRt_fields (request : RtByte) :
    (p.requestRt request).voices = p.voices.request request ∧ (p.requestRt request).engine = p.engine ∧
      (p.requestRt request).startError = p.startError ∧ (p.requestRt request).starting = p.starting ∧
      (p.requestRt request).layout = p.layout ∧ (p.requestRt request).mail = p.mail ∧
      (p.requestRt request).irq = p.irq ∧ (p.requestRt request).timeline = p.timeline ∧
      (p.requestRt request).pointer = p.pointer ∧ (p.requestRt request).click = p.click ∧
      (p.requestRt request).tdm = p.tdm ∧ (p.requestRt request).players = p.players ∧
      (p.requestRt request).flags = p.flags ∧ (p.requestRt request).tracker = p.tracker ∧
      (p.requestRt request).loader = p.loader ∧ (p.requestRt request).cues = p.cues ∧
      (p.requestRt request).watch = p.watch ∧ (p.requestRt request).arbiter = p.arbiter ∧
      (p.requestRt request).notice = p.notice :=
    ⟨rfl, rfl, rfl, rfl, rfl, rfl, rfl, rfl, rfl, rfl, rfl, rfl, rfl, rfl, rfl, rfl, rfl, rfl, rfl⟩

@[simp] theorem Part.journal_fields (event : JournalEvent) :
    (p.journal event).notice = p.notice.handOver { event := event, stamp := p.stamp } ∧
      (p.journal event).engine = p.engine ∧ (p.journal event).startError = p.startError ∧
      (p.journal event).starting = p.starting ∧ (p.journal event).layout = p.layout ∧
      (p.journal event).mail = p.mail ∧ (p.journal event).irq = p.irq ∧
      (p.journal event).timeline = p.timeline ∧ (p.journal event).pointer = p.pointer ∧
      (p.journal event).click = p.click ∧ (p.journal event).tdm = p.tdm ∧
      (p.journal event).players = p.players ∧ (p.journal event).flags = p.flags ∧
      (p.journal event).tracker = p.tracker ∧ (p.journal event).voices = p.voices ∧
      (p.journal event).loader = p.loader ∧ (p.journal event).cues = p.cues ∧
      (p.journal event).watch = p.watch ∧ (p.journal event).arbiter = p.arbiter :=
    ⟨rfl, rfl, rfl, rfl, rfl, rfl, rfl, rfl, rfl, rfl, rfl, rfl, rfl, rfl, rfl, rfl, rfl, rfl, rfl⟩

@[simp] theorem Part.raise_fields (cause : Cause) :
    (p.raise cause).irq = p.irq.raise cause ∧ (p.raise cause).engine = p.engine ∧
      (p.raise cause).startError = p.startError ∧ (p.raise cause).starting = p.starting ∧
      (p.raise cause).layout = p.layout ∧ (p.raise cause).mail = p.mail ∧
      (p.raise cause).timeline = p.timeline ∧ (p.raise cause).pointer = p.pointer ∧
      (p.raise cause).click = p.click ∧ (p.raise cause).tdm = p.tdm ∧ (p.raise cause).players = p.players ∧
      (p.raise cause).flags = p.flags ∧ (p.raise cause).tracker = p.tracker ∧
      (p.raise cause).voices = p.voices ∧ (p.raise cause).loader = p.loader ∧ (p.raise cause).cues = p.cues ∧
      (p.raise cause).watch = p.watch ∧ (p.raise cause).arbiter = p.arbiter ∧ (p.raise cause).notice = p.notice :=
    ⟨rfl, rfl, rfl, rfl, rfl, rfl, rfl, rfl, rfl, rfl, rfl, rfl, rfl, rfl, rfl, rfl, rfl, rfl, rfl⟩

@[simp] theorem Part.markGrant_fields (r : Requester) :
    (p.markGrant r).arbiter = { p.arbiter with rotation := r.next, hostRun := 0 } ∧
      (p.markGrant r).engine = p.engine ∧ (p.markGrant r).startError = p.startError ∧
      (p.markGrant r).starting = p.starting ∧ (p.markGrant r).layout = p.layout ∧
      (p.markGrant r).mail = p.mail ∧ (p.markGrant r).irq = p.irq ∧ (p.markGrant r).timeline = p.timeline ∧
      (p.markGrant r).pointer = p.pointer ∧ (p.markGrant r).click = p.click ∧ (p.markGrant r).tdm = p.tdm ∧
      (p.markGrant r).players = p.players ∧ (p.markGrant r).flags = p.flags ∧
      (p.markGrant r).tracker = p.tracker ∧ (p.markGrant r).voices = p.voices ∧
      (p.markGrant r).loader = p.loader ∧ (p.markGrant r).cues = p.cues ∧ (p.markGrant r).watch = p.watch ∧
      (p.markGrant r).notice = p.notice :=
    ⟨rfl, rfl, rfl, rfl, rfl, rfl, rfl, rfl, rfl, rfl, rfl, rfl, rfl, rfl, rfl, rfl, rfl, rfl, rfl⟩

@[simp] theorem Part.markHost_fields :
    p.markHost.arbiter = { p.arbiter with hostRun := min (p.arbiter.hostRun + 1) 64 } ∧
      p.markHost.engine = p.engine ∧ p.markHost.startError = p.startError ∧ p.markHost.starting = p.starting ∧
      p.markHost.layout = p.layout ∧ p.markHost.mail = p.mail ∧ p.markHost.irq = p.irq ∧
      p.markHost.timeline = p.timeline ∧ p.markHost.pointer = p.pointer ∧ p.markHost.click = p.click ∧
      p.markHost.tdm = p.tdm ∧ p.markHost.players = p.players ∧ p.markHost.flags = p.flags ∧
      p.markHost.tracker = p.tracker ∧ p.markHost.voices = p.voices ∧ p.markHost.loader = p.loader ∧
      p.markHost.cues = p.cues ∧ p.markHost.watch = p.watch ∧ p.markHost.notice = p.notice :=
    ⟨rfl, rfl, rfl, rfl, rfl, rfl, rfl, rfl, rfl, rfl, rfl, rfl, rfl, rfl, rfl, rfl, rfl, rfl, rfl⟩

@[simp] theorem Part.mixSet_fields (mix : Fin 8) (levels : ByClass) (trim : Nat) (mute : Bool) :
    (p.mixSet mix levels trim mute).engine = p.engine ∧
      (p.mixSet mix levels trim mute).startError = p.startError ∧
      (p.mixSet mix levels trim mute).starting = p.starting ∧
      (p.mixSet mix levels trim mute).layout = p.layout ∧ (p.mixSet mix levels trim mute).mail = p.mail ∧
      (p.mixSet mix levels trim mute).irq = p.irq ∧ (p.mixSet mix levels trim mute).timeline = p.timeline ∧
      (p.mixSet mix levels trim mute).pointer = p.pointer ∧ (p.mixSet mix levels trim mute).tdm = p.tdm ∧
      (p.mixSet mix levels trim mute).players = p.players ∧ (p.mixSet mix levels trim mute).flags = p.flags ∧
      (p.mixSet mix levels trim mute).tracker = p.tracker ∧ (p.mixSet mix levels trim mute).voices = p.voices ∧
      (p.mixSet mix levels trim mute).loader = p.loader ∧ (p.mixSet mix levels trim mute).cues = p.cues ∧
      (p.mixSet mix levels trim mute).watch = p.watch ∧ (p.mixSet mix levels trim mute).arbiter = p.arbiter ∧
      (p.mixSet mix levels trim mute).notice = p.notice :=
    ⟨rfl, rfl, rfl, rfl, rfl, rfl, rfl, rfl, rfl, rfl, rfl, rfl, rfl, rfl, rfl, rfl, rfl, rfl⟩

@[simp] theorem Part.endCursors_fields :
    p.endCursors.engine = p.engine ∧ p.endCursors.startError = p.startError ∧
      p.endCursors.starting = p.starting ∧ p.endCursors.layout = p.layout ∧ p.endCursors.mail = p.mail ∧
      p.endCursors.irq = p.irq ∧ p.endCursors.timeline = p.timeline ∧ p.endCursors.pointer = p.pointer ∧
      p.endCursors.tdm = p.tdm ∧ p.endCursors.players = p.players ∧ p.endCursors.flags = p.flags ∧
      p.endCursors.tracker = p.tracker ∧ p.endCursors.voices = p.voices ∧ p.endCursors.loader = p.loader ∧
      p.endCursors.cues = p.cues ∧ p.endCursors.watch = p.watch ∧ p.endCursors.arbiter = p.arbiter ∧
      p.endCursors.notice = p.notice :=
    ⟨rfl, rfl, rfl, rfl, rfl, rfl, rfl, rfl, rfl, rfl, rfl, rfl, rfl, rfl, rfl, rfl, rfl, rfl⟩

@[simp] theorem Part.endCursorsOn_fields (sound : Fin 4) :
    (p.endCursorsOn sound).engine = p.engine ∧ (p.endCursorsOn sound).startError = p.startError ∧
      (p.endCursorsOn sound).starting = p.starting ∧ (p.endCursorsOn sound).layout = p.layout ∧
      (p.endCursorsOn sound).mail = p.mail ∧ (p.endCursorsOn sound).irq = p.irq ∧
      (p.endCursorsOn sound).timeline = p.timeline ∧ (p.endCursorsOn sound).pointer = p.pointer ∧
      (p.endCursorsOn sound).tdm = p.tdm ∧ (p.endCursorsOn sound).players = p.players ∧
      (p.endCursorsOn sound).flags = p.flags ∧ (p.endCursorsOn sound).tracker = p.tracker ∧
      (p.endCursorsOn sound).voices = p.voices ∧ (p.endCursorsOn sound).loader = p.loader ∧
      (p.endCursorsOn sound).cues = p.cues ∧ (p.endCursorsOn sound).watch = p.watch ∧
      (p.endCursorsOn sound).arbiter = p.arbiter ∧ (p.endCursorsOn sound).notice = p.notice :=
    ⟨rfl, rfl, rfl, rfl, rfl, rfl, rfl, rfl, rfl, rfl, rfl, rfl, rfl, rfl, rfl, rfl, rfl, rfl⟩

@[simp] theorem Part.writeIntStatus_fields (value : Halfword) :
    (p.writeIntStatus value).irq = { p.irq with status := p.irq.status &&& ~~~causeBits value } ∧
      (p.writeIntStatus value).engine = p.engine ∧ (p.writeIntStatus value).startError = p.startError ∧
      (p.writeIntStatus value).starting = p.starting ∧ (p.writeIntStatus value).layout = p.layout ∧
      (p.writeIntStatus value).mail = p.mail ∧ (p.writeIntStatus value).timeline = p.timeline ∧
      (p.writeIntStatus value).pointer = p.pointer ∧ (p.writeIntStatus value).click = p.click ∧
      (p.writeIntStatus value).tdm = p.tdm ∧ (p.writeIntStatus value).players = p.players ∧
      (p.writeIntStatus value).flags = p.flags ∧ (p.writeIntStatus value).tracker = p.tracker ∧
      (p.writeIntStatus value).voices = p.voices ∧ (p.writeIntStatus value).loader = p.loader ∧
      (p.writeIntStatus value).cues = p.cues ∧ (p.writeIntStatus value).watch = p.watch ∧
      (p.writeIntStatus value).arbiter = p.arbiter ∧ (p.writeIntStatus value).notice = p.notice :=
    ⟨rfl, rfl, rfl, rfl, rfl, rfl, rfl, rfl, rfl, rfl, rfl, rfl, rfl, rfl, rfl, rfl, rfl, rfl, rfl⟩

@[simp] theorem Part.writeIntMask_fields (value : Halfword) :
    (p.writeIntMask value).irq = { p.irq with mask := causeBits value } ∧
      (p.writeIntMask value).engine = p.engine ∧ (p.writeIntMask value).startError = p.startError ∧
      (p.writeIntMask value).starting = p.starting ∧ (p.writeIntMask value).layout = p.layout ∧
      (p.writeIntMask value).mail = p.mail ∧ (p.writeIntMask value).timeline = p.timeline ∧
      (p.writeIntMask value).pointer = p.pointer ∧ (p.writeIntMask value).click = p.click ∧
      (p.writeIntMask value).tdm = p.tdm ∧ (p.writeIntMask value).players = p.players ∧
      (p.writeIntMask value).flags = p.flags ∧ (p.writeIntMask value).tracker = p.tracker ∧
      (p.writeIntMask value).voices = p.voices ∧ (p.writeIntMask value).loader = p.loader ∧
      (p.writeIntMask value).cues = p.cues ∧ (p.writeIntMask value).watch = p.watch ∧
      (p.writeIntMask value).arbiter = p.arbiter ∧ (p.writeIntMask value).notice = p.notice :=
    ⟨rfl, rfl, rfl, rfl, rfl, rfl, rfl, rfl, rfl, rfl, rfl, rfl, rfl, rfl, rfl, rfl, rfl, rfl, rfl⟩

end Sys2Proof.Machine
end

