-- ==== Sys2Proof/Laws/Outer.lean ====
section
/-! SUPPORT. What no block's act touches: the engine state, the start error, what Starting has read, the layout, the
mailboxes, the arbiter, the journal's place and counts, the watch's copy of the taken count, the sample rate and the
frame count. One lemma for each operation of the part. -/

namespace Sys2Proof.Machine

/-- The fields that only the register window, the arbiter, Starting and the journal's own words change. -/
structure Outer where
  engine : EngineState
  startError : StartError
  starting : Starting
  layout : Layout
  mail : Mail
  arbiter : Arbiter
  config : Option JournalConfig
  written : Word
  taken : Word
  wordsDone : Nat
  headPending : Bool
  takenCopy : Word
  rate : SampleRate
  frame : Word

def Part.outer (p : Part) : Outer where
  engine := p.engine
  startError := p.startError
  starting := p.starting
  layout := p.layout
  mail := p.mail
  arbiter := p.arbiter
  config := p.notice.config
  written := p.notice.written
  taken := p.notice.taken
  wordsDone := p.notice.wordsDone
  headPending := p.notice.headPending
  takenCopy := p.watch.takenCopy
  rate := p.timeline.rate
  frame := p.timeline.frame

theorem outer_of_fields {p q : Part} (h1 : p.engine = q.engine) (h2 : p.startError = q.startError)
    (h3 : p.starting = q.starting) (h4 : p.layout = q.layout) (h5 : p.mail = q.mail)
    (h6 : p.arbiter = q.arbiter) (h7 : p.notice = q.notice) (h8 : p.watch = q.watch)
    (h9 : p.timeline = q.timeline) : p.outer = q.outer := by
  simp [Part.outer, *]

@[simp] theorem outer_mk (e : EngineState) (se : StartError) (st : Starting) (l : Layout) (m : Mail)
    (i : Interrupts) (tl : Timeline) (sp : SongPointer) (c : ClickGen) (t : Vector Word 8)
    (pl : Vector PlayerPort 4) (f : BitVec 8) (tr : Tracker) (v : Voices) (lo : Loader) (cu : CueUnit)
    (w : Watch) (a : Arbiter) (n : Notice) :
    (Part.mk e se st l m i tl sp c t pl f tr v lo cu w a n).outer =
      ⟨e, se, st, l, m, a, n.config, n.written, n.taken, n.wordsDone, n.headPending, w.takenCopy,
        tl.rate, tl.frame⟩ := rfl

@[simp] theorem outer_eta (p : Part) :
    Outer.mk p.engine p.startError p.starting p.layout p.mail p.arbiter p.notice.config p.notice.written
      p.notice.taken p.notice.wordsDone p.notice.headPending p.watch.takenCopy p.timeline.rate p.timeline.frame =
      p.outer := rfl

@[simp] theorem outer_ite (c : Prop) [Decidable c] (a b : Part) :
    (if c then a else b).outer = if c then a.outer else b.outer := apply_ite _ _ _ _

@[simp] theorem fst_ite {α : Type} (c : Prop) [Decidable c] (a b : Part × α) :
    (if c then a else b).1 = if c then a.1 else b.1 := apply_ite _ _ _ _

theorem foldl_outer {α : Type} (f : Part → α → Part) (h : ∀ p a, (f p a).outer = p.outer) (l : List α) (p : Part) :
    (l.foldl f p).outer = p.outer := by
  induction l generalizing p with
  | nil => rfl
  | cons a rest ih => exact (ih (f p a)).trans (h p a)

@[simp] theorem Notice.handOver_counts (n : Notice) (e : JournalEntry) :
    (n.handOver e).config = n.config ∧ (n.handOver e).written = n.written ∧ (n.handOver e).taken = n.taken ∧
      (n.handOver e).wordsDone = n.wordsDone ∧ (n.handOver e).headPending = n.headPending := by
  unfold Notice.handOver; split
  · simp
  · split <;> simp

variable (p : Part)

@[simp] theorem Part.journalAt_outer (stamp : Stamp) (event : JournalEvent) :
    (p.journalAt stamp event).outer = p.outer := by simp [Part.journalAt]

@[simp] theorem Part.journal_outer (event : JournalEvent) : (p.journal event).outer = p.outer := by
  simp [Part.journal]

@[simp] theorem Part.raise_outer (cause : Cause) : (p.raise cause).outer = p.outer := rfl

@[simp] theorem Part.putResident_outer (role : Role) (entry : Option Resident) :
    (p.putResident role entry).outer = p.outer := rfl

@[simp] theorem Part.setResidentState_outer (role : Role) (state : ResidentState) :
    (p.setResidentState role state).outer = p.outer := rfl

@[simp] theorem Part.beginRefreshing_outer (role : Role) : (p.beginRefreshing role).outer = p.outer := rfl

@[simp] theorem Part.makeCurrent_outer (role : Role) : (p.makeCurrent role).outer = p.outer := rfl

@[simp] theorem Part.makeStale_outer (role : Role) (reason : StaleReason) :
    (p.makeStale role reason).outer = p.outer := by unfold Part.makeStale; split <;> simp

@[simp] theorem Part.requestRt_outer (request : RtByte) : (p.requestRt request).outer = p.outer := rfl

@[simp] theorem Part.routeController_outer (player : Fin 4) (number value : Nat) :
    (p.routeController player number value).outer = p.outer := by simp [Part.routeController]

@[simp] theorem Part.routeBend_outer (player : Fin 4) (value : Nat) :
    (p.routeBend player value).outer = p.outer := by simp [Part.routeBend]

@[simp] theorem Part.routePressure_outer (player : Fin 4) (value : Nat) :
    (p.routePressure player value).outer = p.outer := by simp [Part.routePressure]

@[simp] theorem Part.setOwner_outer (slot : Fin 32) (owner : SlotOwner) :
    (p.setOwner slot owner).outer = p.outer := rfl

@[simp] theorem Part.mapArm_outer (slot : Fin 32) (f : ArmedCue → ArmedCue) :
    (p.mapArm slot f).outer = p.outer := rfl

@[simp] theorem Part.dropArm_outer (slot : Fin 32) : (p.dropArm slot).outer = p.outer := rfl

@[simp] theorem Part.queueItem_outer (item : WriteItem) : (p.queueItem item).outer = p.outer := rfl

@[simp] theorem Part.queueState_outer (slot : Fin 32) (working : Bool) :
    (p.queueState slot working).outer = p.outer := rfl

@[simp] theorem Part.queueResult_outer (slot : Fin 32) (outcome : CueOutcome) (missed : Nat) (short :
    BitVec 8) (notify : Bool) : (p.queueResult slot outcome missed short notify).outer = p.outer := rfl

@[simp] theorem Part.queueWithdrawn_outer (slot : Fin 32) (notify : Bool) :
    (p.queueWithdrawn slot notify).outer = p.outer := rfl

@[simp] theorem Part.endCue_outer (a : ArmedCue) (outcome : CueOutcome) (short : BitVec 8) :
    (p.endCue a outcome short).outer = p.outer := by simp [Part.endCue]

@[simp] theorem Part.setWorking_outer (slot : Fin 32) (working : Bool) :
    (p.setWorking slot working).outer = p.outer := by simp [Part.setWorking]

@[simp] theorem Part.cuesDueAtOnce_outer : p.cuesDueAtOnce.outer = p.outer := rfl

@[simp] theorem Part.markDue_outer (kind : BoundaryKind) : (p.markDue kind).outer = p.outer := rfl

@[simp] theorem Part.setTempo_outer (tempo : Nat) : (p.setTempo tempo).outer = p.outer := rfl

@[simp] theorem Part.fixTempo_outer (sectionEntry : Bool) : (p.fixTempo sectionEntry).outer = p.outer := by
  unfold Part.fixTempo; split <;> simp

@[simp] theorem Part.setOverride_outer (target ramp : Nat) (keep : Bool) :
    (p.setOverride target ramp keep).outer = p.outer := by simp [Part.setOverride]

@[simp] theorem Part.parkTempo_outer : p.parkTempo.outer = p.outer := by unfold Part.parkTempo; split <;> simp

@[simp] theorem Part.recordTap_outer (intervals : List Nat) : (p.recordTap intervals).outer = p.outer := rfl

@[simp] theorem Part.tapResult_outer (count tempo : Nat) : (p.tapResult count tempo).outer = p.outer := by
  simp [Part.tapResult]

@[simp] theorem Part.tap_outer : p.tap.outer = p.outer := by
  unfold Part.tap; repeat' split
  all_goals simp

@[simp] theorem Part.setTrigger_outer (trigger : Option Trigger) : (p.setTrigger trigger).outer = p.outer := rfl

@[simp] theorem Part.giveTriggerIf_outer (condition : Bool) : (p.giveTriggerIf condition).outer = p.outer := by
  simp [Part.giveTriggerIf]

@[simp] theorem Part.setPointer_outer (pointer : SongPointer) : (p.setPointer pointer).outer = p.outer := rfl

@[simp] theorem Part.enterSection_outer (target pass : Nat) (cause : EntryCause) :
    (p.enterSection target pass cause).outer = p.outer := by simp [Part.enterSection]

@[simp] theorem Part.land_outer (target : Nat) (cause : PendingCause) :
    (p.land target cause).outer = p.outer := by simp [Part.land]

@[simp] theorem Part.startSong_outer : p.startSong.outer = p.outer := by simp [Part.startSong]

@[simp] theorem Part.placeAtStart_outer : p.placeAtStart.outer = p.outer := by simp [Part.placeAtStart]

@[simp] theorem Part.endSection_outer (vamp early : Bool) : (p.endSection vamp early).1.outer = p.outer := by
  unfold Part.endSection; repeat' split
  all_goals simp

@[simp] theorem Part.advanceSong_outer (s : SongSection) : (p.advanceSong s).1.outer = p.outer := by
  simp [Part.advanceSong]

@[simp] theorem Part.advanceCountIn_outer (s : SongSection) : (p.advanceCountIn s).1.outer = p.outer := by
  simp [Part.advanceCountIn]

@[simp] theorem Part.advance_outer : p.advance.1.outer = p.outer := by
  unfold Part.advance; repeat' split
  all_goals simp

@[simp] theorem Part.takeStart_outer : p.takeStart.outer = p.outer := by simp [Part.takeStart]

@[simp] theorem Part.swapParked_outer (start : Nat) (autoStart : Bool) :
    (p.swapParked start autoStart).outer = p.outer := by simp [Part.swapParked]

@[simp] theorem Part.swapSegue_outer (start : Nat) : (p.swapSegue start).outer = p.outer := by
  simp [Part.swapSegue]

@[simp] theorem Part.songSwap_outer (song : Song) (start : Nat) (autoStart : Bool) :
    (p.songSwap song start autoStart).outer = p.outer := by simp [Part.songSwap]

@[simp] theorem Part.jumpTo_outer (target : Nat) : (p.jumpTo target).outer = p.outer := by
  unfold Part.jumpTo; dsimp only; repeat' split
  all_goals simp

@[simp] theorem Part.correctSection_outer : p.correctSection.outer = p.outer := by simp [Part.correctSection]

@[simp] theorem Part.correctFields_outer : p.correctFields.outer = p.outer := by simp [Part.correctFields]

@[simp] theorem Part.correctPointer_outer : p.correctPointer.outer = p.outer := by simp [Part.correctPointer]

@[simp] theorem Part.releaseKey_outer (player : Fin 4) (key velocity : Nat) :
    (p.releaseKey player key velocity).outer = p.outer := by simp [Part.releaseKey]

@[simp] theorem Part.makeRoom_outer : p.makeRoom.outer = p.outer := by
  unfold Part.makeRoom; split
  · rfl
  · simp [foldl_outer Part.journal (fun q e => Part.journal_outer q e)]

@[simp] theorem Part.enterNote_outer (player : Fin 4) (key : Nat) (notes : List RoutedNote) :
    (p.enterNote player key notes).outer = p.outer := by simp [Part.enterNote]

@[simp] theorem Part.trackNoteOn_outer (player : Fin 4) (key : Nat) (notes : List RoutedNote) :
    (p.trackNoteOn player key notes).outer = p.outer := by simp [Part.trackNoteOn]

@[simp] theorem Part.noteOn_outer (player : Fin 4) (key velocity : Nat) :
    (p.noteOn player key velocity).outer = p.outer := by simp [Part.noteOn]

@[simp] theorem Part.deliverOwed_outer (voice : Fin 8) : (p.deliverOwed voice).outer = p.outer := by
  simp [Part.deliverOwed]

@[simp] theorem Part.sendDowns_outer (player : Fin 4) : (p.sendDowns player).outer = p.outer := by
  simp [Part.sendDowns]

@[simp] theorem Part.pedalDown_outer (player : Fin 4) : (p.pedalDown player).outer = p.outer := by
  simp [Part.pedalDown]

@[simp] theorem Part.pedalUp_outer (player : Fin 4) : (p.pedalUp player).outer = p.outer := by
  simp [Part.pedalUp]

@[simp] theorem Part.carryPedals_outer : p.carryPedals.outer = p.outer := by
  unfold Part.carryPedals
  exact foldl_outer _ (fun q i => by split <;> simp) _ _

@[simp] theorem Part.setPedal_outer (player : Fin 4) (pedal : Pedal) :
    (p.setPedal player pedal).outer = p.outer := rfl

@[simp] theorem Part.offerAllNotesOff_outer (l : List Dest) : (p.offerAllNotesOff l).outer = p.outer := by
  induction l generalizing p with
  | nil => rfl
  | cons d rest ih => unfold Part.offerAllNotesOff; rw [ih]; split <;> simp

@[simp] theorem Part.panic_outer (source : PanicSource) : (p.panic source).1.outer = p.outer := by
  unfold Part.panic
  simp [foldl_outer (fun (p : Part) (i : Fin 4) => (p.setPedal i .up).pedalUp i) (fun q i => by simp)]

@[simp] theorem Part.ownShadow_outer (owner : ShadowOwner) (fetch : Option ShadowFetch) :
    (p.ownShadow owner fetch).outer = p.outer := rfl

@[simp] theorem Part.emptyShadow_outer : p.emptyShadow.outer = p.outer := by simp [Part.emptyShadow]

@[simp] theorem Part.lookFor_outer (scene : Nat) : (p.lookFor scene).outer = p.outer := by simp [Part.lookFor]

@[simp] theorem Part.actTrigger_outer : p.actTrigger.outer = p.outer := by
  unfold Part.actTrigger; repeat' split
  all_goals simp

@[simp] theorem Part.actWaiting_outer : p.actWaiting.outer = p.outer := by
  unfold Part.actWaiting; dsimp only; repeat' split
  all_goals simp

@[simp] theorem Part.freeShadow_outer : p.freeShadow.outer = p.outer := by simp [Part.freeShadow]

@[simp] theorem Part.swapScene_outer : p.swapScene.outer = p.outer := by unfold Part.swapScene; split <;> simp

@[simp] theorem Part.moveResidents_outer : p.moveResidents.outer = p.outer := by
  unfold Part.moveResidents; repeat' split
  all_goals simp

@[simp] theorem Part.journalLate_outer (source : LateSource) (missed : Option Nat) :
    (p.journalLate source missed).outer = p.outer := by cases missed <;> simp [Part.journalLate]

@[simp] theorem Part.completeSection_outer (target : Nat) (cause : SectionCause) (announced : Option Nat) :
    (p.completeSection target cause announced).outer = p.outer := by simp [Part.completeSection]

@[simp] theorem Part.beginSection_outer (target scene : Nat) (cause : SectionCause) (announced : Option Nat) :
    (p.beginSection target scene cause announced).outer = p.outer := by simp [Part.beginSection]

@[simp] theorem Part.switchSongOrJump_outer (cue : Cue) : (p.switchSongOrJump cue).outer = p.outer := by
  unfold Part.switchSongOrJump; repeat' split
  all_goals simp

@[simp] theorem Part.setLate_outer (late : Option LateSwitch) : (p.setLate late).outer = p.outer := rfl

@[simp] theorem Part.setHeld_outer (held : Option HeldSwitch) : (p.setHeld held).outer = p.outer := rfl

@[simp] theorem Part.considerScene_outer (target : Nat) (cause : SectionCause) :
    (p.considerScene target cause).outer = p.outer := by
  unfold Part.considerScene; repeat' split
  all_goals simp

@[simp] theorem Part.considerEntry_outer : p.considerEntry.outer = p.outer := by
  unfold Part.considerEntry; dsimp only; repeat' split
  all_goals simp

@[simp] theorem Part.considerLanding_outer (lands : Bool) :
    (p.considerLanding lands).outer = p.outer := by
  unfold Part.considerLanding; split <;> simp

@[simp] theorem Part.completeCue_outer (a : ArmedCue) (forced : Option (BitVec 8)) :
    (p.completeCue a forced).outer = p.outer := by simp [Part.completeCue]

@[simp] theorem Part.beginCue_outer (a : ArmedCue) : (p.beginCue a).outer = p.outer := by simp [Part.beginCue]

@[simp] theorem Part.completeHeld_outer (cause : HeldCause) (forced : Option (BitVec 8)) :
    (p.completeHeld cause forced).outer = p.outer := by
  unfold Part.completeHeld; repeat' split
  all_goals simp

@[simp] theorem Part.recheckHeld_outer (voice : Fin 8) : (p.recheckHeld voice).outer = p.outer := by
  unfold Part.recheckHeld; split <;> simp

@[simp] theorem Part.expireHold_outer : p.expireHold.outer = p.outer := by
  unfold Part.expireHold; split <;> simp

@[simp] theorem Part.considerPark_outer : p.considerPark.outer = p.outer := by simp [Part.considerPark]

@[simp] theorem Part.makeLate_outer : p.makeLate.outer = p.outer := by unfold Part.makeLate; split <;> simp

@[simp] theorem Part.makeLateNow_outer : p.makeLateNow.outer = p.outer := by
  unfold Part.makeLateNow; split <;> simp

@[simp] theorem Part.loaderAnnounce_outer (kind : BoundaryKind) : (p.loaderAnnounce kind).outer = p.outer := by
  unfold Part.loaderAnnounce; split <;> simp

@[simp] theorem Part.shadowReady_outer : p.shadowReady.outer = p.outer := by
  unfold Part.shadowReady; dsimp only; repeat' split
  all_goals simp

@[simp] theorem Part.checkReady_outer : p.checkReady.outer = p.outer := by simp [Part.checkReady]

@[simp] theorem Part.cancelHoldForEdit_outer : p.cancelHoldForEdit.outer = p.outer := by
  unfold Part.cancelHoldForEdit; split <;> simp

@[simp] theorem Part.shadowEdited_outer : p.shadowEdited.outer = p.outer := by
  unfold Part.shadowEdited; dsimp only; repeat' split
  all_goals simp

@[simp] theorem Part.cancelSectionSwitch_outer : p.cancelSectionSwitch.outer = p.outer := by
  unfold Part.cancelSectionSwitch; dsimp only; repeat' split
  all_goals simp

@[simp] theorem Part.displaceOwner_outer : p.displaceOwner.outer = p.outer := by
  unfold Part.displaceOwner; split <;> simp

@[simp] theorem Part.claimForCue_outer (slot : Fin 32) (fetch : ShadowFetch) :
    (p.claimForCue slot fetch).outer = p.outer := by simp [Part.claimForCue]

@[simp] theorem Part.beginSongRefresh_outer (sceneNext : Bool) :
    (p.beginSongRefresh sceneNext).outer = p.outer := by unfold Part.beginSongRefresh; split <;> simp

@[simp] theorem Part.beginSceneRefresh_outer : p.beginSceneRefresh.outer = p.outer := by
  unfold Part.beginSceneRefresh; split <;> simp

@[simp] theorem Part.setFetch_outer (fetch : Option ShadowFetch) : (p.setFetch fetch).outer = p.outer := rfl

@[simp] theorem Part.refetchShadow_outer (role : Role) : (p.refetchShadow role).outer = p.outer := by
  unfold Part.refetchShadow; split <;> simp

@[simp] theorem Part.requestStop_outer : p.requestStop.outer = p.outer := by simp [Part.requestStop]

@[simp] theorem Part.enterParked_outer : p.enterParked.outer = p.outer := by simp [Part.enterParked]

@[simp] theorem Part.haltClock_outer : p.haltClock.outer = p.outer := by simp [Part.haltClock]

@[simp] theorem Part.pauseClock_outer : p.pauseClock.outer = p.outer := by simp [Part.pauseClock]

@[simp] theorem Part.resumeClock_outer : p.resumeClock.outer = p.outer := by simp [Part.resumeClock]

@[simp] theorem Part.idleClock_outer : p.idleClock.outer = p.outer := by simp [Part.idleClock]

@[simp] theorem Part.transport_outer (action : TransportAction) : (p.transport action).outer = p.outer := by
  unfold Part.transport; split <;> simp

@[simp] theorem Part.setSource_outer (source : ClockSource) : (p.setSource source).outer = p.outer := rfl

@[simp] theorem Part.setMonitor_outer (monitor : Monitor) : (p.setMonitor monitor).outer = p.outer := rfl

@[simp] theorem Part.fallBack_outer : p.fallBack.outer = p.outer := by simp [Part.fallBack]

@[simp] theorem Part.monitorAbsent_outer : p.monitorAbsent.outer = p.outer := by simp [Part.monitorAbsent]

@[simp] theorem Part.clickEvent_outer (cls : ClickClass) (stamp : Stamp) : (p.clickEvent cls stamp).outer = p.outer := by
  unfold Part.clickEvent; dsimp only; repeat' split
  all_goals simp

@[simp] theorem Part.subClick_outer (tick : Nat) : (p.subClick tick).outer = p.outer := by
  unfold Part.subClick; split <;> simp

@[simp] theorem Part.render_outer : p.render.outer = p.outer := by simp [Part.render]

@[simp] theorem Part.mixSet_outer (mix : Fin 8) (levels : ByClass) (trim : Nat) (mute : Bool) :
    (p.mixSet mix levels trim mute).outer = p.outer := rfl

@[simp] theorem Part.endCursorsOn_outer (sound : Fin 4) : (p.endCursorsOn sound).outer = p.outer := rfl

@[simp] theorem Part.endCursors_outer : p.endCursors.outer = p.outer := rfl

@[simp] theorem Part.setClickFetch_outer (sound : Fin 4) (fetch : Option ClickFetch) :
    (p.setClickFetch sound fetch).outer = p.outer := rfl

@[simp] theorem Part.loadSound_outer (sound : Fin 4) (address length : Nat) :
    (p.loadSound sound address length).outer = p.outer := by simp [Part.loadSound]

@[simp] theorem Part.refreshSound_outer (sound : Fin 4) : (p.refreshSound sound).outer = p.outer := by
  unfold Part.refreshSound; split <;> simp

@[simp] theorem Part.clickUnstable_outer (sound : Fin 4) : (p.clickUnstable sound).outer = p.outer := by
  simp [Part.clickUnstable]

@[simp] theorem Part.countClick_outer (sound : Fin 4) : (p.countClick sound).outer = p.outer := by
  unfold Part.countClick; split <;> simp

@[simp] theorem Part.clickFetched_outer (sound : Fin 4) (f : ClickFetch) :
    (p.clickFetched sound f).outer = p.outer := by unfold Part.clickFetched; split <;> simp

@[simp] theorem Part.clickWord_outer (order : ByteOrder) (sound : Fin 4) (f : ClickFetch) (bytes : List Byte) :
    (p.clickWord order sound f bytes).outer = p.outer := by simp [Part.clickWord]

@[simp] theorem Part.setPlayer_outer (i : Fin 4) (port : PlayerPort) :
    (p.setPlayer i port).outer = p.outer := rfl

@[simp] theorem Part.pedalValue_outer (i : Fin 4) (value : Nat) : (p.pedalValue i value).outer = p.outer := by
  unfold Part.pedalValue; dsimp only; repeat' split
  all_goals simp

@[simp] theorem Part.tapLevel_outer (i : Fin 4) (value : Nat) : (p.tapLevel i value).outer = p.outer := by
  simp [Part.tapLevel]

@[simp] theorem Part.controllerKept_outer (i : Fin 4) (number value : Nat) :
    (p.controllerKept i number value).outer = p.outer := by simp [Part.controllerKept]

@[simp] theorem Part.messageKept_outer (i : Fin 4) (m : Completed) : (p.messageKept i m).outer = p.outer := by
  unfold Part.messageKept; split <;> simp

@[simp] theorem Part.byteArrives_outer (i : Fin 4) (b : Byte) : (p.byteArrives i b).outer = p.outer := by
  unfold Part.byteArrives; repeat' split
  all_goals simp

@[simp] theorem Part.framingError_outer (i : Fin 4) : (p.framingError i).outer = p.outer := by
  simp [Part.framingError]

@[simp] theorem Part.makeShadowEntry_outer (f : ShadowFetch) : (p.makeShadowEntry f).outer = p.outer := by
  unfold Part.makeShadowEntry; split <;> simp

@[simp] theorem Part.widenEntry_outer (role : Role) (length : Nat) :
    (p.widenEntry role length).outer = p.outer := by simp [Part.widenEntry]

@[simp] theorem Part.widenFetched_outer (role : Role) (length : Nat) :
    (p.widenFetched role length).outer = p.outer := by
  unfold Part.widenFetched; dsimp only; split <;> simp

@[simp] theorem Part.finishEntry_outer (role : Role) : (p.finishEntry role).outer = p.outer := by
  simp [Part.finishEntry]

@[simp] theorem Part.swapRefreshedScene_outer (scene : Scene) :
    (p.swapRefreshedScene scene).outer = p.outer := by simp [Part.swapRefreshedScene]

@[simp] theorem Part.swapRefreshedSong_outer (song : Song) (sceneNext : Bool) :
    (p.swapRefreshedSong song sceneNext).outer = p.outer := by simp [Part.swapRefreshedSong]

@[simp] theorem Part.fetchDone_outer : p.fetchDone.outer = p.outer := by
  unfold Part.fetchDone; dsimp only; repeat' split
  all_goals simp

@[simp] theorem Part.refetchDone_outer (f : ShadowFetch) : (p.refetchDone f).outer = p.outer := by
  unfold Part.refetchDone; dsimp only; split <;> simp

@[simp] theorem Part.songFetched_outer (f : ShadowFetch) (song : Song) :
    (p.songFetched f song).outer = p.outer := by
  unfold Part.songFetched; dsimp only; repeat' split
  all_goals simp

@[simp] theorem Part.fetchFailed_outer (outcome : CueOutcome) : (p.fetchFailed outcome).outer = p.outer := by
  unfold Part.fetchFailed; repeat' split
  all_goals simp

@[simp] theorem Part.shadowWord_outer (order : ByteOrder) (f : ShadowFetch) (word : List Byte) :
    (p.shadowWord order f word).outer = p.outer := by unfold Part.shadowWord; split <;> simp

@[simp] theorem Part.countEntry_outer (role : Role) (count : Nat) :
    (p.countEntry role count).outer = p.outer := by simp [Part.countEntry]

@[simp] theorem Part.dropFetched_outer (f : ShadowFetch) (hitSong : Bool) :
    (p.dropFetched f hitSong).outer = p.outer := by simp [Part.dropFetched]

@[simp] theorem Part.restartFetch_outer (f : ShadowFetch) (hitSong : Bool) :
    (p.restartFetch f hitSong).outer = p.outer := by
  unfold Part.restartFetch; rw [foldl_outer _ (fun q r => by simp)]; simp

@[simp] theorem Part.countShadow_outer (hitSong hitScene : Bool) :
    (p.countShadow hitSong hitScene).outer = p.outer := by
  unfold Part.countShadow; dsimp only; repeat' split
  all_goals simp

@[simp] theorem Part.passTurn_outer (turn : Fin 5) : (p.passTurn turn).outer = p.outer := rfl

@[simp] theorem Part.vampSet_outer : p.vampSet.outer = p.outer := by simp [Part.vampSet]

@[simp] theorem Part.vampRelease_outer (nextBar : Bool) : (p.vampRelease nextBar).outer = p.outer := by
  simp [Part.vampRelease]

@[simp] theorem Part.jumpNeedsFetch_outer (a : ArmedCue) (scene : Nat) :
    (p.jumpNeedsFetch a scene).outer = p.outer := by simp [Part.jumpNeedsFetch]

@[simp] theorem Part.jumpPlain_outer (target : Nat) : (p.jumpPlain target).outer = p.outer := by
  simp [Part.jumpPlain]

@[simp] theorem Part.executeJump_outer (a : ArmedCue) (target : Nat) :
    (p.executeJump a target).outer = p.outer := by
  unfold Part.executeJump; repeat' split
  all_goals simp

@[simp] theorem Part.sceneRefresh_outer : p.sceneRefresh.1.outer = p.outer := by simp [Part.sceneRefresh]

@[simp] theorem Part.remapEntry_outer (role : Role) : (p.remapEntry role).outer = p.outer := by
  unfold Part.remapEntry; split <;> simp

@[simp] theorem Part.installRegion_outer (table : RegionTable) : (p.installRegion table).outer = p.outer := by
  unfold Part.installRegion
  rw [foldl_outer _ (fun q r => Part.remapEntry_outer q r)]; simp

@[simp] theorem Part.clockSelect_outer (source : ClockSource) : (p.clockSelect source).1.outer = p.outer := by
  unfold Part.clockSelect; split <;> simp

@[simp] theorem Part.transportCue_outer (action : TransportAction) :
    (p.transportCue action).1.outer = p.outer := by simp [Part.transportCue]

@[simp] theorem Part.plainEffect_outer (a : ArmedCue) : (p.plainEffect a).1.outer = p.outer := by
  unfold Part.plainEffect; repeat' split
  all_goals simp

@[simp] theorem Part.executeCue_outer (a : ArmedCue) : (p.executeCue a).outer = p.outer := by
  unfold Part.executeCue; split <;> simp

@[simp] theorem Part.executeNext_outer : p.executeNext.outer = p.outer := by
  unfold Part.executeNext; split <;> simp

@[simp] theorem Part.executeUpTo_outer (n : Nat) : (p.executeUpTo n).outer = p.outer := by
  induction n generalizing p with
  | zero => rfl
  | succ n ih => unfold Part.executeUpTo; rw [ih]; simp

@[simp] theorem Part.executeDue_outer : p.executeDue.outer = p.outer := by simp [Part.executeDue]

@[simp] theorem Part.makeSwitch_outer : p.makeSwitch.outer = p.outer := by
  unfold Part.makeSwitch; repeat' split
  all_goals simp

@[simp] theorem Part.dropPosted_outer (slot : Fin 32) : (p.dropPosted slot).outer = p.outer := rfl

@[simp] theorem Part.refuseTaken_outer (slot : Fin 32) (outcome : CueOutcome) (notify : Bool) :
    (p.refuseTaken slot outcome notify).outer = p.outer := by simp [Part.refuseTaken]

@[simp] theorem Part.supersede_outer (a : ArmedCue) (frees : Bool) : (p.supersede a frees).outer = p.outer := by
  simp [Part.supersede]

@[simp] theorem Part.changeScene_outer (slot : Fin 32) (fetch : Option ShadowFetch) :
    (p.changeScene slot fetch).outer = p.outer := by
  unfold Part.changeScene; repeat' split
  all_goals simp

@[simp] theorem Part.arm_outer (slot : Fin 32) (cue : Cue) (boundary : Boundary) (notify : Bool) :
    (p.arm slot cue boundary notify).outer = p.outer := by simp [Part.arm]

@[simp] theorem Part.takeDone_outer (order : ByteOrder) (slot : Fin 32) (bytes : List Byte) :
    (p.takeDone order slot bytes).outer = p.outer := by
  unfold Part.takeDone; dsimp only; repeat' split
  all_goals simp

@[simp] theorem Part.takeWord_outer (order : ByteOrder) (t : TakeRead) (word : List Byte) :
    (p.takeWord order t word).outer = p.outer := by simp [Part.takeWord]

@[simp] theorem Part.startTake_outer : p.startTake.outer = p.outer := by unfold Part.startTake; split <;> simp

@[simp] theorem Part.remapWord_outer (order : ByteOrder) (a : ArmedCue) (read word : List Byte) :
    (p.remapWord order a read word).outer = p.outer := by
  unfold Part.remapWord; dsimp only; repeat' split
  all_goals simp

@[simp] theorem Part.post_outer (slot : Fin 32) : (p.post slot).outer = p.outer := by simp [Part.post]

@[simp] theorem Part.withdrawPosted_outer (slot : Fin 32) : (p.withdrawPosted slot).outer = p.outer := by
  unfold Part.withdrawPosted; dsimp only; repeat' split
  all_goals simp

@[simp] theorem Part.withdrawArmed_outer (a : ArmedCue) : (p.withdrawArmed a).outer = p.outer := by
  simp [Part.withdrawArmed]

@[simp] theorem Part.withdraw_outer (slot : Fin 32) : (p.withdraw slot).outer = p.outer := by
  unfold Part.withdraw; split <;> simp

@[simp] theorem Part.refuseStopped_outer (slot : Fin 32) (notify : Bool) :
    (p.refuseStopped slot notify).outer = p.outer := by simp [Part.refuseStopped]

@[simp] theorem Part.refuseAll_outer : p.refuseAll.outer = p.outer := by
  unfold Part.refuseAll
  have h : ∀ (q : Part), (q.cues.arms.foldl (fun p a => p.refuseStopped a.slot a.notify)
      (q.cues.posted.foldl (fun p slot => p.refuseStopped slot false) q)).outer = q.outer := fun q => by
    rw [foldl_outer _ (fun q a => by simp), foldl_outer _ (fun q a => by simp)]
  rw [← h p]; dsimp only; split <;> simp

@[simp] theorem Part.settleEnded_outer (role : Role) : (p.settleEnded role).outer = p.outer := by
  unfold Part.settleEnded; split <;> simp

@[simp] theorem Part.endSettle_outer (role : Role) : (p.endSettle role).outer = p.outer := by
  simp [Part.endSettle]

@[simp] theorem Part.editLive_outer (role : Role) : (p.editLive role).outer = p.outer := by simp [Part.editLive]

@[simp] theorem Part.editStaged_outer (role : Role) : (p.editStaged role).outer = p.outer := by
  simp [Part.editStaged]

@[simp] theorem Part.editOne_outer (kind : RegionKind) (role : Role) :
    (Part.editOne kind p role).outer = p.outer := by
  unfold Part.editOne; repeat' split
  all_goals simp

@[simp] theorem Part.countWrite_outer (roles : List Role) (hitSong hitScene : Bool) (clicks : List (Fin 4)) :
    (p.countWrite roles hitSong hitScene clicks).outer = p.outer := by
  unfold Part.countWrite
  rw [foldl_outer _ (fun q i => by split <;> simp)]; simp

@[simp] theorem Part.edit_outer (kind : RegionKind) (roles : List Role) :
    (p.edit kind roles).outer = p.outer := by
  unfold Part.edit; simp [foldl_outer _ (fun q r => Part.editOne_outer q _ r)]

@[simp] theorem Part.guardRefuse_outer (roles : List Role) (address : Nat) (directory : Bool) :
    (p.guardRefuse roles address directory).outer = p.outer := by simp [Part.guardRefuse]

@[simp] theorem Part.slotWritten_outer (item : WriteItem) (rest : List SlotWord) :
    (p.slotWritten item rest).outer = p.outer := by unfold Part.slotWritten; split <;> simp

@[simp] theorem Part.tickCountdowns_outer : p.tickCountdowns.outer = p.outer := by simp [Part.tickCountdowns]

@[simp] theorem Part.setAcc_outer (acc : Nat) (beatOpen : Bool) : (p.setAcc acc beatOpen).outer = p.outer := rfl

@[simp] theorem Part.syncPulse_outer : p.syncPulse.outer = p.outer := by simp [Part.syncPulse]

@[simp] theorem Part.fineTick_outer (index : Nat) : (p.fineTick index).outer = p.outer := by
  simp [Part.fineTick]

@[simp] theorem Part.endSong_outer (final : Stamp) : (p.endSong final).outer = p.outer := by simp [Part.endSong]

@[simp] theorem Part.boundaryTaken_outer (kind : BoundaryKind) : (p.boundaryTaken kind).1.outer = p.outer := by
  simp [Part.boundaryTaken]

@[simp] theorem Part.startFrame_outer : p.startFrame.1.outer = p.outer := by simp [Part.startFrame]

@[simp] theorem Part.beatBoundary_outer : p.beatBoundary.1.outer = p.outer := by
  have h := p.advance_outer
  unfold Part.beatBoundary; split <;> simp_all

@[simp] theorem Part.accumulate_outer : p.accumulate.1.outer = p.outer := by simp [Part.accumulate]

@[simp] theorem Part.timelineAct_outer : p.timelineAct.1.outer = p.outer := by simp [Part.timelineAct]

@[simp] theorem Part.loaderTakes_outer (kind : BoundaryKind) : (p.loaderTakes kind).outer = p.outer := by
  simp [Part.loaderTakes]

@[simp] theorem Part.placeActs_outer (order : FrameOrder) (kind : BoundaryKind) (place : FramePlace) :
    (p.placeActs order kind place).outer = p.outer := by simp [Part.placeActs]

@[simp] theorem Part.cuesUnannounced_outer (order : FrameOrder) (afterRender : Bool) :
    (p.cuesUnannounced order afterRender).outer = p.outer := by simp [Part.cuesUnannounced]

@[simp] theorem Part.blocksAct_outer (order : FrameOrder) (news : FrameNews) :
    (p.blocksAct order news).outer = p.outer := by unfold Part.blocksAct; split <;> simp

end Sys2Proof.Machine
end

