-- ==== Sys2Proof/Laws/TrackerFrame.lean ====
section
/-! SUPPORT. What the note tracker's acts keep, field by field (Chapter 6). -/

namespace Sys2Proof.Machine

/-- What the note tracker's acts never touch: everything but the tracker, the voice ports, the pedals and the journal. -/
structure Rest where
  timeline : Timeline
  pointer : SongPointer
  click : ClickGen
  tdm : Vector Word 8
  flags : BitVec 8
  loader : Loader
  cues : CueUnit
  watch : Watch
  irq : Interrupts

def Part.rest (p : Part) : Rest where
  timeline := p.timeline
  pointer := p.pointer
  click := p.click
  tdm := p.tdm
  flags := p.flags
  loader := p.loader
  cues := p.cues
  watch := p.watch
  irq := p.irq

@[simp] theorem rest_mk (e : EngineState) (se : StartError) (st : Starting) (l : Layout) (m : Mail) (i :
    Interrupts) (tl : Timeline) (sp : SongPointer) (c : ClickGen) (t : Vector Word 8) (pl : Vector PlayerPort 4)
    (f : BitVec 8) (tr : Tracker) (v : Voices) (lo : Loader) (cu : CueUnit) (w : Watch) (a : Arbiter) (n :
    Notice) : (Part.mk e se st l m i tl sp c t pl f tr v lo cu w a n).rest = Rest.mk tl sp c t f lo cu w i :=
    rfl

@[simp] theorem rest_eta (p : Part) : Rest.mk p.timeline p.pointer p.click p.tdm p.flags p.loader p.cues p.watch
    p.irq = p.rest := rfl

@[simp] theorem rest_ite (c : Prop) [Decidable c] (a b : Part) : (if c then a else b).rest = if c then a.rest
    else b.rest := apply_ite _ _ _ _

theorem foldl_rest {α : Type} (f : Part → α → Part) (h : ∀ p a, (f p a).rest = p.rest) (l : List α) (p : Part) :
    (l.foldl f p).rest = p.rest := by
  induction l generalizing p with
  | nil => rfl
  | cons a rest ih => exact (ih (f p a)).trans (h p a)

variable (p : Part)

@[simp] theorem Part.journal_rest (event : JournalEvent) : (p.journal event).rest = p.rest := rfl

@[simp] theorem Part.setPedal_rest (player : Fin 4) (pedal : Pedal) : (p.setPedal player pedal).rest = p.rest :=
    rfl

@[simp] theorem Part.releaseKey_rest (player : Fin 4) (key velocity : Nat) : (p.releaseKey player key
    velocity).rest = p.rest := by simp [Part.releaseKey]

@[simp] theorem Part.makeRoom_rest : p.makeRoom.rest = p.rest := by
  unfold Part.makeRoom; split
  · rfl
  · simp [foldl_rest Part.journal (fun q e => Part.journal_rest q e)]

@[simp] theorem Part.enterNote_rest (player : Fin 4) (key : Nat) (notes : List RoutedNote) : (p.enterNote player
    key notes).rest = p.rest := by simp [Part.enterNote]

@[simp] theorem Part.trackNoteOn_rest (player : Fin 4) (key : Nat) (notes : List RoutedNote) : (p.trackNoteOn
    player key notes).rest = p.rest := by simp [Part.trackNoteOn]

@[simp] theorem Part.deliverOwed_rest (voice : Fin 8) : (p.deliverOwed voice).rest = p.rest := by
  simp [Part.deliverOwed]

@[simp] theorem Part.sendDowns_rest (player : Fin 4) : (p.sendDowns player).rest = p.rest := by
  simp [Part.sendDowns]

@[simp] theorem Part.pedalDown_rest (player : Fin 4) : (p.pedalDown player).rest = p.rest := by
  simp [Part.pedalDown]

@[simp] theorem Part.pedalUp_rest (player : Fin 4) : (p.pedalUp player).rest = p.rest := by simp [Part.pedalUp]

@[simp] theorem Part.carryPedals_rest : p.carryPedals.rest = p.rest := by
  unfold Part.carryPedals
  exact foldl_rest _ (fun q i => by split <;> simp) _ _

@[simp] theorem Part.offerAllNotesOff_rest (l : List Dest) : (p.offerAllNotesOff l).rest = p.rest := by
  induction l generalizing p with
  | nil => rfl
  | cons d rest ih => unfold Part.offerAllNotesOff; rw [ih]; split <;> simp

@[simp] theorem Part.panic_rest (source : PanicSource) : (p.panic source).1.rest = p.rest := by
  unfold Part.panic
  simp [foldl_rest (fun (p : Part) (i : Fin 4) => (p.setPedal i .up).pedalUp i) (fun q i => by simp)]

end Sys2Proof.Machine
end

