-- ==== Sys2Proof/Laws/Tracker.lean ====
section
/-! SUPPORT. What releasing, raising and offering leave: the held-note table, the fan-out sets, the voice ports
(Chapters 6 and 7). -/

namespace Sys2Proof.Machine

/-! ### Voice ports: what an offer can change -/

@[simp] theorem Voices.setPort_reserve (v : Voices) (i : Fin 8) (port : VoicePort) :
    (v.setPort i port).reserve = v.reserve := rfl

@[simp] theorem Voices.admit_reserve (v : Voices) (i : Fin 8) (m : Message) : (v.accept i m).reserve = v.reserve := rfl

@[simp] theorem Voices.offer_reserve (v : Voices) (cls : Admission) (i : Fin 8) (m : Message) :
    (v.offer cls i m).2.reserve = v.reserve := by
  unfold Voices.offer; split <;> simp

@[simp] theorem releaseDests_reserve (velocity : Nat) (l : List NoteDest) (v : Voices) :
    (releaseDests velocity l v).2.reserve = v.reserve := by
  induction l generalizing v with
  | nil => rfl
  | cons d rest ih => simp [releaseDests, ih]

@[simp] theorem HeldEntry.release_reserve (e : HeldEntry) (velocity : Nat) (v : Voices) :
    (e.release velocity v).2.reserve = v.reserve := by simp [HeldEntry.release]

@[simp] theorem releaseWhere_reserve (sel : HeldEntry → Bool) (velocity : Nat) (l : List HeldEntry) (v : Voices) :
    (releaseWhere sel velocity l v).2.1.reserve = v.reserve := by
  induction l generalizing v with
  | nil => rfl
  | cons e rest ih => unfold releaseWhere; split <;> simp [ih]

@[simp] theorem raiseSet_reserve (l : List FanEntry) (v : Voices) : (raiseSet l v).2.1.reserve = v.reserve := by
  induction l generalizing v with
  | nil => rfl
  | cons f rest ih => simp only [raiseSet]; split_ifs <;> simp [ih]

@[simp] theorem Part.offerAllNotesOff_reserve (p : Part) (l : List Dest) :
    (p.offerAllNotesOff l).voices.reserve = p.voices.reserve := by
  induction l generalizing p with
  | nil => rfl
  | cons d rest ih => unfold Part.offerAllNotesOff; rw [ih]; split <;> simp

/-! ### Releasing entries -/

theorem HeldEntry.release_not_sounding (e : HeldEntry) (velocity : Nat) (v : Voices) :
    (e.release velocity v).1.sounding = false := rfl

theorem HeldEntry.sounding_iff (e : HeldEntry) : e.sounding = true ↔ e.state = .sounding := by
  simp [HeldEntry.sounding]

/-- After a release the entries still Sounding are those Sounding before that the test did not select, in order. -/
theorem releaseWhere_sounding (sel : HeldEntry → Bool) (velocity : Nat) (l : List HeldEntry) (v : Voices) :
    (releaseWhere sel velocity l v).1.filter HeldEntry.sounding =
      l.filter fun e => e.sounding && !sel e := by
  induction l generalizing v with
  | nil => rfl
  | cons e rest ih =>
    unfold releaseWhere
    split
    · rename_i h
      simp only [Bool.and_eq_true] at h
      have h1 := e.release_not_sounding velocity v
      dsimp only
      split <;> simp [ih, h, h1]
    · rename_i h
      dsimp only
      cases hs : e.sounding <;> simp_all

/-- The count of a release is that of the Sounding entries the test selects. -/
theorem releaseWhere_count (sel : HeldEntry → Bool) (velocity : Nat) (l : List HeldEntry) (v : Voices) :
    (releaseWhere sel velocity l v).2.2 = (l.filter fun e => e.sounding && sel e).length := by
  induction l generalizing v with
  | nil => rfl
  | cons e rest ih =>
    unfold releaseWhere
    split <;> simp_all

/-- A release never lengthens the table. -/
theorem releaseWhere_length (sel : HeldEntry → Bool) (velocity : Nat) (l : List HeldEntry) (v : Voices) :
    (releaseWhere sel velocity l v).1.length ≤ l.length := by
  induction l generalizing v with
  | nil => exact le_refl _
  | cons e rest ih =>
    unfold releaseWhere
    split
    · dsimp only
      split
      · exact Nat.le_succ_of_le (ih _)
      · exact Nat.succ_le_succ (ih _)
    · exact Nat.succ_le_succ (ih _)

/-- Releasing every entry leaves none Sounding. -/
theorem releaseWhere_all (velocity : Nat) (l : List HeldEntry) (v : Voices) :
    ∀ e ∈ (releaseWhere (fun _ => true) velocity l v).1, e.state ≠ .sounding := by
  intro e he hs
  have h := releaseWhere_sounding (fun _ => true) velocity l v
  have h1 : e ∈ (releaseWhere (fun _ => true) velocity l v).1.filter HeldEntry.sounding :=
    List.mem_filter.2 ⟨he, e.sounding_iff.2 hs⟩
  rw [h] at h1
  simp at h1

/-! ### Pedals -/

/-- A pedal-up leaves only UpOwed destinations in the set. -/
theorem raiseSet_upOwed (l : List FanEntry) (v : Voices) : ∀ f ∈ (raiseSet l v).1, f.upOwed = true := by
  induction l generalizing v with
  | nil => simp [raiseSet]
  | cons f rest ih =>
    unfold raiseSet
    split
    · rename_i h
      simp only [List.mem_cons, forall_eq_or_imp]
      exact ⟨h, ih _⟩
    · dsimp only
      split
      · exact ih _
      · simp only [List.mem_cons, forall_eq_or_imp]
        exact ⟨trivial, ih _⟩

theorem Part.pedalUp_fan (p : Part) (j i : Fin 4) :
    (p.pedalUp j).tracker.fan[i] = if j = i then (raiseSet p.tracker.fan[j] p.voices).1 else p.tracker.fan[i] := by
  simp only [Part.pedalUp, Fin.getElem_fin, Vector.getElem_set, Fin.ext_iff]

theorem Part.pedalUp_upOwed (p : Part) (j i : Fin 4) (h : j ≠ i → ∀ f ∈ p.tracker.fan[i], f.upOwed = true) :
    ∀ f ∈ (p.pedalUp j).tracker.fan[i], f.upOwed = true := by
  rw [p.pedalUp_fan j i]
  split
  · exact raiseSet_upOwed _ _
  · rename_i hne
    exact h hne

@[simp] theorem Part.pedalUp_keeps (p : Part) (j : Fin 4) :
    (p.pedalUp j).tracker.table = p.tracker.table ∧ (p.pedalUp j).players = p.players ∧
      (p.pedalUp j).voices.reserve = p.voices.reserve ∧ (p.pedalUp j).notice = p.notice := by
  simp [Part.pedalUp]

@[simp] theorem Part.offerAllNotesOff_keeps (p : Part) (l : List Dest) :
    (p.offerAllNotesOff l).tracker = p.tracker ∧ (p.offerAllNotesOff l).players = p.players := by
  induction l generalizing p with
  | nil => exact ⟨rfl, rfl⟩
  | cons d rest ih =>
    unfold Part.offerAllNotesOff
    rw [(ih _).1, (ih _).2]
    split <;> simp

/-- Every pedal set to Up with its pedal-up event, in port order: what a Panic does between its releases and its
all-notes-off (R96). -/
theorem raiseAll_spec (p : Part) (i : Fin 4) :
    let q := allPlayers.foldl (fun p i => (p.setPedal i .up).pedalUp i) p
    q.players[i] = { p.players[i] with pedal := .up } ∧ (∀ f ∈ q.tracker.fan[i], f.upOwed = true) ∧
      q.tracker.table = p.tracker.table ∧ q.voices.reserve = p.voices.reserve := by
  intro q
  have hq : q = (((((((p.setPedal 0 .up).pedalUp 0).setPedal 1 .up).pedalUp 1).setPedal 2 .up).pedalUp 2).setPedal 3
    .up).pedalUp 3 := rfl
  rw [hq]
  refine ⟨?_, ?_, by simp, by simp⟩
  · fin_cases i <;> simp [Part.setPedal]
  · refine Part.pedalUp_upOwed _ 3 i fun h3 => ?_
    refine Part.pedalUp_upOwed _ 2 i fun h2 => ?_
    refine Part.pedalUp_upOwed _ 1 i fun h1 => ?_
    refine Part.pedalUp_upOwed _ 0 i fun h0 => ?_
    fin_cases i <;> simp_all

/-- A Panic (R96, R97): nothing Sounding, every pedal Up, only UpOwed destinations, and the count released. -/
theorem Part.panic_spec (p : Part) (source : PanicSource) :
    (∀ e ∈ (p.panic source).1.tracker.table, e.state ≠ .sounding) ∧
      (∀ i : Fin 4, (p.panic source).1.players[i] = { p.players[i] with pedal := .up } ∧
        ∀ f ∈ (p.panic source).1.tracker.fan[i], f.upOwed = true) ∧
      (p.panic source).2 = (p.tracker.table.filter HeldEntry.sounding).length ∧
      (p.panic source).1.voices.reserve = p.voices.reserve := by
  unfold Part.panic
  simp only [Part.journal_fields, Part.offerAllNotesOff_keeps, Part.offerAllNotesOff_reserve]
  refine ⟨?_, fun i => ?_, ?_, ?_⟩
  · rw [(raiseAll_spec _ 0).2.2.1]
    exact releaseWhere_all _ _ _
  · exact ⟨(raiseAll_spec _ i).1, (raiseAll_spec _ i).2.1⟩
  · simp [releaseWhere_count]
  · rw [(raiseAll_spec _ 0).2.2.2]
    simp

end Sys2Proof.Machine
end

