-- ==== Sys2Proof/Laws/Voices.lean ====
section
/-! SUPPORT. What the voice ports hold after messages have been admitted (7.2, 7.3): Voices.received step by step. -/

namespace Sys2Proof.Machine

/-- A transmitter's choice touches only the transmitter. -/
theorem VoicePort.choose_keeps (v : VoicePort) :
    v.choose = { v with tx := v.choose.tx, sent := v.choose.sent } := by
  unfold VoicePort.choose
  split
  · rfl
  · split <;> rfl

theorem VoicePort.wake_keeps (v : VoicePort) : v.wake = { v with tx := v.wake.tx, sent := v.wake.sent } := by
  unfold VoicePort.wake
  split
  · exact v.choose_keeps
  · rfl

theorem VoicePort.admit_keeps (v : VoicePort) (m : Message) :
    v.accept m = { v with
      queue := v.queue ++ if v.enabled then [m] else []
      tx := (v.accept m).tx
      sent := (v.accept m).sent } := by
  unfold VoicePort.accept
  split
  · exact VoicePort.wake_keeps _
  · simp

theorem Voices.setPort_ports (v : Voices) (i j : Fin 8) (port : VoicePort) :
    (v.setPort i port).ports[j] = if i = j then port else v.ports[j] := by
  show (v.ports.set i port)[j] = _
  by_cases h : i = j
  · subst h; simp
  · rw [if_neg h]; simp [Fin.val_inj, h]

/-- One message admitted. -/
theorem received_accept (v : Voices) (i : Fin 8) (m : Message) : v.received (v.accept i m) [(i, m)] := by
  refine ⟨rfl, fun j => ?_⟩
  unfold Voices.accept
  rw [Voices.setPort_ports]
  by_cases h : i = j
  · subst h
    have hl : ([(i, m)].filter fun x => x.1 = i).map Prod.snd = [m] := by simp
    rw [if_pos rfl, hl]
    exact VoicePort.admit_keeps _ _
  · have hl : ([(i, m)].filter fun x => x.1 = j).map Prod.snd = [] := by simp [h]
    rw [if_neg h, hl]; simp

theorem received_nil (v : Voices) : v.received v [] := ⟨rfl, fun i => by simp⟩

/-- What is received first stands ahead. -/
theorem received_append {u v w : Voices} {a b : List (Fin 8 × Message)} (h1 : u.received v a) (h2 : v.received w b) :
    u.received w (a ++ b) := by
  refine ⟨h2.1.trans h1.1, fun i => ?_⟩
  have e1 := h1.2 i
  have e2 := h2.2 i
  rw [e2]
  generalize w.ports[i] = x at *
  rw [e1]
  dsimp only
  congr 1
  split <;> simp

theorem received_cons {u v w : Voices} {i : Fin 8} {m : Message} {b : List (Fin 8 × Message)}
    (h1 : v = u.accept i m) (h2 : v.received w b) : u.received w ((i, m) :: b) := by
  subst h1; exact received_append (received_accept u i m) h2

theorem received_enabled {v w : Voices} {a : List (Fin 8 × Message)} (h : v.received w a) (i : Fin 8) :
    (w.ports[i]).enabled = (v.ports[i]).enabled := by rw [h.2 i]

/-- Room that a number of messages leaves. -/
theorem roomFor_received {v w : Voices} {a : List (Fin 8 × Message)} {n : Nat} (h : v.received w a)
    (hr : v.roomFor (a.length + n)) : w.roomFor n := by
  intro i hi
  rw [received_enabled h] at hi
  have := hr i hi
  rw [h.2 i]
  dsimp only
  rw [if_pos hi, List.length_append, List.length_map]
  have := List.length_filter_le (fun m => decide (m.1 = i)) a
  omega

/-- With room beyond the reserve an opening message is admitted. -/
theorem offer_opening {v : Voices} {n : Nat} (h : v.roomFor (v.reserve + (n + 1))) (i : Fin 8) (m : Message) :
    v.offer .opening i m = (true, v.accept i m) := by
  unfold Voices.offer
  rw [if_pos]
  unfold Voices.admits
  cases he : (v.ports[i]).enabled with
  | false => rfl
  | true =>
    have := h i he
    exact decide_eq_true (show v.reserve < (v.ports[i]).free by unfold VoicePort.free; omega)

/-- With a free entry a releasing message is admitted. -/
theorem offer_releasing {v : Voices} {n : Nat} (h : v.roomFor (n + 1)) (i : Fin 8) (m : Message) :
    v.offer .releasing i m = (true, v.accept i m) := by
  unfold Voices.offer
  rw [if_pos]
  unfold Voices.admits
  cases he : (v.ports[i]).enabled with
  | false => rfl
  | true =>
    have := h i he
    exact decide_eq_true (show 1 ≤ (v.ports[i]).free by unfold VoicePort.free; omega)

theorem roomFor_admit {v : Voices} {k n : Nat} (h : v.roomFor (k + (n + 1))) (i : Fin 8) (m : Message) :
    (v.accept i m).roomFor (k + n) :=
  roomFor_received (received_accept v i m) (show v.roomFor (1 + (k + n)) by rw [show 1 + (k + n) = k + (n + 1) by omega]; exact h)

/-- Opening messages offered in order with room for all of them. -/
theorem offerAll_received : ∀ (l : List (Fin 8 × Message)) (v : Voices), v.roomFor (v.reserve + l.length) →
    v.received (v.offerAll .opening l) l
  | [], v, _ => received_nil v
  | (i, m) :: rest, v, h => by
    unfold Voices.offerAll
    rw [offer_opening (by simpa using h)]
    exact received_cons rfl (offerAll_received rest _ (roomFor_admit (by simpa using h) i m))

/-- The note-offs of an entry with room for all of them. -/
theorem releaseDests_received (velocity : Nat) : ∀ (l : List NoteDest) (v : Voices), v.roomFor l.length →
    (releaseDests velocity l v).1 = l.map (fun d => { d with delivered := true }) ∧
      v.received (releaseDests velocity l v).2
        (l.map fun d => (d.dest.voice, noteOffMessage d.dest.channel d.key velocity))
  | [], v, _ => ⟨rfl, received_nil v⟩
  | d :: rest, v, h => by
    unfold releaseDests
    rw [offer_releasing (by simpa using h)]
    dsimp only
    have ih := releaseDests_received velocity rest (v.accept d.dest.voice _)
      (by simpa using roomFor_admit (k := 0) (by simpa using h) d.dest.voice (noteOffMessage d.dest.channel d.key velocity))
    exact ⟨by rw [ih.1]; simp, received_cons rfl ih.2⟩

/-- The note-ons of a list with room for all of them (R86). -/
theorem offerNotes_received : ∀ (l : List RoutedNote) (v : Voices), v.roomFor (v.reserve + l.length) →
    (offerNotes l v).1 = l.map (fun n => { dest := n.dest, key := n.key, delivered := false }) ∧
      (offerNotes l v).2.2 = 0 ∧
      v.received (offerNotes l v).2.1
        (l.map fun n => (n.dest.voice, noteOnMessage n.dest.channel n.key n.velocity))
  | [], v, _ => ⟨rfl, rfl, received_nil v⟩
  | n :: rest, v, h => by
    unfold offerNotes
    rw [offer_opening (by simpa using h)]
    dsimp only
    have ih := offerNotes_received rest (v.accept n.dest.voice _)
      (roomFor_admit (by simpa using h) n.dest.voice (noteOnMessage n.dest.channel n.key n.velocity))
    exact ⟨by rw [if_pos rfl, ih.1]; rfl, by rw [if_pos rfl]; exact ih.2.1, by rw [if_pos rfl]; exact received_cons rfl ih.2.2⟩

end Sys2Proof.Machine
end

