-- ==== Sys2Proof/Laws/Bounds.lean ====
section
/-! SUPPORT. The bounds of the queues, of the held-note table and of the accepted list (R82, R101, R108, R181) kept by
every operation of the part. -/

namespace Sys2Proof.Machine

/-! ### Voice ports -/

/-- One port within its bounds (R101, R108). -/
def VoicePort.bounded (v : VoicePort) : Prop := v.queue.length ≤ Config.queueSize ∧ v.slot.length ≤ 2

/-- The ports within their bounds (R101, R108). -/
def Voices.bounded (v : Voices) : Prop := ∀ i : Fin 8, (v.ports[i]).bounded

theorem VoicePort.choose_bounded {v : VoicePort} (h : v.bounded) : v.choose.bounded := by
  rw [VoicePort.choose_keeps]; exact h

theorem VoicePort.wake_bounded {v : VoicePort} (h : v.bounded) : v.wake.bounded := by
  rw [VoicePort.wake_keeps]; exact h

theorem Voices.setPort_bounded {v : Voices} (i : Fin 8) {port : VoicePort} (h : v.bounded) (hp : port.bounded) :
    (v.setPort i port).bounded := fun j => by
  rw [Voices.setPort_ports]; split
  · exact hp
  · exact h j

theorem slotAfter_length {slot : List RtByte} (request : RtByte) (h : slot.length ≤ 2) :
    (slotAfter slot request).length ≤ 2 := by
  unfold slotAfter
  split
  · simp
  · simp
  · split <;> simpa using h

theorem VoicePort.request_bounded {v : VoicePort} (request : RtByte) (h : v.bounded) : (v.request request).bounded := by
  unfold VoicePort.request; split
  · exact VoicePort.wake_bounded ⟨h.1, slotAfter_length request h.2⟩
  · exact h

theorem Voices.request_bounded {v : Voices} (request : RtByte) (h : v.bounded) : (v.request request).bounded := fun i => by
  unfold Voices.request
  simpa using VoicePort.request_bounded request (h i)

theorem VoicePort.finishByte_bounded {v : VoicePort} (h : v.bounded) : v.finishByte.1.bounded := by
  unfold VoicePort.finishByte
  split
  · exact h
  · exact h
  · refine ⟨h.1, ?_⟩
    simp only [List.length_tail]; have := h.2; omega
  · split
    · exact h
    · rename_i message rest hq
      split
      · exact h
      · refine ⟨?_, h.2⟩
        have := h.1; rw [hq] at this; simp only [List.length_cons] at this; show rest.length ≤ _; omega

/-- A port with room takes a message. -/
theorem VoicePort.admit_bounded {v : VoicePort} (m : Message) (h : v.bounded)
    (room : v.enabled = true → v.queue.length + 1 ≤ Config.queueSize) : (v.accept m).bounded := by
  unfold VoicePort.accept; split
  · rename_i he
    exact VoicePort.wake_bounded ⟨by simpa using room he, h.2⟩
  · exact h

theorem Voices.offer_bounded {v : Voices} (cls : Admission) (i : Fin 8) (m : Message) (h : v.bounded) :
    (v.offer cls i m).2.bounded := by
  unfold Voices.offer; split
  · rename_i ha
    refine Voices.setPort_bounded i h (VoicePort.admit_bounded m (h i) fun he => ?_)
    unfold Voices.admits at ha
    rw [he] at ha
    cases cls
    · have ha : v.reserve < (v.ports[i]).free := of_decide_eq_true ha
      unfold VoicePort.free at ha; omega
    · have ha : 1 ≤ (v.ports[i]).free := of_decide_eq_true ha
      unfold VoicePort.free at ha; omega
  · exact h

theorem Voices.offerAll_bounded (cls : Admission) : ∀ (l : List (Fin 8 × Message)) {v : Voices}, v.bounded →
    (v.offerAll cls l).bounded
  | [], _, h => h
  | (i, m) :: rest, _, h => Voices.offerAll_bounded cls rest (Voices.offer_bounded cls i m h)

theorem admitBatch_received : ∀ (l : List SetupMessage) (v : Voices),
    v.received (v.admitBatch l) (l.map fun m => (m.voice, m.message))
  | [], v => received_nil v
  | _ :: rest, _ => received_cons rfl (admitBatch_received rest _)

theorem batchCount_eq (l : List SetupMessage) (i : Fin 8) :
    (((l.map fun m => (m.voice, m.message)).filter fun m => m.1 = i).map (·.2)).length = batchCount l i := by
  unfold batchCount
  induction l with
  | nil => rfl
  | cons m rest ih =>
    by_cases hm : m.voice = i
    · simpa [hm] using ih
    · simpa [hm] using ih

theorem Voices.admitBatch_bounded {v : Voices} (batch : List SetupMessage) (h : v.bounded) (fits : v.batchFits batch = true) :
    (v.admitBatch batch).bounded := fun i => by
  have hr := (admitBatch_received batch v).2 i
  have hc := batchCount_eq batch i
  rw [hr]
  refine ⟨?_, (h i).2⟩
  have hq := (h i).1
  cases he : (v.ports[i]).enabled with
  | false => simpa using hq
  | true =>
    simp only [if_true, List.length_append, hc]
    by_cases hz : batchCount batch i = 0
    · omega
    · unfold batchCount at hz ⊢
      obtain ⟨m, hm⟩ := List.exists_mem_of_length_pos (Nat.pos_of_ne_zero hz)
      obtain ⟨hmem, hv⟩ := List.mem_filter.1 hm
      have hv : m.voice = i := by simpa using hv
      subst hv
      have := List.all_eq_true.1 fits m hmem
      rw [he] at this
      have : batchCount batch m.voice + v.reserve ≤ (v.ports[m.voice]).free := of_decide_eq_true this
      unfold VoicePort.free batchCount at this
      omega

theorem Voices.forceBatch_bounded : ∀ (l : List SetupMessage) {v : Voices}, v.bounded → (v.forceBatch l).1.bounded
  | [], _, h => h
  | m :: rest, v, h => by
    have := Voices.forceBatch_bounded rest (Voices.offer_bounded .opening m.voice m.message h)
    unfold Voices.forceBatch
    dsimp only
    split <;> exact this

theorem releaseDests_bounded (velocity : Nat) : ∀ (l : List NoteDest) {v : Voices}, v.bounded →
    (releaseDests velocity l v).2.bounded
  | [], _, h => h
  | _ :: rest, _, h => releaseDests_bounded velocity rest (Voices.offer_bounded _ _ _ h)

theorem releaseWhere_bounded (selected : HeldEntry → Bool) (velocity : Nat) : ∀ (l : List HeldEntry) {v : Voices},
    v.bounded → (releaseWhere selected velocity l v).2.1.bounded
  | [], _, h => h
  | e :: rest, v, h => by
    unfold releaseWhere
    split
    · exact releaseWhere_bounded selected velocity rest (releaseDests_bounded velocity e.dests h)
    · exact releaseWhere_bounded selected velocity rest h

theorem stealForRoom_bounded : ∀ (l : List HeldEntry) {v : Voices}, v.bounded → (stealForRoom l v).2.1.bounded
  | [], _, h => h
  | e :: rest, v, h => by
    unfold stealForRoom
    split
    · dsimp only
      split
      · exact releaseDests_bounded 64 e.dests h
      · exact stealForRoom_bounded rest (releaseDests_bounded 64 e.dests h)
    · exact stealForRoom_bounded rest h

theorem stealForRoom_length : ∀ (l : List HeldEntry) (v : Voices), (stealForRoom l v).1.length ≤ l.length
  | [], _ => le_rfl
  | e :: rest, v => by
    unfold stealForRoom
    split
    · dsimp only
      split
      · exact Nat.le_succ _
      · exact Nat.succ_le_succ (stealForRoom_length rest _)
    · exact Nat.succ_le_succ (stealForRoom_length rest _)

theorem offerNotes_bounded : ∀ (l : List RoutedNote) {v : Voices}, v.bounded → (offerNotes l v).2.1.bounded
  | [], _, h => h
  | n :: rest, v, h => by
    have := offerNotes_bounded rest (Voices.offer_bounded .opening n.dest.voice
      (noteOnMessage n.dest.channel n.key n.velocity) h)
    unfold offerNotes
    dsimp only
    split <;> exact this

theorem deliverDests_bounded (voice : Fin 8) (velocity : Nat) : ∀ (l : List NoteDest) {v : Voices}, v.bounded →
    (deliverDests voice velocity l v).2.1.bounded
  | [], _, h => h
  | d :: rest, v, h => by
    unfold deliverDests
    split
    · dsimp only
      split
      · exact deliverDests_bounded voice velocity rest (Voices.offer_bounded _ _ _ h)
      · exact Voices.offer_bounded _ _ _ h
    · exact deliverDests_bounded voice velocity rest h

theorem deliverTable_bounded (voice : Fin 8) : ∀ (l : List HeldEntry) {v : Voices}, v.bounded →
    (deliverTable voice l v).2.1.bounded
  | [], _, h => h
  | e :: rest, v, h => by
    unfold deliverTable
    split
    · exact deliverTable_bounded voice rest h
    · dsimp only
      split
      · exact deliverTable_bounded voice rest (deliverDests_bounded voice _ e.dests h)
      · exact deliverDests_bounded voice _ e.dests h

theorem deliverTable_length (voice : Fin 8) : ∀ (l : List HeldEntry) (v : Voices),
    (deliverTable voice l v).1.length ≤ l.length
  | [], _ => le_rfl
  | e :: rest, v => by
    unfold deliverTable
    split
    · exact Nat.succ_le_succ (deliverTable_length voice rest _)
    · dsimp only
      split
      · dsimp only
        split
        · exact Nat.le_succ_of_le (deliverTable_length voice rest _)
        · exact Nat.succ_le_succ (deliverTable_length voice rest _)
      · exact le_rfl

theorem deliverUps_bounded (voice : Fin 8) : ∀ (l : List UpOwed) (fan : Vector (List FanEntry) 4) {v : Voices}, v.bounded →
    (deliverUps voice l fan v).2.2.bounded
  | [], _, _, h => h
  | u :: rest, fan, v, h => by
    unfold deliverUps
    dsimp only
    split
    · exact deliverUps_bounded voice rest _ (Voices.offer_bounded _ _ _ h)
    · exact Voices.offer_bounded _ _ _ h

theorem offerDowns_bounded : ∀ (l : List Dest) (fan : List FanEntry) {v : Voices}, v.bounded →
    (offerDowns l fan v).2.bounded
  | [], _, _, h => h
  | d :: rest, fan, v, h => by
    unfold offerDowns
    split
    · exact offerDowns_bounded rest fan h
    · exact offerDowns_bounded rest _ (Voices.offer_bounded _ _ _ h)

theorem raiseSet_bounded : ∀ (l : List FanEntry) {v : Voices}, v.bounded → (raiseSet l v).2.1.bounded
  | [], _, h => h
  | f :: rest, v, h => by
    unfold raiseSet
    split
    · exact raiseSet_bounded rest h
    · dsimp only
      split <;> exact raiseSet_bounded rest (Voices.offer_bounded _ _ _ h)

/-! ### The part -/

/-- The bounds of a part's lists, one by one. -/
def Bounded (v : Voices) (table : List HeldEntry) (accepted : List JournalEntry) : Prop :=
  v.bounded ∧ table.length ≤ Config.tableSize ∧ accepted.length ≤ Config.acceptedSize

/-- A part whose queues, held-note table and accepted list are within their bounds. -/
def Part.bounded (p : Part) : Prop := Bounded p.voices p.tracker.table p.notice.accepted

theorem Part.bounded_iff (p : Part) : p.bounded ↔ p.queuesBounded ∧ p.tableBounded ∧ p.acceptedBounded := Iff.rfl

@[simp] theorem bounded_mk (e : EngineState) (se : StartError) (st : Starting) (l : Layout) (m : Mail)
    (i : Interrupts) (tl : Timeline) (sp : SongPointer) (c : ClickGen) (t : Vector Word 8)
    (pl : Vector PlayerPort 4) (f : BitVec 8) (tr : Tracker) (v : Voices) (lo : Loader) (cu : CueUnit)
    (w : Watch) (a : Arbiter) (n : Notice) :
    (Part.mk e se st l m i tl sp c t pl f tr v lo cu w a n).bounded = Bounded v tr.table n.accepted := propext Iff.rfl

@[simp] theorem bounded_eta (p : Part) : Bounded p.voices p.tracker.table p.notice.accepted = p.bounded :=
  propext Iff.rfl

@[simp] theorem bounded_ite (c : Prop) [Decidable c] (a b : Part) :
    (if c then a else b).bounded = if c then a.bounded else b.bounded := apply_ite _ _ _ _

theorem foldl_bounded {α : Type} (f : Part → α → Part) (h : ∀ p a, p.bounded → (f p a).bounded) (l : List α) (p : Part)
    (hp : p.bounded) : (l.foldl f p).bounded := by
  induction l generalizing p with
  | nil => exact hp
  | cons a rest ih => exact ih (f p a) (h p a hp)

theorem Notice.handOver_length {n : Notice} (e : JournalEntry) (h : n.accepted.length ≤ Config.acceptedSize) :
    (n.handOver e).accepted.length ≤ Config.acceptedSize := by
  unfold Notice.handOver; split
  · exact h
  · split
    · rename_i c hc ha
      unfold Notice.canAccept at ha
      rw [hc] at ha
      simp only [Bool.and_eq_true, decide_eq_true_eq] at ha
      simpa using ha.2
    · exact h

theorem Notice.acceptGap_length {n : Notice} (stamp : Stamp) (h : n.accepted.length ≤ Config.acceptedSize) :
    (n.acceptGap stamp).accepted.length ≤ Config.acceptedSize := by
  unfold Notice.acceptGap; split
  · rename_i ha
    simp only [Bool.and_eq_true] at ha
    have ha := ha.2
    unfold Notice.canAccept at ha
    split at ha
    · cases ha
    · simp only [Bool.and_eq_true, decide_eq_true_eq] at ha
      simpa using ha.2
  · exact h

variable {p : Part}

@[simp] theorem Part.journalAt_bounded (stamp : Stamp) (event : JournalEvent) (h : p.bounded) :
    (p.journalAt stamp event).bounded := ⟨h.1, h.2.1, Notice.handOver_length _ h.2.2⟩

@[simp] theorem Part.journal_bounded (event : JournalEvent) (h : p.bounded) : (p.journal event).bounded :=
  Part.journalAt_bounded _ _ h

@[simp] theorem Part.requestRt_bounded (request : RtByte) (h : p.bounded) : (p.requestRt request).bounded :=
  ⟨Voices.request_bounded request h.1, h.2⟩

@[simp] theorem Part.routeController_bounded (player : Fin 4) (number value : Nat) (h : p.bounded) :
    (p.routeController player number value).bounded := ⟨Voices.offerAll_bounded _ _ h.1, h.2⟩

@[simp] theorem Part.routeBend_bounded (player : Fin 4) (value : Nat) (h : p.bounded) :
    (p.routeBend player value).bounded := ⟨Voices.offerAll_bounded _ _ h.1, h.2⟩

@[simp] theorem Part.routePressure_bounded (player : Fin 4) (value : Nat) (h : p.bounded) :
    (p.routePressure player value).bounded := ⟨Voices.offerAll_bounded _ _ h.1, h.2⟩

@[simp] theorem Part.releaseKey_bounded (player : Fin 4) (key velocity : Nat) (h : p.bounded) :
    (p.releaseKey player key velocity).bounded :=
  ⟨releaseWhere_bounded _ _ _ h.1, le_trans (releaseWhere_length _ _ _ _) h.2.1, h.2.2⟩

@[simp] theorem Part.makeRoom_bounded (h : p.bounded) : p.makeRoom.bounded := by
  unfold Part.makeRoom; split
  · exact h
  · exact foldl_bounded _ (fun _ _ hq => Part.journal_bounded _ hq) _ _
      ⟨stealForRoom_bounded _ h.1, le_trans (stealForRoom_length _ _) h.2.1, h.2.2⟩

theorem Part.enterNote_bounded (player : Fin 4) (key : Nat) (notes : List RoutedNote) (h : p.bounded)
    (room : p.tracker.table.length < Config.tableSize) : (p.enterNote player key notes).bounded := by
  have hv := offerNotes_bounded notes h.1
  have key : Part.bounded { p with
      voices := (offerNotes notes p.voices).2.1
      tracker := { p.tracker with table := if (offerNotes notes p.voices).1.isEmpty then p.tracker.table
        else p.tracker.table ++
          [{ player := player, key := key, state := .sounding, dests := (offerNotes notes p.voices).1 }] } } := by
    refine ⟨hv, ?_, h.2.2⟩
    dsimp only
    split
    · exact h.2.1
    · simpa using room
  unfold Part.enterNote
  dsimp only
  split
  · exact key
  · exact Part.journal_bounded _ key

@[simp] theorem Part.trackNoteOn_bounded (player : Fin 4) (key : Nat) (notes : List RoutedNote) (h : p.bounded) :
    (p.trackNoteOn player key notes).bounded := by
  have h1 := Part.makeRoom_bounded (Part.releaseKey_bounded player key 64 h)
  unfold Part.trackNoteOn
  dsimp only
  split
  · exact Part.releaseKey_bounded player key 64 h
  · split
    · rename_i room; exact Part.enterNote_bounded player key notes h1 room
    · exact Part.journal_bounded _ h1

@[simp] theorem Part.noteOn_bounded (player : Fin 4) (key velocity : Nat) (h : p.bounded) :
    (p.noteOn player key velocity).bounded := Part.trackNoteOn_bounded player key _ h

@[simp] theorem Part.deliverOwed_bounded (voice : Fin 8) (h : p.bounded) : (p.deliverOwed voice).bounded := by
  have h1 := deliverTable_bounded voice p.tracker.table h.1
  have h2 := le_trans (deliverTable_length voice p.tracker.table p.voices) h.2.1
  unfold Part.deliverOwed
  dsimp only
  split
  · exact ⟨deliverUps_bounded voice _ _ h1, h2, h.2.2⟩
  · exact ⟨h1, h2, h.2.2⟩

@[simp] theorem Part.sendDowns_bounded (player : Fin 4) (h : p.bounded) : (p.sendDowns player).bounded :=
  ⟨offerDowns_bounded _ _ h.1, h.2⟩

@[simp] theorem Part.pedalDown_bounded (player : Fin 4) (h : p.bounded) : (p.pedalDown player).bounded :=
  Part.sendDowns_bounded player (p := { p with tracker := p.tracker.reclaim player }) h

@[simp] theorem Part.pedalUp_bounded (player : Fin 4) (h : p.bounded) : (p.pedalUp player).bounded :=
  ⟨raiseSet_bounded _ h.1, h.2⟩

@[simp] theorem Part.carryPedals_bounded (h : p.bounded) : p.carryPedals.bounded := by
  unfold Part.carryPedals
  exact foldl_bounded _ (fun q i hq => by split <;> simp [hq]) _ _ h

@[simp] theorem Part.setPedal_bounded (player : Fin 4) (pedal : Pedal) (h : p.bounded) :
    (p.setPedal player pedal).bounded := h

@[simp] theorem Part.offerAllNotesOff_bounded (l : List Dest) (h : p.bounded) : (p.offerAllNotesOff l).bounded := by
  induction l generalizing p with
  | nil => exact h
  | cons d rest ih =>
    have h1 : Part.bounded { p with voices := (p.voices.offer .releasing d.voice (controllerMessage d.channel 123 0)).2 } :=
      ⟨Voices.offer_bounded _ _ _ h.1, h.2⟩
    unfold Part.offerAllNotesOff
    dsimp only
    split
    · exact ih h1
    · exact ih (Part.journal_bounded _ h1)

@[simp] theorem Part.panic_bounded (source : PanicSource) (h : p.bounded) : (p.panic source).1.bounded := by
  unfold Part.panic
  refine Part.journal_bounded _ (Part.offerAllNotesOff_bounded _ (foldl_bounded _ (fun q i hq => ?_) _ _ ?_))
  · exact Part.pedalUp_bounded i (Part.setPedal_bounded i .up hq)
  · exact ⟨releaseWhere_bounded _ _ _ h.1, le_trans (releaseWhere_length _ _ _ _) h.2.1, h.2.2⟩

@[simp] theorem Part.raise_bounded (cause : Cause) (h : p.bounded) :
    (p.raise cause).bounded := h

@[simp] theorem Part.putResident_bounded (role : Role) (entry : Option Resident) (h : p.bounded) :
    (p.putResident role entry).bounded := h

@[simp] theorem Part.setResidentState_bounded (role : Role) (state : ResidentState) (h : p.bounded) :
    (p.setResidentState role state).bounded := h

@[simp] theorem Part.beginRefreshing_bounded (role : Role) (h : p.bounded) :
    (p.beginRefreshing role).bounded := h

@[simp] theorem Part.makeCurrent_bounded (role : Role) (h : p.bounded) :
    (p.makeCurrent role).bounded := h

@[simp] theorem Part.makeStale_bounded (role : Role) (reason : StaleReason) (h : p.bounded) :
    (p.makeStale role reason).bounded := by unfold Part.makeStale; split <;> simp (maxDischargeDepth := 12) [h]

@[simp] theorem Part.setOwner_bounded (slot : Fin 32) (owner : SlotOwner) (h : p.bounded) :
    (p.setOwner slot owner).bounded := h

@[simp] theorem Part.mapArm_bounded (slot : Fin 32) (f : ArmedCue → ArmedCue) (h : p.bounded) :
    (p.mapArm slot f).bounded := h

@[simp] theorem Part.dropArm_bounded (slot : Fin 32) (h : p.bounded) :
    (p.dropArm slot).bounded := h

@[simp] theorem Part.queueItem_bounded (item : WriteItem) (h : p.bounded) :
    (p.queueItem item).bounded := h

@[simp] theorem Part.queueState_bounded (slot : Fin 32) (working : Bool) (h : p.bounded) :
    (p.queueState slot working).bounded := h

@[simp] theorem Part.queueResult_bounded (slot : Fin 32) (outcome : CueOutcome) (missed : Nat) (short : BitVec 8) (notify : Bool) (h : p.bounded) :
    (p.queueResult slot outcome missed short notify).bounded := h

@[simp] theorem Part.queueWithdrawn_bounded (slot : Fin 32) (notify : Bool) (h : p.bounded) :
    (p.queueWithdrawn slot notify).bounded := h

@[simp] theorem Part.endCue_bounded (a : ArmedCue) (outcome : CueOutcome) (short : BitVec 8) (h : p.bounded) :
    (p.endCue a outcome short).bounded := by simp (maxDischargeDepth := 12) [Part.endCue, h]

@[simp] theorem Part.setWorking_bounded (slot : Fin 32) (working : Bool) (h : p.bounded) :
    (p.setWorking slot working).bounded := by simp (maxDischargeDepth := 12) [Part.setWorking, h]

@[simp] theorem Part.cuesDueAtOnce_bounded (h : p.bounded) :
    p.cuesDueAtOnce.bounded := h

@[simp] theorem Part.markDue_bounded (kind : BoundaryKind) (h : p.bounded) :
    (p.markDue kind).bounded := h

@[simp] theorem Part.setTempo_bounded (tempo : Nat) (h : p.bounded) :
    (p.setTempo tempo).bounded := h

@[simp] theorem Part.fixTempo_bounded (sectionEntry : Bool) (h : p.bounded) :
    (p.fixTempo sectionEntry).bounded := by
  unfold Part.fixTempo; split <;> simp (maxDischargeDepth := 12) [h]

@[simp] theorem Part.setOverride_bounded (target ramp : Nat) (keep : Bool) (h : p.bounded) :
    (p.setOverride target ramp keep).bounded := by simp (maxDischargeDepth := 12) [Part.setOverride, h]

@[simp] theorem Part.parkTempo_bounded (h : p.bounded) :
    p.parkTempo.bounded := by unfold Part.parkTempo; split <;> simp (maxDischargeDepth := 12) [h]

@[simp] theorem Part.recordTap_bounded (intervals : List Nat) (h : p.bounded) :
    (p.recordTap intervals).bounded := h

@[simp] theorem Part.tapResult_bounded (count tempo : Nat) (h : p.bounded) :
    (p.tapResult count tempo).bounded := by
  simp (maxDischargeDepth := 12) [Part.tapResult, h]

@[simp] theorem Part.tap_bounded (h : p.bounded) :
    p.tap.bounded := by
  unfold Part.tap; repeat' split
  all_goals simp (maxDischargeDepth := 12) [h]

@[simp] theorem Part.setTrigger_bounded (trigger : Option Trigger) (h : p.bounded) :
    (p.setTrigger trigger).bounded := h

@[simp] theorem Part.giveTriggerIf_bounded (condition : Bool) (h : p.bounded) :
    (p.giveTriggerIf condition).bounded := by
  simp (maxDischargeDepth := 12) [Part.giveTriggerIf, h]

@[simp] theorem Part.setPointer_bounded (pointer : SongPointer) (h : p.bounded) :
    (p.setPointer pointer).bounded := h

@[simp] theorem Part.enterSection_bounded (target pass : Nat) (cause : EntryCause) (h : p.bounded) :
    (p.enterSection target pass cause).bounded := by simp (maxDischargeDepth := 12) [Part.enterSection, h]

@[simp] theorem Part.land_bounded (target : Nat) (cause : PendingCause) (h : p.bounded) :
    (p.land target cause).bounded := by simp (maxDischargeDepth := 12) [Part.land, h]

@[simp] theorem Part.startSong_bounded (h : p.bounded) :
    p.startSong.bounded := by simp (maxDischargeDepth := 12) [Part.startSong, h]

@[simp] theorem Part.placeAtStart_bounded (h : p.bounded) :
    p.placeAtStart.bounded := by simp (maxDischargeDepth := 12) [Part.placeAtStart, h]

@[simp] theorem Part.endSection_bounded (vamp early : Bool) (h : p.bounded) :
    (p.endSection vamp early).1.bounded := by
  unfold Part.endSection; repeat' split
  all_goals simp (maxDischargeDepth := 12) [h]

@[simp] theorem Part.advanceSong_bounded (s : SongSection) (h : p.bounded) :
    (p.advanceSong s).1.bounded := by
  simp (maxDischargeDepth := 12) [Part.advanceSong, h]

@[simp] theorem Part.advanceCountIn_bounded (s : SongSection) (h : p.bounded) :
    (p.advanceCountIn s).1.bounded := by
  simp (maxDischargeDepth := 12) [Part.advanceCountIn, h]

@[simp] theorem Part.advance_bounded (h : p.bounded) :
    p.advance.1.bounded := by
  unfold Part.advance; repeat' split
  all_goals simp (maxDischargeDepth := 12) [h]

@[simp] theorem Part.takeStart_bounded (h : p.bounded) :
    p.takeStart.bounded := by simp (maxDischargeDepth := 12) [Part.takeStart, h]

@[simp] theorem Part.swapParked_bounded (start : Nat) (autoStart : Bool) (h : p.bounded) :
    (p.swapParked start autoStart).bounded := by simp (maxDischargeDepth := 12) [Part.swapParked, h]

@[simp] theorem Part.swapSegue_bounded (start : Nat) (h : p.bounded) :
    (p.swapSegue start).bounded := by
  simp (maxDischargeDepth := 12) [Part.swapSegue, h]

@[simp] theorem Part.songSwap_bounded (song : Song) (start : Nat) (autoStart : Bool) (h : p.bounded) :
    (p.songSwap song start autoStart).bounded := by simp (maxDischargeDepth := 12) [Part.songSwap, h]

@[simp] theorem Part.jumpTo_bounded (target : Nat) (h : p.bounded) :
    (p.jumpTo target).bounded := by
  unfold Part.jumpTo; dsimp only; repeat' split
  all_goals simp (maxDischargeDepth := 12) [h]

@[simp] theorem Part.correctSection_bounded (h : p.bounded) :
    p.correctSection.bounded := by simp (maxDischargeDepth := 12) [Part.correctSection, h]

@[simp] theorem Part.correctFields_bounded (h : p.bounded) :
    p.correctFields.bounded := by simp (maxDischargeDepth := 12) [Part.correctFields, h]

@[simp] theorem Part.correctPointer_bounded (h : p.bounded) :
    p.correctPointer.bounded := by simp (maxDischargeDepth := 12) [Part.correctPointer, h]

@[simp] theorem Part.ownShadow_bounded (owner : ShadowOwner) (fetch : Option ShadowFetch) (h : p.bounded) :
    (p.ownShadow owner fetch).bounded := h

@[simp] theorem Part.emptyShadow_bounded (h : p.bounded) :
    p.emptyShadow.bounded := by simp (maxDischargeDepth := 12) [Part.emptyShadow, h]

@[simp] theorem Part.lookFor_bounded (scene : Nat) (h : p.bounded) :
    (p.lookFor scene).bounded := by simp (maxDischargeDepth := 12) [Part.lookFor, h]

@[simp] theorem Part.actTrigger_bounded (h : p.bounded) :
    p.actTrigger.bounded := by
  unfold Part.actTrigger; repeat' split
  all_goals simp (maxDischargeDepth := 12) [h]

@[simp] theorem Part.actWaiting_bounded (h : p.bounded) :
    p.actWaiting.bounded := by
  unfold Part.actWaiting; dsimp only; repeat' split
  all_goals simp (maxDischargeDepth := 12) [h]

@[simp] theorem Part.freeShadow_bounded (h : p.bounded) :
    p.freeShadow.bounded := by simp (maxDischargeDepth := 12) [Part.freeShadow, h]

@[simp] theorem Part.swapScene_bounded (h : p.bounded) :
    p.swapScene.bounded := by unfold Part.swapScene; split <;> simp (maxDischargeDepth := 12) [h]

@[simp] theorem Part.moveResidents_bounded (h : p.bounded) :
    p.moveResidents.bounded := by
  unfold Part.moveResidents; repeat' split
  all_goals simp (maxDischargeDepth := 12) [h]

@[simp] theorem Part.journalLate_bounded (source : LateSource) (missed : Option Nat) (h : p.bounded) :
    (p.journalLate source missed).bounded := by cases missed <;> simp (maxDischargeDepth := 12) [Part.journalLate, h]

@[simp] theorem Part.completeSection_bounded (target : Nat) (cause : SectionCause) (announced : Option Nat) (h : p.bounded) :
    (p.completeSection target cause announced).bounded := by simp (maxDischargeDepth := 12) [Part.completeSection, h]

@[simp] theorem Part.admitBatch_bounded (batch : List SetupMessage) (h : p.bounded)
    (fits : p.voices.batchFits batch = true) : ({ p with voices := p.voices.admitBatch batch } : Part).bounded :=
  ⟨Voices.admitBatch_bounded batch h.1 fits, h.2⟩

@[simp] theorem Part.beginSection_bounded (target scene : Nat) (cause : SectionCause) (announced : Option Nat)
    (h : p.bounded) : (p.beginSection target scene cause announced).bounded := by
  unfold Part.beginSection; split
  · rename_i fits; exact Part.completeSection_bounded target cause announced (Part.admitBatch_bounded _ h fits)
  · exact h

@[simp] theorem Part.switchSongOrJump_bounded (cue : Cue) (h : p.bounded) :
    (p.switchSongOrJump cue).bounded := by
  unfold Part.switchSongOrJump; repeat' split
  all_goals simp (maxDischargeDepth := 12) [h]

@[simp] theorem Part.setLate_bounded (late : Option LateSwitch) (h : p.bounded) :
    (p.setLate late).bounded := h

@[simp] theorem Part.setHeld_bounded (held : Option HeldSwitch) (h : p.bounded) :
    (p.setHeld held).bounded := h

@[simp] theorem Part.considerScene_bounded (target : Nat) (cause : SectionCause) (h : p.bounded) :
    (p.considerScene target cause).bounded := by
  unfold Part.considerScene; repeat' split
  all_goals simp (maxDischargeDepth := 12) [h]

@[simp] theorem Part.considerEntry_bounded (h : p.bounded) :
    p.considerEntry.bounded := by
  unfold Part.considerEntry; dsimp only; repeat' split
  all_goals simp (maxDischargeDepth := 12) [h]

@[simp] theorem Part.considerLanding_bounded (lands : Bool) (h : p.bounded) :
    (p.considerLanding lands).bounded := by
  unfold Part.considerLanding; split <;> simp (maxDischargeDepth := 12) [h]

@[simp] theorem Part.completeCue_bounded (a : ArmedCue) (forced : Option (BitVec 8)) (h : p.bounded) :
    (p.completeCue a forced).bounded := by simp (maxDischargeDepth := 12) [Part.completeCue, h]

@[simp] theorem Part.beginCue_bounded (a : ArmedCue) (h : p.bounded) : (p.beginCue a).bounded := by
  unfold Part.beginCue; split
  · rename_i fits; exact Part.completeCue_bounded a none (Part.admitBatch_bounded _ h fits)
  · exact h

@[simp] theorem Part.completeHeld_bounded (cause : HeldCause) (forced : Option (BitVec 8)) (h : p.bounded) :
    (p.completeHeld cause forced).bounded := by
  unfold Part.completeHeld; repeat' split
  all_goals simp (maxDischargeDepth := 12) [h]

@[simp] theorem Part.recheckHeld_bounded (voice : Fin 8) (h : p.bounded) : (p.recheckHeld voice).bounded := by
  unfold Part.recheckHeld; split
  · exact h
  · split
    · rename_i fits
      exact Part.completeHeld_bounded _ none (Part.admitBatch_bounded _ h (Bool.and_eq_true_iff.1 fits).2)
    · exact h

@[simp] theorem Part.expireHold_bounded (h : p.bounded) : p.expireHold.bounded := by
  unfold Part.expireHold; split
  · exact h
  · split
    · exact h
    · exact Part.completeHeld_bounded _ _ (Part.journal_bounded _
        (p := { p with voices := (p.voices.forceBatch p.shadowBatch).1 }) ⟨Voices.forceBatch_bounded _ h.1, h.2⟩)

@[simp] theorem Part.considerPark_bounded (h : p.bounded) :
    p.considerPark.bounded := by simp (maxDischargeDepth := 12) [Part.considerPark, h]

@[simp] theorem Part.makeLate_bounded (h : p.bounded) :
    p.makeLate.bounded := by unfold Part.makeLate; split <;> simp (maxDischargeDepth := 12) [h]

@[simp] theorem Part.makeLateNow_bounded (h : p.bounded) :
    p.makeLateNow.bounded := by
  unfold Part.makeLateNow; split <;> simp (maxDischargeDepth := 12) [h]

@[simp] theorem Part.loaderAnnounce_bounded (kind : BoundaryKind) (h : p.bounded) :
    (p.loaderAnnounce kind).bounded := by
  unfold Part.loaderAnnounce; split <;> simp (maxDischargeDepth := 12) [h]

@[simp] theorem Part.shadowReady_bounded (h : p.bounded) :
    p.shadowReady.bounded := by
  unfold Part.shadowReady; dsimp only; repeat' split
  all_goals simp (maxDischargeDepth := 12) [h]

@[simp] theorem Part.checkReady_bounded (h : p.bounded) :
    p.checkReady.bounded := by simp (maxDischargeDepth := 12) [Part.checkReady, h]

@[simp] theorem Part.cancelHoldForEdit_bounded (h : p.bounded) :
    p.cancelHoldForEdit.bounded := by
  unfold Part.cancelHoldForEdit; split <;> simp (maxDischargeDepth := 12) [h]

@[simp] theorem Part.shadowEdited_bounded (h : p.bounded) :
    p.shadowEdited.bounded := by
  unfold Part.shadowEdited; dsimp only; repeat' split
  all_goals simp (maxDischargeDepth := 12) [h]

@[simp] theorem Part.cancelSectionSwitch_bounded (h : p.bounded) :
    p.cancelSectionSwitch.bounded := by
  unfold Part.cancelSectionSwitch; dsimp only; repeat' split
  all_goals simp (maxDischargeDepth := 12) [h]

@[simp] theorem Part.displaceOwner_bounded (h : p.bounded) :
    p.displaceOwner.bounded := by
  unfold Part.displaceOwner; split <;> simp (maxDischargeDepth := 12) [h]

@[simp] theorem Part.claimForCue_bounded (slot : Fin 32) (fetch : ShadowFetch) (h : p.bounded) :
    (p.claimForCue slot fetch).bounded := by simp (maxDischargeDepth := 12) [Part.claimForCue, h]

@[simp] theorem Part.beginSongRefresh_bounded (sceneNext : Bool) (h : p.bounded) :
    (p.beginSongRefresh sceneNext).bounded := by unfold Part.beginSongRefresh; split <;> simp (maxDischargeDepth := 12) [h]

@[simp] theorem Part.beginSceneRefresh_bounded (h : p.bounded) :
    p.beginSceneRefresh.bounded := by
  unfold Part.beginSceneRefresh; split <;> simp (maxDischargeDepth := 12) [h]

@[simp] theorem Part.setFetch_bounded (fetch : Option ShadowFetch) (h : p.bounded) :
    (p.setFetch fetch).bounded := h

@[simp] theorem Part.refetchShadow_bounded (role : Role) (h : p.bounded) : (p.refetchShadow role).bounded := by
  unfold Part.refetchShadow; split <;> simp (maxDischargeDepth := 12) [h]

@[simp] theorem Part.requestStop_bounded (h : p.bounded) :
    p.requestStop.bounded := by simp (maxDischargeDepth := 12) [Part.requestStop, h]

@[simp] theorem Part.enterParked_bounded (h : p.bounded) :
    p.enterParked.bounded := by simp (maxDischargeDepth := 12) [Part.enterParked, h]

@[simp] theorem Part.haltClock_bounded (h : p.bounded) :
    p.haltClock.bounded := by simp (maxDischargeDepth := 12) [Part.haltClock, h]

@[simp] theorem Part.pauseClock_bounded (h : p.bounded) :
    p.pauseClock.bounded := by simp (maxDischargeDepth := 12) [Part.pauseClock, h]

@[simp] theorem Part.resumeClock_bounded (h : p.bounded) :
    p.resumeClock.bounded := by simp (maxDischargeDepth := 12) [Part.resumeClock, h]

@[simp] theorem Part.idleClock_bounded (h : p.bounded) :
    p.idleClock.bounded := by simp (maxDischargeDepth := 12) [Part.idleClock, h]

@[simp] theorem Part.transport_bounded (action : TransportAction) (h : p.bounded) :
    (p.transport action).bounded := by
  unfold Part.transport; split <;> simp (maxDischargeDepth := 12) [h]

@[simp] theorem Part.setSource_bounded (source : ClockSource) (h : p.bounded) :
    (p.setSource source).bounded := h

@[simp] theorem Part.setMonitor_bounded (monitor : Monitor) (h : p.bounded) :
    (p.setMonitor monitor).bounded := h

@[simp] theorem Part.fallBack_bounded (h : p.bounded) :
    p.fallBack.bounded := by simp (maxDischargeDepth := 12) [Part.fallBack, h]

@[simp] theorem Part.monitorAbsent_bounded (h : p.bounded) :
    p.monitorAbsent.bounded := by simp (maxDischargeDepth := 12) [Part.monitorAbsent, h]

@[simp] theorem Part.clickEvent_bounded (cls : ClickClass) (stamp : Stamp) (h : p.bounded) :
    (p.clickEvent cls stamp).bounded := by
  unfold Part.clickEvent; dsimp only; repeat' split
  all_goals simp (maxDischargeDepth := 12) [h]

@[simp] theorem Part.subClick_bounded (tick : Nat) (h : p.bounded) :
    (p.subClick tick).bounded := by
  unfold Part.subClick; split <;> simp (maxDischargeDepth := 12) [h]

@[simp] theorem Part.render_bounded (h : p.bounded) :
    p.render.bounded := by simp (maxDischargeDepth := 12) [Part.render, h]

@[simp] theorem Part.mixSet_bounded (mix : Fin 8) (levels : ByClass) (trim : Nat) (mute : Bool) (h : p.bounded) :
    (p.mixSet mix levels trim mute).bounded := h

@[simp] theorem Part.endCursorsOn_bounded (sound : Fin 4) (h : p.bounded) :
    (p.endCursorsOn sound).bounded := h

@[simp] theorem Part.endCursors_bounded (h : p.bounded) :
    p.endCursors.bounded := h

@[simp] theorem Part.setClickFetch_bounded (sound : Fin 4) (fetch : Option ClickFetch) (h : p.bounded) :
    (p.setClickFetch sound fetch).bounded := h

@[simp] theorem Part.loadSound_bounded (sound : Fin 4) (address length : Nat) (h : p.bounded) :
    (p.loadSound sound address length).bounded := by simp (maxDischargeDepth := 12) [Part.loadSound, h]

@[simp] theorem Part.refreshSound_bounded (sound : Fin 4) (h : p.bounded) :
    (p.refreshSound sound).bounded := by
  unfold Part.refreshSound; split <;> simp (maxDischargeDepth := 12) [h]

@[simp] theorem Part.clickUnstable_bounded (sound : Fin 4) (h : p.bounded) :
    (p.clickUnstable sound).bounded := by
  simp (maxDischargeDepth := 12) [Part.clickUnstable, h]

@[simp] theorem Part.countClick_bounded (sound : Fin 4) (h : p.bounded) :
    (p.countClick sound).bounded := by
  unfold Part.countClick; split <;> simp (maxDischargeDepth := 12) [h]

@[simp] theorem Part.clickFetched_bounded (sound : Fin 4) (f : ClickFetch) (h : p.bounded) :
    (p.clickFetched sound f).bounded := by unfold Part.clickFetched; split <;> simp (maxDischargeDepth := 12) [h]

@[simp] theorem Part.clickWord_bounded (order : ByteOrder) (sound : Fin 4) (f : ClickFetch) (bytes : List Byte) (h : p.bounded) :
    (p.clickWord order sound f bytes).bounded := by simp (maxDischargeDepth := 12) [Part.clickWord, h]

@[simp] theorem Part.setPlayer_bounded (i : Fin 4) (port : PlayerPort) (h : p.bounded) :
    (p.setPlayer i port).bounded := h

@[simp] theorem Part.pedalValue_bounded (i : Fin 4) (value : Nat) (h : p.bounded) :
    (p.pedalValue i value).bounded := by
  unfold Part.pedalValue; dsimp only; repeat' split
  all_goals simp (maxDischargeDepth := 12) [h]

@[simp] theorem Part.tapLevel_bounded (i : Fin 4) (value : Nat) (h : p.bounded) :
    (p.tapLevel i value).bounded := by
  simp (maxDischargeDepth := 12) [Part.tapLevel, h]

@[simp] theorem Part.controllerKept_bounded (i : Fin 4) (number value : Nat) (h : p.bounded) :
    (p.controllerKept i number value).bounded := by simp (maxDischargeDepth := 12) [Part.controllerKept, h]

@[simp] theorem Part.messageKept_bounded (i : Fin 4) (m : Completed) (h : p.bounded) :
    (p.messageKept i m).bounded := by
  unfold Part.messageKept; split <;> simp (maxDischargeDepth := 12) [h]

@[simp] theorem Part.byteArrives_bounded (i : Fin 4) (b : Byte) (h : p.bounded) :
    (p.byteArrives i b).bounded := by
  unfold Part.byteArrives; repeat' split
  all_goals simp (maxDischargeDepth := 12) [h]

@[simp] theorem Part.framingError_bounded (i : Fin 4) (h : p.bounded) :
    (p.framingError i).bounded := by
  simp (maxDischargeDepth := 12) [Part.framingError, h]

@[simp] theorem Part.makeShadowEntry_bounded (f : ShadowFetch) (h : p.bounded) :
    (p.makeShadowEntry f).bounded := by
  unfold Part.makeShadowEntry; split <;> simp (maxDischargeDepth := 12) [h]

@[simp] theorem Part.widenEntry_bounded (role : Role) (length : Nat) (h : p.bounded) :
    (p.widenEntry role length).bounded := by simp (maxDischargeDepth := 12) [Part.widenEntry, h]

@[simp] theorem Part.widenFetched_bounded (role : Role) (length : Nat) (h : p.bounded) :
    (p.widenFetched role length).bounded := by
  unfold Part.widenFetched; dsimp only; split <;> simp (maxDischargeDepth := 12) [h]

@[simp] theorem Part.finishEntry_bounded (role : Role) (h : p.bounded) :
    (p.finishEntry role).bounded := by
  simp (maxDischargeDepth := 12) [Part.finishEntry, h]

@[simp] theorem Part.swapRefreshedScene_bounded (scene : Scene) (h : p.bounded) :
    (p.swapRefreshedScene scene).bounded := by simp (maxDischargeDepth := 12) [Part.swapRefreshedScene, h]

@[simp] theorem Part.swapRefreshedSong_bounded (song : Song) (sceneNext : Bool) (h : p.bounded) :
    (p.swapRefreshedSong song sceneNext).bounded := by simp (maxDischargeDepth := 12) [Part.swapRefreshedSong, h]

@[simp] theorem Part.fetchDone_bounded (h : p.bounded) :
    p.fetchDone.bounded := by
  unfold Part.fetchDone; dsimp only; repeat' split
  all_goals simp (maxDischargeDepth := 12) [h]

@[simp] theorem Part.refetchDone_bounded (f : ShadowFetch) (h : p.bounded) : (p.refetchDone f).bounded := by
  unfold Part.refetchDone; dsimp only; split <;> simp (maxDischargeDepth := 12) [h]

@[simp] theorem Part.songFetched_bounded (f : ShadowFetch) (song : Song) (h : p.bounded) :
    (p.songFetched f song).bounded := by
  unfold Part.songFetched; dsimp only; repeat' split
  all_goals simp (maxDischargeDepth := 12) [h]

@[simp] theorem Part.fetchFailed_bounded (outcome : CueOutcome) (h : p.bounded) :
    (p.fetchFailed outcome).bounded := by
  unfold Part.fetchFailed; repeat' split
  all_goals simp (maxDischargeDepth := 12) [h]

@[simp] theorem Part.shadowWord_bounded (order : ByteOrder) (f : ShadowFetch) (word : List Byte) (h : p.bounded) :
    (p.shadowWord order f word).bounded := by unfold Part.shadowWord; split <;> simp (maxDischargeDepth := 12) [h]

@[simp] theorem Part.countEntry_bounded (role : Role) (count : Nat) (h : p.bounded) :
    (p.countEntry role count).bounded := by simp (maxDischargeDepth := 12) [Part.countEntry, h]

@[simp] theorem Part.dropFetched_bounded (f : ShadowFetch) (hitSong : Bool) (h : p.bounded) :
    (p.dropFetched f hitSong).bounded := by simp (maxDischargeDepth := 12) [Part.dropFetched, h]

@[simp] theorem Part.restartFetch_bounded (f : ShadowFetch) (hitSong : Bool) (h : p.bounded) :
    (p.restartFetch f hitSong).bounded := by
  unfold Part.restartFetch
  exact foldl_bounded _ (fun _ _ hq => by simp (maxDischargeDepth := 12) [hq]) _ _ (by simp (maxDischargeDepth := 12) [h])

@[simp] theorem Part.countShadow_bounded (hitSong hitScene : Bool) (h : p.bounded) :
    (p.countShadow hitSong hitScene).bounded := by
  unfold Part.countShadow; dsimp only; repeat' split
  all_goals simp (maxDischargeDepth := 12) [h]

@[simp] theorem Part.passTurn_bounded (turn : Fin 5) (h : p.bounded) :
    (p.passTurn turn).bounded := h

@[simp] theorem Part.vampSet_bounded (h : p.bounded) :
    p.vampSet.bounded := by simp (maxDischargeDepth := 12) [Part.vampSet, h]

@[simp] theorem Part.vampRelease_bounded (nextBar : Bool) (h : p.bounded) :
    (p.vampRelease nextBar).bounded := by
  simp (maxDischargeDepth := 12) [Part.vampRelease, h]

@[simp] theorem Part.jumpNeedsFetch_bounded (a : ArmedCue) (scene : Nat) (h : p.bounded) :
    (p.jumpNeedsFetch a scene).bounded := by simp (maxDischargeDepth := 12) [Part.jumpNeedsFetch, h]

@[simp] theorem Part.jumpPlain_bounded (target : Nat) (h : p.bounded) : (p.jumpPlain target).bounded := by
  simp (maxDischargeDepth := 12) [Part.jumpPlain, h]

@[simp] theorem Part.executeJump_bounded (a : ArmedCue) (target : Nat) (h : p.bounded) :
    (p.executeJump a target).bounded := by
  unfold Part.executeJump; repeat' split
  all_goals simp (maxDischargeDepth := 12) [h]

@[simp] theorem Part.sceneRefresh_bounded (h : p.bounded) :
    p.sceneRefresh.1.bounded := by simp (maxDischargeDepth := 12) [Part.sceneRefresh, h]

@[simp] theorem Part.remapEntry_bounded (role : Role) (h : p.bounded) :
    (p.remapEntry role).bounded := by
  unfold Part.remapEntry; split <;> simp (maxDischargeDepth := 12) [h]

@[simp] theorem Part.installRegion_bounded (table : RegionTable) (h : p.bounded) :
    (p.installRegion table).bounded := by
  unfold Part.installRegion
  exact foldl_bounded _ (fun q r hq => Part.remapEntry_bounded r hq) _ _ h

@[simp] theorem Part.clockSelect_bounded (source : ClockSource) (h : p.bounded) :
    (p.clockSelect source).1.bounded := by
  unfold Part.clockSelect; split <;> simp (maxDischargeDepth := 12) [h]

@[simp] theorem Part.transportCue_bounded (action : TransportAction) (h : p.bounded) :
    (p.transportCue action).1.bounded := by simp (maxDischargeDepth := 12) [Part.transportCue, h]

@[simp] theorem Part.plainEffect_bounded (a : ArmedCue) (h : p.bounded) :
    (p.plainEffect a).1.bounded := by
  unfold Part.plainEffect; repeat' split
  all_goals simp (maxDischargeDepth := 12) [h]

@[simp] theorem Part.executeCue_bounded (a : ArmedCue) (h : p.bounded) :
    (p.executeCue a).bounded := by
  unfold Part.executeCue; split <;> simp (maxDischargeDepth := 12) [h]

@[simp] theorem Part.executeNext_bounded (h : p.bounded) :
    p.executeNext.bounded := by
  unfold Part.executeNext; split <;> simp (maxDischargeDepth := 12) [h]

@[simp] theorem Part.executeUpTo_bounded (n : Nat) (h : p.bounded) : (p.executeUpTo n).bounded := by
  induction n generalizing p with
  | zero => exact h
  | succ n ih => exact ih (Part.executeNext_bounded h)

@[simp] theorem Part.executeDue_bounded (h : p.bounded) :
    p.executeDue.bounded := by simp (maxDischargeDepth := 12) [Part.executeDue, h]

@[simp] theorem Part.makeSwitch_bounded (h : p.bounded) :
    p.makeSwitch.bounded := by
  unfold Part.makeSwitch; repeat' split
  all_goals simp (maxDischargeDepth := 12) [h]

@[simp] theorem Part.dropPosted_bounded (slot : Fin 32) (h : p.bounded) :
    (p.dropPosted slot).bounded := h

@[simp] theorem Part.refuseTaken_bounded (slot : Fin 32) (outcome : CueOutcome) (notify : Bool) (h : p.bounded) :
    (p.refuseTaken slot outcome notify).bounded := by simp (maxDischargeDepth := 12) [Part.refuseTaken, h]

@[simp] theorem Part.supersede_bounded (a : ArmedCue) (frees : Bool) (h : p.bounded) :
    (p.supersede a frees).bounded := by
  simp (maxDischargeDepth := 12) [Part.supersede, h]

@[simp] theorem Part.changeScene_bounded (slot : Fin 32) (fetch : Option ShadowFetch) (h : p.bounded) :
    (p.changeScene slot fetch).bounded := by
  unfold Part.changeScene; repeat' split
  all_goals simp (maxDischargeDepth := 12) [h]

@[simp] theorem Part.arm_bounded (slot : Fin 32) (cue : Cue) (boundary : Boundary) (notify : Bool) (h : p.bounded) :
    (p.arm slot cue boundary notify).bounded := by simp (maxDischargeDepth := 12) [Part.arm, h]

@[simp] theorem Part.takeDone_bounded (order : ByteOrder) (slot : Fin 32) (bytes : List Byte) (h : p.bounded) :
    (p.takeDone order slot bytes).bounded := by
  unfold Part.takeDone; dsimp only; repeat' split
  all_goals simp (maxDischargeDepth := 12) [h]

@[simp] theorem Part.takeWord_bounded (order : ByteOrder) (t : TakeRead) (word : List Byte) (h : p.bounded) :
    (p.takeWord order t word).bounded := by simp (maxDischargeDepth := 12) [Part.takeWord, h]

@[simp] theorem Part.startTake_bounded (h : p.bounded) :
    p.startTake.bounded := by unfold Part.startTake; split <;> simp (maxDischargeDepth := 12) [h]

@[simp] theorem Part.remapWord_bounded (order : ByteOrder) (a : ArmedCue) (read word : List Byte) (h : p.bounded) :
    (p.remapWord order a read word).bounded := by
  unfold Part.remapWord; dsimp only; repeat' split
  all_goals simp (maxDischargeDepth := 12) [h]

@[simp] theorem Part.post_bounded (slot : Fin 32) (h : p.bounded) :
    (p.post slot).bounded := by simp (maxDischargeDepth := 12) [Part.post, h]

@[simp] theorem Part.withdrawPosted_bounded (slot : Fin 32) (h : p.bounded) :
    (p.withdrawPosted slot).bounded := by
  unfold Part.withdrawPosted; dsimp only; repeat' split
  all_goals simp (maxDischargeDepth := 12) [h]

@[simp] theorem Part.withdrawArmed_bounded (a : ArmedCue) (h : p.bounded) :
    (p.withdrawArmed a).bounded := by
  simp (maxDischargeDepth := 12) [Part.withdrawArmed, h]

@[simp] theorem Part.withdraw_bounded (slot : Fin 32) (h : p.bounded) :
    (p.withdraw slot).bounded := by
  unfold Part.withdraw; split <;> simp (maxDischargeDepth := 12) [h]

@[simp] theorem Part.refuseStopped_bounded (slot : Fin 32) (notify : Bool) (h : p.bounded) :
    (p.refuseStopped slot notify).bounded := by simp (maxDischargeDepth := 12) [Part.refuseStopped, h]

@[simp] theorem Part.refuseAll_bounded (h : p.bounded) : p.refuseAll.bounded := by
  have h1 := foldl_bounded (fun (p : Part) a => p.refuseStopped a.slot a.notify) (fun q a hq => by simp [hq]) p.cues.arms _
    (foldl_bounded (fun (p : Part) slot => p.refuseStopped slot false) (fun q a hq => by simp [hq]) p.cues.posted p h)
  unfold Part.refuseAll
  dsimp only
  split
  · exact Part.emptyShadow_bounded h1
  · exact h1

@[simp] theorem Part.settleEnded_bounded (role : Role) (h : p.bounded) :
    (p.settleEnded role).bounded := by
  unfold Part.settleEnded; split <;> simp (maxDischargeDepth := 12) [h]

@[simp] theorem Part.endSettle_bounded (role : Role) (h : p.bounded) :
    (p.endSettle role).bounded := by
  simp (maxDischargeDepth := 12) [Part.endSettle, h]

@[simp] theorem Part.editLive_bounded (role : Role) (h : p.bounded) :
    (p.editLive role).bounded := by simp (maxDischargeDepth := 12) [Part.editLive, h]

@[simp] theorem Part.editStaged_bounded (role : Role) (h : p.bounded) :
    (p.editStaged role).bounded := by
  simp (maxDischargeDepth := 12) [Part.editStaged, h]

@[simp] theorem Part.editOne_bounded (kind : RegionKind) (role : Role) (h : p.bounded) :
    (Part.editOne kind p role).bounded := by
  unfold Part.editOne; repeat' split
  all_goals simp (maxDischargeDepth := 12) [h]

@[simp] theorem Part.countWrite_bounded (roles : List Role) (hitSong hitScene : Bool) (clicks : List (Fin 4))
    (h : p.bounded) : (p.countWrite roles hitSong hitScene clicks).bounded := by
  unfold Part.countWrite
  exact foldl_bounded _ (fun q i hq => by split <;> simp [hq]) _ _ (by simp [h])

@[simp] theorem Part.edit_bounded (kind : RegionKind) (roles : List Role) (h : p.bounded) :
    (p.edit kind roles).bounded :=
  Part.countWrite_bounded _ _ _ _ (foldl_bounded _ (fun _ r hq => Part.editOne_bounded kind r hq) _ _ h)

@[simp] theorem Part.guardRefuse_bounded (roles : List Role) (address : Nat) (directory : Bool) (h : p.bounded) :
    (p.guardRefuse roles address directory).bounded := by simp (maxDischargeDepth := 12) [Part.guardRefuse, h]

@[simp] theorem Part.slotWritten_bounded (item : WriteItem) (rest : List SlotWord) (h : p.bounded) :
    (p.slotWritten item rest).bounded := by unfold Part.slotWritten; split <;> simp (maxDischargeDepth := 12) [h]

@[simp] theorem Part.tickCountdowns_bounded (h : p.bounded) :
    p.tickCountdowns.bounded := by simp (maxDischargeDepth := 12) [Part.tickCountdowns, h]

@[simp] theorem Part.setAcc_bounded (acc : Nat) (beatOpen : Bool) (h : p.bounded) :
    (p.setAcc acc beatOpen).bounded := h

@[simp] theorem Part.syncPulse_bounded (h : p.bounded) :
    p.syncPulse.bounded := by simp (maxDischargeDepth := 12) [Part.syncPulse, h]

@[simp] theorem Part.fineTick_bounded (index : Nat) (h : p.bounded) :
    (p.fineTick index).bounded := by
  simp (maxDischargeDepth := 12) [Part.fineTick, h]

@[simp] theorem Part.endSong_bounded (final : Stamp) (h : p.bounded) : (p.endSong final).bounded :=
  Part.enterParked_bounded (p := { p with notice := p.notice.handOver _ }) ⟨h.1, h.2.1, Notice.handOver_length _ h.2.2⟩

@[simp] theorem Part.boundaryTaken_bounded (kind : BoundaryKind) (h : p.bounded) :
    (p.boundaryTaken kind).1.bounded := by
  simp (maxDischargeDepth := 12) [Part.boundaryTaken, h]

@[simp] theorem Part.startFrame_bounded (h : p.bounded) :
    p.startFrame.1.bounded := by simp (maxDischargeDepth := 12) [Part.startFrame, h]

@[simp] theorem Part.beatBoundary_bounded (h : p.bounded) : p.beatBoundary.1.bounded := by
  have h1 := Part.advance_bounded h
  unfold Part.beatBoundary
  split <;> simp_all

@[simp] theorem Part.accumulate_bounded (h : p.bounded) :
    p.accumulate.1.bounded := by simp (maxDischargeDepth := 12) [Part.accumulate, h]

@[simp] theorem Part.timelineAct_bounded (h : p.bounded) : p.timelineAct.1.bounded := by
  unfold Part.timelineAct
  split
  · exact h
  · split
    · exact Part.startFrame_bounded h
    · exact Part.accumulate_bounded h

@[simp] theorem Part.loaderTakes_bounded (kind : BoundaryKind) (h : p.bounded) :
    (p.loaderTakes kind).bounded := by
  simp (maxDischargeDepth := 12) [Part.loaderTakes, h]

@[simp] theorem Part.placeActs_bounded (order : FrameOrder) (kind : BoundaryKind) (place : FramePlace) (h : p.bounded) :
    (p.placeActs order kind place).bounded := by simp (maxDischargeDepth := 12) [Part.placeActs, h]

@[simp] theorem Part.cuesUnannounced_bounded (order : FrameOrder) (afterRender : Bool) (h : p.bounded) :
    (p.cuesUnannounced order afterRender).bounded := by simp (maxDischargeDepth := 12) [Part.cuesUnannounced, h]

@[simp] theorem Part.blocksAct_bounded (order : FrameOrder) (news : FrameNews) (h : p.bounded) :
    (p.blocksAct order news).bounded := by unfold Part.blocksAct; split <;> simp (maxDischargeDepth := 12) [h]

/-! ### The grants, the registers and the frame -/

@[simp] theorem Part.takenUpdate_bounded (value : Word) (h : p.bounded) : (p.takenUpdate value).bounded :=
  ⟨h.1, h.2.1, Notice.acceptGap_length _ h.2.2⟩

theorem Part.countWritten_bounded (c : JournalConfig) (h : p.bounded) : (p.countWritten c).bounded := by
  have key : Part.bounded { p with notice := Notice.acceptGap { p.notice with
      written := p.notice.written + 1, accepted := p.notice.accepted.tail, wordsDone := 0 } p.stamp } :=
    ⟨h.1, h.2.1, Notice.acceptGap_length _ (by
      have := h.2.2
      simp only [List.length_tail]; omega)⟩
  unfold Part.countWritten
  dsimp only
  split
  · exact key
  · exact key

@[simp] theorem Part.drainTest_bounded (h : p.bounded) : p.drainTest.bounded := by
  unfold Part.drainTest; split <;> exact h

theorem Part.directoryWord_bounded (order : ByteOrder) (read word : List Byte) (h : p.bounded) :
    (p.directoryWord order read word).bounded := by
  unfold Part.directoryWord; split
  · exact h
  · unfold Part.directoryDone; split <;> exact h

/-- Every access of an engine requester keeps the bounds. -/
theorem Part.accessEffect_bounded (order : ByteOrder) (word : List Byte) (access : EngineAccess) (h : p.bounded) :
    (p.accessEffect order word access).bounded := by
  cases access with
  | takeWord t => exact Part.takeWord_bounded order t word h
  | slotWord item _ rest => exact Part.slotWritten_bounded item rest h
  | remapWord a read _ => exact Part.remapWord_bounded order a read word h
  | directoryWord read => exact Part.directoryWord_bounded order read word h
  | shadowWord turn f => exact Part.shadowWord_bounded order f word (Part.passTurn_bounded turn h)
  | clickWord turn i f => exact Part.clickWord_bounded order i f word (Part.passTurn_bounded turn h)
  | headWord _ => exact h
  | entryWord _ _ => exact h
  | countWord c => exact Part.countWritten_bounded c h

theorem State.engineGrant_bounded {s : State} (h : s.part.bounded) : s.engineGrant.part.bounded := by
  unfold State.engineGrant; split
  · exact h
  · exact Part.drainTest_bounded (Part.accessEffect_bounded _ _ _ h)

theorem State.grantIf_bounded {s : State} (wanted : State → EngineAccess → Bool) (h : s.part.bounded) :
    (s.grantIf wanted).part.bounded := by
  unfold State.grantIf; split
  · exact h
  · split
    · exact State.engineGrant_bounded h
    · exact h

theorem State.giveWay_bounded {s : State} (h : s.part.bounded) : s.giveWay.part.bounded := by
  unfold State.giveWay; split
  · exact h
  · exact State.engineGrant_bounded h

theorem Part.writeBoard_bounded (slot : Fin 32) (state : Option Nat) (h : p.bounded) :
    (p.writeBoard slot state).1.bounded := by
  unfold Part.writeBoard
  split
  · split
    · exact Part.post_bounded slot h
    · split
      · exact Part.journal_bounded _ h
      · exact h
  · split
    · exact Part.withdraw_bounded slot h
    · exact h

theorem Part.writeRecords_bounded (address : Nat) (h : p.bounded) : (p.writeRecords address).1.bounded := by
  unfold Part.writeRecords
  dsimp only
  split
  · exact h
  · split
    · exact h
    · exact Part.guardRefuse_bounded _ _ _ h
    · exact Part.edit_bounded _ _ h

/-- The decision on a host write keeps the bounds. -/
theorem Part.decideWrite_bounded (order : ByteOrder) (address : Nat) (bytes : List Byte) (h : p.bounded) :
    (p.decideWrite order address bytes).1.bounded := by
  unfold Part.decideWrite
  dsimp only
  split
  · exact h
  · split
    · exact Part.guardRefuse_bounded _ _ _ h
    · split
      · exact Part.writeBoard_bounded _ _ h
      · split
        · exact Part.takenUpdate_bounded _ h
        · exact Part.writeRecords_bounded address h

@[simp] theorem Part.giveUpStores_bounded (h : p.bounded) : p.giveUpStores.bounded :=
  Part.emptyShadow_bounded h

@[simp] theorem Part.setEngine_bounded (engine : EngineState) (h : p.bounded) :
    ({ p with engine := engine } : Part).bounded := h

theorem Part.enterStopping_bounded (h : p.bounded) : p.enterStopping.bounded := by
  have h1 := Part.panic_bounded .stopping (Part.refuseAll_bounded (Part.idleClock_bounded h))
  unfold Part.enterStopping
  dsimp only
  generalize (p.idleClock.refuseAll.panic .stopping).1 = q at h1 ⊢
  exact Part.drainTest_bounded (Part.setEngine_bounded _ (Part.endCursors_bounded (Part.giveUpStores_bounded h1)))

theorem VoicePort.reset_bounded : VoicePort.reset.bounded := ⟨Nat.zero_le _, Nat.zero_le _⟩

/-- A reset leaves every list empty. -/
theorem Part.afterReset_bounded : p.afterReset.bounded := by
  refine ⟨fun i => ?_, Nat.zero_le _, Nat.zero_le _⟩
  simp only [Part.afterReset, Fin.getElem_fin, Vector.getElem_ofFn, VoicePort.afterReset]
  split
  · exact VoicePort.reset_bounded
  · exact VoicePort.reset_bounded

theorem State.writeControl_bounded {s : State} (value : Halfword) (h : s.part.bounded) :
    (s.writeControl value).part.bounded := by
  unfold State.writeControl; split
  · exact Part.afterReset_bounded
  · show (s.part.writeRun _).bounded
    unfold Part.writeRun; split
    · exact ⟨h.1, h.2.1, Nat.zero_le _⟩
    · exact Part.enterStopping_bounded h
    · exact h

theorem Part.becomeRunning_bounded (h : p.bounded) : p.becomeRunning.bounded := by
  have h1 : ∀ d, (p.takeDirectory d).bounded := fun d =>
    ⟨fun i => by
      simp only [Part.takeDirectory, Fin.getElem_fin, Vector.getElem_ofFn]
      exact ⟨Nat.zero_le _, Nat.zero_le _⟩, Nat.zero_le _, h.2.2⟩
  unfold Part.becomeRunning; split
  · split
    · dsimp only
      split
      · exact Part.fallBack_bounded (h1 _)
      · exact h1 _
    · exact h
  · exact h

theorem Part.takeCommand_bounded (h : p.bounded) : p.takeCommand.bounded := by
  unfold Part.takeCommand; split
  · dsimp only
    have key : (({ p with mail := { p.mail with inFull := false } } : Part).mailCommand (mailCode p.mail.inValue)).1.bounded := by
      unfold Part.mailCommand
      split
      · split
        · exact Part.panic_bounded _ h
        · exact h
      · dsimp only
        split
        · exact Part.haltClock_bounded h
        · exact h
      · exact Part.tap_bounded h
      · exact h
      · exact h
    exact key
  · exact h

theorem Part.writeMailIn_bounded (value : Halfword) (h : p.bounded) : (p.writeMailIn value).bounded := by
  unfold Part.writeMailIn; split
  · exact h
  · exact Part.takeCommand_bounded h

theorem State.writeRegister_bounded {s : State} (number : Nat) (value : Halfword) (h : s.part.bounded) :
    (s.writeRegister number value).part.bounded := by
  unfold State.writeRegister; split
  · exact State.writeControl_bounded value h
  · exact h
  · exact h
  · exact Part.writeMailIn_bounded value h
  · exact h

theorem Part.takeOverdue_bounded (h : p.bounded) : p.takeOverdue.bounded :=
  Part.drainTest_bounded (Part.executeDue_bounded (Part.expireHold_bounded
    (foldl_bounded _ (fun _ r hq => Part.endSettle_bounded r hq) _ _ h)))

@[simp] theorem Part.countFrame_bounded (h : p.bounded) : p.countFrame.bounded := h

theorem Part.frame_bounded (order : FrameOrder) (h : p.bounded) : (p.frame order).bounded := by
  have h1 := Part.countFrame_bounded (Part.tickCountdowns_bounded (Part.takeOverdue_bounded h))
  unfold Part.frame
  dsimp only
  generalize p.takeOverdue.tickCountdowns.countFrame = q at h1 ⊢
  exact Part.blocksAct_bounded order _ (Part.timelineAct_bounded h1)

theorem Part.wordClock_bounded (order : FrameOrder) (h : p.bounded) : (p.wordClock order).bounded := by
  unfold Part.wordClock; split
  · exact Part.frame_bounded order h
  · exact h

theorem Part.byteBoundary_bounded (voice : Fin 8) (h : p.bounded) : (p.byteBoundary voice).bounded := by
  have h1 : Part.bounded { p with voices := p.voices.setPort voice (p.voices.ports[voice]).finishByte.1 } :=
    ⟨Voices.setPort_bounded voice h.1 (VoicePort.finishByte_bounded (h.1 voice)), h.2⟩
  unfold Part.byteBoundary
  dsimp only
  apply Part.drainTest_bounded
  split
  · have h2 := Part.recheckHeld_bounded voice (Part.deliverOwed_bounded voice h1)
    exact ⟨Voices.setPort_bounded voice h2.1 (VoicePort.choose_bounded (h2.1 voice)), h2.2⟩
  · exact ⟨Voices.setPort_bounded voice h1.1 (VoicePort.choose_bounded (h1.1 voice)), h1.2⟩

end Sys2Proof.Machine
end

