-- ==== Sys2Proof/Laws/Exec.lean ====
section
/-! SUPPORT. What each command answers, one equation for each: always a next state, never a fault or a refusal. The
commands in groups: which reach the RAM, and what each kind keeps of the state around the part. -/

namespace Sys2Proof.Machine

variable (s : State)

@[simp] theorem exec_powerOnReset (interval : ResetInterval) :
    exec (.powerOnReset interval) s = .next (s.powerOn interval) := rfl

@[simp] theorem exec_engineStart (value : Halfword) :
    exec (.engineStart value) s = .next (s.writeControl value) := rfl

@[simp] theorem exec_engineStop (value : Halfword) :
    exec (.engineStop value) s = .next (s.writeControl value) := rfl

@[simp] theorem exec_engineReset (value : Halfword) :
    exec (.engineReset value) s = .next (s.writeControl value) := rfl

@[simp] theorem exec_directoryReadComplete :
    exec .directoryReadComplete s = .next (s.grantIf endsDirectory) := rfl

@[simp] theorem exec_engineBecomesRunning :
    exec .engineBecomesRunning s = .next (s.withPart Part.becomeRunning) := rfl

@[simp] theorem exec_stoppingDrainEnd : exec .stoppingDrainEnd s = .next (s.withPart Part.drainTest) := rfl

@[simp] theorem exec_registerWriteIgnored (register : BitVec 3) (value : Halfword) :
    exec (.registerWriteIgnored register value) s = .next (s.writeRegister register.toNat value) := rfl

@[simp] theorem exec_intStatusWrite (value : Halfword) :
    exec (.intStatusWrite value) s = .next (s.withPart fun p => p.writeIntStatus value) := rfl

@[simp] theorem exec_intMaskWrite (value : Halfword) :
    exec (.intMaskWrite value) s = .next (s.withPart fun p => p.writeIntMask value) := rfl

@[simp] theorem exec_mailOutRead :
    exec .mailOutRead s = .next { s with hostData := s.part.mail.outValue, part := s.part.readMailOut } := rfl

@[simp] theorem exec_panic (argument : BitVec 12) :
    exec (.panic argument) s = .next (s.withPart fun p => p.writeMailIn (mailValue 1 argument)) := rfl

@[simp] theorem exec_halt (argument : BitVec 12) :
    exec (.halt argument) s = .next (s.withPart fun p => p.writeMailIn (mailValue 2 argument)) := rfl

@[simp] theorem exec_tap (argument : BitVec 12) :
    exec (.tap argument) s = .next (s.withPart fun p => p.writeMailIn (mailValue 3 argument)) := rfl

@[simp] theorem exec_whereAmI (argument : BitVec 12) :
    exec (.whereAmI argument) s = .next (s.withPart fun p => p.writeMailIn (mailValue 4 argument)) := rfl

@[simp] theorem exec_unknownCommand (code : BitVec 4) (argument : BitVec 12) :
    exec (.unknownCommand code argument) s = .next (s.withPart fun p => p.writeMailIn (mailValue code argument)) := rfl

@[simp] theorem exec_frameEvent (order : FrameOrder) :
    exec (.frameEvent order) s = .next (s.withPart fun p => p.frame order) := rfl

@[simp] theorem exec_wordClockEdge (order : FrameOrder) :
    exec (.wordClockEdge order) s = .next (s.withPart fun p => p.wordClock order) := rfl

@[simp] theorem exec_holdExpiry : exec .holdExpiry s = .next (s.withPart Part.expireHold) := rfl

@[simp] theorem exec_settleEnd (role : Role) :
    exec (.settleEnd role) s = .next (s.withPart fun p => p.endSettle role) := rfl

@[simp] theorem exec_clockFallback :
    exec .clockFallback s = .next (s.withPart fun p =>
      if p.engine = .running ∧ p.timeline.source = .external then p.monitorAbsent else p) := rfl

@[simp] theorem exec_tapPinRise : exec .tapPinRise s = .next (s.withPart Part.tap) := rfl

@[simp] theorem exec_byteArrival (port : Fin 4) (byte : Byte) :
    exec (.byteArrival port byte) s = .next (s.withPart fun p => p.byteArrives port byte) := rfl

@[simp] theorem exec_framingError (port : Fin 4) :
    exec (.framingError port) s = .next (s.withPart fun p => p.framingError port) := rfl

@[simp] theorem exec_byteBoundary (port : Fin 8) :
    exec (.byteBoundary port) s = .next (s.withPart fun p => p.byteBoundary port) := rfl

@[simp] theorem exec_hostWrite (address : BitVec 17) (data : Halfword) :
    exec (.hostWrite address data) s = .next (s.hostWrites address data) := rfl

@[simp] theorem exec_hostRead (address : BitVec 17) :
    exec (.hostRead address) s = .next (s.hostReads address) := rfl

@[simp] theorem exec_engineWordAccess : exec .engineWordAccess s = .next s.engineGrant := rfl

@[simp] theorem exec_takeReadStart : exec .takeReadStart s = .next (s.withPart Part.startTake) := rfl

@[simp] theorem exec_takeReadComplete : exec .takeReadComplete s = .next (s.grantIf endsTake) := rfl

@[simp] theorem exec_fetchComplete : exec .fetchComplete s = .next (s.grantIf endsFetch) := rfl

@[simp] theorem exec_remapReadComplete : exec .remapReadComplete s = .next (s.grantIf endsRemap) := rfl

@[simp] theorem exec_cueResultWritten : exec .cueResultWritten s = .next (s.grantIf endsResult) := rfl

@[simp] theorem exec_journalEntryWritten : exec .journalEntryWritten s = .next (s.grantIf endsEntry) := rfl

@[simp] theorem exec_cueExecute : exec .cueExecute s = .next (s.withPart Part.executeNext) := rfl

@[simp] theorem exec_sceneSwitch : exec .sceneSwitch s = .next (s.withPart Part.makeSwitch) := rfl

@[simp] theorem exec_mailInWrite (value : Halfword) :
    exec (.mailInWrite value) s = .next (s.withPart fun p => p.writeMailIn value) := rfl

@[simp] theorem exec_externalClockAbsent :
    exec .externalClockAbsent s = .next (s.withPart Part.monitorAbsent) := rfl

/-! ### What the accesses keep -/

@[simp] theorem carryOut_keeps (access : EngineAccess) :
    (s.carryOut access).pending = s.pending ∧ (s.carryOut access).order = s.order ∧
      (s.carryOut access).hostData = s.hostData ∧ (s.carryOut access).freeCount = s.freeCount := ⟨rfl, rfl, rfl, rfl⟩

@[simp] theorem engineGrant_keeps :
    s.engineGrant.pending = s.pending ∧ s.engineGrant.order = s.order ∧
      s.engineGrant.hostData = s.hostData ∧ s.engineGrant.freeCount = s.freeCount := by
  unfold State.engineGrant; split <;> simp

@[simp] theorem grantIf_keeps (wanted : State → EngineAccess → Bool) :
    (s.grantIf wanted).pending = s.pending ∧ (s.grantIf wanted).order = s.order ∧
      (s.grantIf wanted).hostData = s.hostData ∧ (s.grantIf wanted).freeCount = s.freeCount := by
  unfold State.grantIf; split
  · simp
  · split <;> simp

/-- A guarded grant is the grant, or nothing. -/
theorem grantIf_cases (wanted : State → EngineAccess → Bool) : s.grantIf wanted = s.engineGrant ∨ s.grantIf wanted = s := by
  unfold State.grantIf; split
  · exact .inr rfl
  · split
    · exact .inl rfl
    · exact .inr rfl

@[simp] theorem giveWay_keeps :
    s.giveWay.pending = s.pending ∧ s.giveWay.order = s.order ∧ s.giveWay.hostData = s.hostData ∧
      s.giveWay.freeCount = s.freeCount := by
  unfold State.giveWay; split <;> simp

theorem giveWay_cases : s.giveWay = s.engineGrant ∨ s.giveWay = s := by
  unfold State.giveWay; split
  · exact .inr rfl
  · exact .inl rfl

theorem giveWay_of_hostFree (h : s.part.arbiter.hostRun < s.part.arbiter.hostRunLimit) : s.giveWay = s := if_pos h

/-- A CONTROL write changes the part alone. -/
theorem writeControl_part (value : Halfword) : ∃ p, s.writeControl value = { s with part := p } := by
  unfold State.writeControl; split <;> exact ⟨_, rfl⟩

/-- A register write changes the part alone. -/
theorem writeRegister_part (number : Nat) (value : Halfword) : ∃ p, s.writeRegister number value = { s with part := p } := by
  unfold State.writeRegister; split
  · exact writeControl_part s value
  all_goals exact ⟨_, rfl⟩

end Sys2Proof.Machine
end

