-- ==== Sys2Proof/Laws/LoaderFrame.lean ====
section
/-! SUPPORT. What the scene loader's acts for a section keep (8.4 to 8.7). -/

namespace Sys2Proof.Machine

/-- What a lookahead, a section's switch and the freeing of the shadow never touch: the timeline and the pointer, the
cue unit, the player ports, the clicks, the region table and the slots' owners, the interrupt causes. -/
structure Aside where
  timeline : Timeline
  pointer : SongPointer
  cues : CueUnit
  players : Vector PlayerPort 4
  click : ClickGen
  tdm : Vector Word 8
  region : RegionTable
  owners : Vector SlotOwner 32
  irq : Interrupts
  clickFetches : Vector (Option ClickFetch) 4

def Part.aside (p : Part) : Aside where
  timeline := p.timeline
  pointer := p.pointer
  cues := p.cues
  players := p.players
  click := p.click
  tdm := p.tdm
  region := p.watch.region
  owners := p.watch.owners
  irq := p.irq
  clickFetches := p.loader.clickFetches

@[simp] theorem aside_mk (e : EngineState) (se : StartError) (st : Starting) (l : Layout) (m : Mail) (i :
    Interrupts) (tl : Timeline) (sp : SongPointer) (c : ClickGen) (t : Vector Word 8) (pl : Vector PlayerPort 4)
    (f : BitVec 8) (tr : Tracker) (v : Voices) (lo : Loader) (cu : CueUnit) (w : Watch) (a : Arbiter) (n :
    Notice) : (Part.mk e se st l m i tl sp c t pl f tr v lo cu w a n).aside = Aside.mk tl sp cu pl c t w.region
    w.owners i lo.clickFetches := rfl

@[simp] theorem aside_eta (p : Part) : Aside.mk p.timeline p.pointer p.cues p.players p.click p.tdm
    p.watch.region p.watch.owners p.irq p.loader.clickFetches = p.aside := rfl

@[simp] theorem aside_ite (c : Prop) [Decidable c] (a b : Part) : (if c then a else b).aside = if c then a.aside
    else b.aside := apply_ite _ _ _ _

theorem foldl_aside {α : Type} (f : Part → α → Part) (h : ∀ p a, (f p a).aside = p.aside) (l : List α) (p : Part) :
    (l.foldl f p).aside = p.aside := by
  induction l generalizing p with
  | nil => rfl
  | cons a rest ih => exact (ih (f p a)).trans (h p a)

variable (p : Part)

@[simp] theorem Part.journal_aside (event : JournalEvent) : (p.journal event).aside = p.aside := rfl

@[simp] theorem Part.setTrigger_aside (trigger : Option Trigger) : (p.setTrigger trigger).aside = p.aside := rfl

@[simp] theorem Part.setLate_aside (late : Option LateSwitch) : (p.setLate late).aside = p.aside := rfl

@[simp] theorem Part.setHeld_aside (held : Option HeldSwitch) : (p.setHeld held).aside = p.aside := rfl

@[simp] theorem Part.ownShadow_aside (owner : ShadowOwner) (fetch : Option ShadowFetch) : (p.ownShadow owner
    fetch).aside = p.aside := rfl

@[simp] theorem Part.putResident_aside (role : Role) (entry : Option Resident) : (p.putResident role
    entry).aside = p.aside := rfl

@[simp] theorem Part.sendDowns_aside (player : Fin 4) : (p.sendDowns player).aside = p.aside := by
  simp [Part.sendDowns]

@[simp] theorem Part.carryPedals_aside : p.carryPedals.aside = p.aside := by
  unfold Part.carryPedals
  exact foldl_aside _ (fun q i => by split <;> simp) _ _

@[simp] theorem Part.emptyShadow_aside : p.emptyShadow.aside = p.aside := by simp [Part.emptyShadow]

@[simp] theorem Part.lookFor_aside (scene : Nat) : (p.lookFor scene).aside = p.aside := by simp [Part.lookFor]

@[simp] theorem Part.actTrigger_aside : p.actTrigger.aside = p.aside := by
  unfold Part.actTrigger; repeat' split
  all_goals simp

@[simp] theorem Part.actWaiting_aside : p.actWaiting.aside = p.aside := by
  unfold Part.actWaiting; dsimp only; repeat' split
  all_goals simp

@[simp] theorem Part.freeShadow_aside : p.freeShadow.aside = p.aside := by simp [Part.freeShadow]

@[simp] theorem Part.swapScene_aside : p.swapScene.aside = p.aside := by unfold Part.swapScene; split <;> simp

@[simp] theorem Part.moveResidents_aside : p.moveResidents.aside = p.aside := by
  unfold Part.moveResidents; repeat' split
  all_goals simp

@[simp] theorem Part.journalLate_aside (source : LateSource) (missed : Option Nat) : (p.journalLate source
    missed).aside = p.aside := by cases missed <;> simp [Part.journalLate]

@[simp] theorem Part.completeSection_aside (target : Nat) (cause : SectionCause) (announced : Option Nat) :
    (p.completeSection target cause announced).aside = p.aside := by simp [Part.completeSection]

@[simp] theorem Part.beginSection_aside (target scene : Nat) (cause : SectionCause) (announced : Option Nat) :
    (p.beginSection target scene cause announced).aside = p.aside := by simp [Part.beginSection]

@[simp] theorem Part.considerScene_aside (target : Nat) (cause : SectionCause) : (p.considerScene target
    cause).aside = p.aside := by
  unfold Part.considerScene; repeat' split
  all_goals simp

@[simp] theorem Part.considerEntry_aside : p.considerEntry.aside = p.aside := by
  unfold Part.considerEntry; dsimp only; repeat' split
  all_goals simp

@[simp] theorem Part.considerLanding_aside (lands : Bool) : (p.considerLanding lands).aside = p.aside := by
  unfold Part.considerLanding; split <;> simp

@[simp] theorem Part.considerPark_aside : p.considerPark.aside = p.aside := by simp [Part.considerPark]

@[simp] theorem Part.makeLate_aside : p.makeLate.aside = p.aside := by unfold Part.makeLate; split <;> simp

@[simp] theorem Part.makeLateNow_aside : p.makeLateNow.aside = p.aside := by
  unfold Part.makeLateNow; split <;> simp

@[simp] theorem Part.loaderAnnounce_aside (kind : BoundaryKind) : (p.loaderAnnounce kind).aside = p.aside := by
  unfold Part.loaderAnnounce; split <;> simp

end Sys2Proof.Machine
end

