-- ==== Sys2Proof/Laws/Stopping.lean ====
section
/-! SUPPORT. Entering Stopping (R176): the refusal of every cue, and what the whole act leaves. -/

namespace Sys2Proof.Machine

/-- What a refusal at Stopping keeps of a part; q is the part after it. -/
structure OnlyRefused (p q : Part) : Prop where
  posted : q.cues.posted = p.cues.posted
  arms : q.cues.arms = p.cues.arms
  tracker : q.tracker = p.tracker
  players : q.players = p.players
  voices : q.voices = p.voices
  loader : q.loader = p.loader
  timeline : q.timeline = p.timeline
  pointer : q.pointer = p.pointer
  click : q.click = p.click
  tdm : q.tdm = p.tdm
  flags : q.flags = p.flags
  region : q.watch.region = p.watch.region
  residents : q.watch.residents = p.watch.residents
  irq : q.irq = p.irq
  notice : q.notice = p.notice

theorem OnlyRefused.trans {p q r : Part} (h2 : OnlyRefused q r) (h1 : OnlyRefused p q) : OnlyRefused p r :=
  ⟨h2.1.trans h1.1, h2.2.trans h1.2, h2.3.trans h1.3, h2.4.trans h1.4, h2.5.trans h1.5, h2.6.trans h1.6,
    h2.7.trans h1.7, h2.8.trans h1.8, h2.9.trans h1.9, h2.10.trans h1.10, h2.11.trans h1.11, h2.12.trans h1.12,
    h2.13.trans h1.13, h2.14.trans h1.14, h2.15.trans h1.15⟩

theorem Part.refuseStopped_only (p : Part) (slot : Fin 32) (notify : Bool) : OnlyRefused p (p.refuseStopped slot notify) :=
  ⟨rfl, rfl, rfl, rfl, rfl, rfl, rfl, rfl, rfl, rfl, rfl, rfl, rfl, rfl, rfl⟩

theorem Part.refuseStopped_owner (p : Part) (slot other : Fin 32) (notify : Bool) :
    (p.refuseStopped slot notify).watch.owners[other] =
      if slot = other then SlotOwner.host else p.watch.owners[other] := by
  simp only [Part.refuseStopped, Part.queueResult_fields, Part.setOwner_fields, Fin.getElem_fin,
    Vector.getElem_set, Fin.ext_iff]

/-- Refusing a list of slots: each is host-owned afterwards, the others keep their owner, all else is kept. -/
theorem refuse_list {α : Type} (slot : α → Fin 32) (notify : α → Bool) (l : List α) (p : Part) :
    OnlyRefused p (l.foldl (fun p a => p.refuseStopped (slot a) (notify a)) p) ∧
      ∀ other : Fin 32, (l.foldl (fun p a => p.refuseStopped (slot a) (notify a)) p).watch.owners[other] =
        if ∃ a ∈ l, slot a = other then SlotOwner.host else p.watch.owners[other] := by
  induction l generalizing p with
  | nil => exact ⟨⟨rfl, rfl, rfl, rfl, rfl, rfl, rfl, rfl, rfl, rfl, rfl, rfl, rfl, rfl, rfl⟩, fun _ => by simp⟩
  | cons a rest ih =>
    obtain ⟨h, ho⟩ := ih (p.refuseStopped (slot a) (notify a))
    refine ⟨⟨h.1, h.2, h.3, h.4, h.5, h.6, h.7, h.8, h.9, h.10, h.11, h.12, h.13, h.14, h.15⟩, fun other => ?_⟩
    rw [List.foldl_cons, ho other, p.refuseStopped_owner]
    by_cases h1 : slot a = other <;> simp [h1]

/-- The shadow emptied (R114): its stores, fetch and entries none; nothing beside the loader and its entries touched. -/
@[simp] theorem Part.emptyShadow_fields (p : Part) :
    p.emptyShadow.loader = { p.loader with
        owner := none, shadowSong := none, shadowScene := none, ready := false, fetch := none } ∧
      p.emptyShadow.watch = { p.watch with
        residents := { p.watch.residents with shadowSong := none, shadowScene := none } } ∧
      p.emptyShadow.flags = p.flags ∧ p.emptyShadow.timeline = p.timeline ∧ p.emptyShadow.pointer = p.pointer ∧
      p.emptyShadow.click = p.click ∧ p.emptyShadow.tdm = p.tdm ∧ p.emptyShadow.players = p.players ∧
      p.emptyShadow.tracker = p.tracker ∧ p.emptyShadow.voices = p.voices ∧ p.emptyShadow.cues = p.cues ∧
      p.emptyShadow.irq = p.irq ∧ p.emptyShadow.notice = p.notice ∧ p.emptyShadow.engine = p.engine ∧
      p.emptyShadow.startError = p.startError ∧ p.emptyShadow.starting = p.starting ∧
      p.emptyShadow.layout = p.layout ∧ p.emptyShadow.mail = p.mail ∧ p.emptyShadow.arbiter = p.arbiter := by
  simp [Part.emptyShadow, ResidentSet.put]

/-- The refusal of every cue at Stopping (R153): both lists empty, every slot of either list host-owned, the trigger,
late and held switches none; the blocks beside the cue unit and the scene loader kept. -/
theorem Part.refuseAll_spec (p : Part) :
    p.refuseAll.cues.posted = [] ∧ p.refuseAll.cues.arms = [] ∧ p.refuseAll.cues.take = none ∧
      (∀ slot : Fin 32, p.refuseAll.watch.owners[slot] =
        if slot ∈ p.cues.posted ∨ ∃ a ∈ p.cues.arms, a.slot = slot then .host else p.watch.owners[slot]) ∧
      p.refuseAll.tracker = p.tracker ∧ p.refuseAll.players = p.players ∧ p.refuseAll.voices = p.voices ∧
      p.refuseAll.timeline = p.timeline ∧ p.refuseAll.pointer = p.pointer ∧ p.refuseAll.click = p.click ∧
      p.refuseAll.tdm = p.tdm ∧ p.refuseAll.flags = p.flags ∧ p.refuseAll.watch.region = p.watch.region ∧
      p.refuseAll.watch.residents.clicks = p.watch.residents.clicks ∧
      p.refuseAll.loader.clickFetches = p.loader.clickFetches ∧ p.refuseAll.loader.trigger = none ∧
      p.refuseAll.loader.late = none ∧ p.refuseAll.loader.held = none ∧ p.refuseAll.irq = p.irq := by
  obtain ⟨h1, o1⟩ := refuse_list (fun s : Fin 32 => s) (fun _ => false) p.cues.posted p
  obtain ⟨h2, o2⟩ := refuse_list (fun a : ArmedCue => a.slot) (fun a => a.notify) p.cues.arms
    (p.cues.posted.foldl (fun p slot => p.refuseStopped slot false) p)
  have hown : ∀ slot : Fin 32, (p.cues.arms.foldl (fun p a => p.refuseStopped a.slot a.notify)
      (p.cues.posted.foldl (fun p slot => p.refuseStopped slot false) p)).watch.owners[slot] =
        if slot ∈ p.cues.posted ∨ ∃ a ∈ p.cues.arms, a.slot = slot then .host else p.watch.owners[slot] := by
    intro slot
    rw [o2 slot, o1 slot]
    by_cases ha : ∃ a ∈ p.cues.arms, a.slot = slot <;> by_cases hb : slot ∈ p.cues.posted <;> simp_all
  have h3 := h2.trans h1
  unfold Part.refuseAll
  dsimp only
  generalize p.cues.arms.foldl (fun p a => p.refuseStopped a.slot a.notify)
    (p.cues.posted.foldl (fun p slot => p.refuseStopped slot false) p) = armed at hown h3 ⊢
  split <;> simp [h3.tracker, h3.players, h3.voices, h3.timeline, h3.pointer, h3.click, h3.tdm,
    h3.flags, h3.region, h3.residents, h3.loader, h3.irq] <;> exact hown

/-- The stores given up at Stopping (R66, R112): the stores, the shadow and their entries none; the rest kept. -/
theorem Part.giveUpStores_spec (p : Part) :
    p.giveUpStores.loader = { p.loader with
        owner := none, shadowSong := none, shadowScene := none, ready := false, fetch := none
        activeSong := none, activeScene := none } ∧
      p.giveUpStores.watch = { p.watch with
        residents := { ResidentSet.reset with clicks := p.watch.residents.clicks } } ∧
      p.giveUpStores.flags = 0 ∧ p.giveUpStores.timeline = p.timeline ∧ p.giveUpStores.pointer = p.pointer ∧
      p.giveUpStores.click = p.click ∧ p.giveUpStores.tdm = p.tdm ∧ p.giveUpStores.players = p.players ∧
      p.giveUpStores.tracker = p.tracker ∧ p.giveUpStores.voices = p.voices ∧ p.giveUpStores.cues = p.cues ∧
      p.giveUpStores.irq = p.irq ∧ p.giveUpStores.notice = p.notice := by
  simp [Part.giveUpStores, ResidentSet.put, ResidentSet.reset]

@[simp] theorem Part.giveUpStores_outer (p : Part) : p.giveUpStores.outer = p.outer := by simp [Part.giveUpStores]

/-- The clock going Idle as the engine leaves Running (R19). -/
theorem Part.idleClock_spec (p : Part) :
    p.idleClock.timeline = { p.timeline with
        clock := .idle, pausedFrom := none, startPending := false, acc := 0, beatOpen := true, plan := none
        startByte := .none } ∧
      p.idleClock.pointer = SongPointer.reset ∧ p.idleClock.click = p.click ∧ p.idleClock.tdm = p.tdm ∧
      p.idleClock.watch = p.watch ∧ p.idleClock.cues = p.cues ∧ p.idleClock.irq = p.irq ∧
      p.idleClock.loader = { p.loader with trigger := none } ∧ p.idleClock.players = p.players ∧
      p.idleClock.tracker = p.tracker ∧ p.idleClock.flags = p.flags ∧ p.idleClock.notice = p.notice := by
  unfold Part.idleClock Part.requestStop
  split <;> exact ⟨rfl, rfl, rfl, rfl, rfl, rfl, rfl, rfl, rfl, rfl, rfl, rfl⟩

/-- The drain test (R177): everything but the engine state is kept. -/
theorem Part.drainTest_rest (p : Part) :
    p.drainTest = { p with engine := p.drainTest.engine } := by
  unfold Part.drainTest; split <;> rfl

/-- The engine state after a drain test (R177): Stopped from Stopping alone, when all four conditions hold. -/
theorem Part.drainTest_engine (p : Part) :
    p.drainTest.engine =
      if p.engine = .stopping && p.voices.drained && !p.tracker.owes && p.cues.writes.isEmpty &&
        p.notice.accepted.isEmpty then .stopped else p.engine := by
  unfold Part.drainTest; split <;> rfl

/-- Entering Stopping: the engine is Stopping, or Stopped where the drain ends in the same act (R176, R177); the fields
outside the blocks it silences are kept. -/
theorem Part.enterStopping_kept (p : Part) :
    (p.enterStopping.engine = .stopping ∨ p.enterStopping.engine = .stopped) ∧
      p.enterStopping.startError = p.startError ∧ p.enterStopping.starting = p.starting ∧
      p.enterStopping.layout = p.layout ∧ p.enterStopping.mail = p.mail ∧ p.enterStopping.arbiter = p.arbiter ∧
      p.enterStopping.notice.config = p.notice.config ∧ p.enterStopping.timeline.rate = p.timeline.rate ∧
      p.enterStopping.timeline.frame = p.timeline.frame := by
  have ho : (p.idleClock.refuseAll.panic .stopping).1.giveUpStores.endCursors.outer = p.outer := by simp
  unfold Part.enterStopping
  dsimp only
  generalize (p.idleClock.refuseAll.panic .stopping).1.giveUpStores.endCursors = q at ho ⊢
  simp only [Part.outer, Outer.mk.injEq] at ho
  rw [Part.drainTest_rest, Part.drainTest_engine]
  refine ⟨?_, ho.2.1, ho.2.2.1, ho.2.2.2.1, ho.2.2.2.2.1, ho.2.2.2.2.2.1, ho.2.2.2.2.2.2.1,
    ho.2.2.2.2.2.2.2.2.2.2.2.2.1, ho.2.2.2.2.2.2.2.2.2.2.2.2.2⟩
  dsimp only
  split <;> simp

/-- A RUN write (R175): 1 while Stopped begins Starting. -/
theorem Part.writeRun_starts (p : Part) (h : p.engine = .stopped) : p.writeRun true = p.beginStarting := by
  unfold Part.writeRun; rw [h]

/-- A RUN write (R175): 0 while Running enters Stopping. -/
theorem Part.writeRun_stops (p : Part) (h : p.engine = .running) : p.writeRun false = p.enterStopping := by
  unfold Part.writeRun; rw [h]

/-- A RUN write (R175): every other changes nothing. -/
theorem Part.writeRun_kept (p : Part) (run : Bool) (h1 : run = true → p.engine ≠ .stopped)
    (h2 : run = false → p.engine ≠ .running) : p.writeRun run = p := by
  unfold Part.writeRun
  cases run
  · cases he : p.engine <;> first | exact absurd he (h2 rfl) | rfl
  · cases he : p.engine <;> first | exact absurd he (h1 rfl) | rfl

end Sys2Proof.Machine
end

