-- ==== Sys2Proof/Laws/Frame.lean ====
section
/-! SUPPORT. Frames: a quiet frame, what rendering and a click event move, a scene loader at rest in a boundary, the tempo
of a beat (1.2 to 1.4, 3.2, 3.3). -/

namespace Sys2Proof.Machine

theorem executeUpTo_idle (p : Part) (h : p.nextCue = none) (n : Nat) : p.executeUpTo n = p := by
  induction n with
  | zero => rfl
  | succ n ih =>
    have : p.executeNext = p := by unfold Part.executeNext; rw [h]
    show p.executeNext.executeUpTo n = p
    rw [this]; exact ih

/-- With no cue to execute nothing is executed (R144). -/
theorem executeDue_idle (p : Part) (h : p.nextCue = none) : p.executeDue = p := executeUpTo_idle p h _

theorem drainTest_idle (p : Part) (h : p.engine ≠ .stopping) : p.drainTest = p := by
  unfold Part.drainTest; rw [if_neg]; simp [h]

/-- A fold of steps that change nothing. -/
theorem foldl_unchanged {α : Type} (f : Part → α → Part) (p : Part) : ∀ l : List α, (∀ a ∈ l, f p a = p) → l.foldl f p = p
  | [], _ => rfl
  | a :: rest, h => by
    rw [List.foldl_cons, h a (by simp)]; exact foldl_unchanged f p rest fun b hb => h b (by simp [hb])

/-- A quiet part has no overdue step (log 3). -/
theorem quiet_spec (p : Part) (h : p.quiet = true) : p.takeOverdue = p ∧ p.nextCue = none ∧ p.engine ≠ .stopping := by
  unfold Part.quiet at h
  simp only [Bool.and_eq_true, List.all_eq_true, Bool.not_eq_true', Option.isNone_iff_eq_none, bne_iff_ne, ne_eq] at h
  obtain ⟨⟨⟨h1, h2⟩, h3⟩, h4⟩ := h
  refine ⟨?_, h3, h4⟩
  have e1 : allRoles.foldl Part.endSettle p = p := foldl_unchanged _ _ _ fun r hr => by
    unfold Part.endSettle; rw [if_neg]; simp [h1 r hr]
  have e2 : p.expireHold = p := by
    unfold Part.expireHold; split
    · rfl
    · rename_i held hh; rw [hh] at h2; simp at h2; rw [if_pos h2]
  unfold Part.takeOverdue
  rw [e1, e2, executeDue_idle p h3, drainTest_idle p h4]

theorem nextCue_congr {p q : Part} (h1 : q.cues.arms = p.cues.arms) (h2 : q.heldSlot = p.heldSlot) : q.nextCue = p.nextCue := by
  unfold Part.nextCue; rw [h1, h2]

theorem tick_heldSlot (p : Part) : p.tickCountdowns.heldSlot = p.heldSlot := by
  unfold Part.heldSlot
  show (match p.loader.held.map HeldSwitch.tick with | some { cause := .cue slot, .. } => some slot | _ => none) = _
  cases h : p.loader.held with
  | none => rfl
  | some hs => obtain ⟨c, n⟩ := hs; cases c <;> rfl

theorem cuesUnannounced_idle (p : Part) (o b) (h : p.nextCue = none) : p.cuesUnannounced o b = p := by
  unfold Part.cuesUnannounced; split
  · exact executeDue_idle p h
  · rfl

theorem render_nextCue (p : Part) : p.render.nextCue = p.nextCue := by
  unfold Part.render; split <;> exact nextCue_congr rfl rfl

/-- A frame without an announcement and without a cue to execute renders and nothing else. -/
theorem blocksAct_nothing (p : Part) (o) (h : p.nextCue = none) : p.blocksAct o .nothing = p.render := by
  show ((p.cuesUnannounced o false).render).cuesUnannounced o true = _
  rw [cuesUnannounced_idle _ _ _ h, cuesUnannounced_idle _ _ _ ((render_nextCue p).trans h)]

/-- A quiet frame: the countdowns, the frame count, then the timeline and the blocks. -/
theorem frame_quiet (p : Part) (o) (h : p.quiet = true) : p.frame o = (p.tickCountdowns.countFrame).timelineAct.1.blocksAct o (p.tickCountdowns.countFrame).timelineAct.2 := by
  unfold Part.frame; rw [(quiet_spec p h).1]

/-- Rendering moves the cursors and the slots alone (R48, R53). -/
theorem render_shape (q : Part) : ∃ c t, q.render = { q with click := c, tdm := t } := by
  unfold Part.render; split <;> exact ⟨_, _, rfl⟩

/-- A click event moves the click generator and the journal alone (R46, R47). -/
theorem clickEvent_shape (q : Part) (k st) : ∃ c n, q.clickEvent k st = { q with click := c, notice := n } := by
  unfold Part.clickEvent; split
  · exact ⟨_, _, rfl⟩
  · dsimp only; split
    · split
      · exact ⟨_, _, rfl⟩
      · split <;> exact ⟨_, _, rfl⟩
    · exact ⟨_, _, rfl⟩

theorem subClick_render_shape (q : Part) (index) : ∃ c t n, (q.subClick index).render = { q with click := c, tdm := t, notice := n } := by
  have a3 : ∃ c n, q.subClick index = { q with click := c, notice := n } := by
    unfold Part.subClick; split
    · split
      · exact clickEvent_shape _ _ _
      · exact ⟨_, _, rfl⟩
    · exact ⟨_, _, rfl⟩
  obtain ⟨c, n, h⟩ := a3
  obtain ⟨c2, t, h2⟩ := render_shape (q.subClick index)
  exact ⟨c2, t, n, by rw [h2, h]⟩

/-- A running frame is rendered from the click generator as it stands. -/
theorem rendered_render (q : Part) (h : q.engine = .running) : q.render.renderedFrom q.click := by
  unfold Part.render Part.renderedFrom
  rw [if_pos h]
  refine ⟨rfl, fun i => ?_⟩
  simp [tdmSlot]

theorem render_notice (q : Part) : q.render.notice = q.notice := by
  obtain ⟨c, t, h⟩ := render_shape q; rw [h]

/-- A click event and the frame rendered after it are those of the part they stand in (R46, R47). -/
theorem clicked_of (p x : Part) (cls) (st) (h1 : x.loader.activeSong = p.loader.activeSong) (h2 : x.click = p.click)
    (h3 : x.watch.residents.clicks = p.watch.residents.clicks) (he : x.engine = .running) :
    p.clicked (x.clickEvent cls st).render cls st x.notice := by
  intro song hs index
  have hr : ∀ i : Fin 4, x.isRefreshing (.click i) = p.isRefreshing (.click i) := by
    intro i; simp only [Part.isRefreshing, Part.resident, ResidentSet.get, h3]
  have e0 : ∀ y : Part, x.clickEvent cls st = y → y.engine = .running → (x.clickEvent cls st).render.renderedFrom y.click ∧ (x.clickEvent cls st).render.notice = y.notice := by
    rintro y rfl he; exact ⟨rendered_render _ he, render_notice _⟩
  have e1 : x.clickEvent cls st = if h : index < 4 then
      let sound : Fin 4 := ⟨index, h⟩
      if x.isRefreshing (.click sound) then x.journalAt st (.clickSkipped cls index)
      else if x.click.sounds[sound].length = 0 then x
      else { x with click := x.click.trigger cls sound }
    else x := by unfold Part.clickEvent; rw [h1, hs]
  refine ⟨fun h => ?_, fun sound hi => ⟨fun h => ?_, fun h hl => ?_, fun h hl => ?_⟩⟩
  · rw [dif_neg (by omega)] at e1
    have := e0 _ e1 he; rw [h2] at this; exact this
  all_goals
    have hlt : index < 4 := by omega
    have hsd : (⟨index, hlt⟩ : Fin 4) = sound := Fin.ext hi.symm
    rw [dif_pos hlt] at e1
    simp only [hsd] at e1
    rw [hr, h] at e1
  · rw [if_pos rfl] at e1
    have := e0 _ e1 he
    rw [show (x.journalAt st (.clickSkipped cls index)).click = x.click from rfl, h2] at this; exact this
  · rw [if_neg (by simp), if_pos (by rw [h2]; exact hl)] at e1
    have := e0 _ e1 he; rw [h2] at this; exact this
  · rw [if_neg (by simp), if_neg (by rw [h2]; exact hl)] at e1
    have := e0 _ e1 he
    refine ⟨?_, this.2⟩
    have e2 : (x.click.trigger cls sound) = { p.click with mixes := Vector.ofFn fun i =>
            if (p.click.mixes[i]).mute = false ∧ 0 < (p.click.mixes[i]).levels.get cls then
              { p.click.mixes[i] with cursor :=
                { sound := some sound, position := 0, level := (p.click.mixes[i]).levels.get cls, running := true } }
            else p.click.mixes[i] } := by
      rw [h2]; unfold ClickGen.trigger Mix.trigger
      congr 2; funext i
      simp only [Bool.and_eq_true, Bool.not_eq_true', decide_eq_true_eq]
    rw [← e2]; exact this.1

/-- Only the loader and the shadow entries differ, the active song and the click entries not among them. -/
def LoaderMoved (x y : Part) : Prop := ∃ l r, y = { x with loader := l, watch := { x.watch with residents := r } } ∧
  l.activeSong = x.loader.activeSong ∧ r.clicks = x.watch.residents.clicks

theorem LoaderMoved.refl (x : Part) : LoaderMoved x x := ⟨_, _, rfl, rfl, rfl⟩

theorem LoaderMoved.trans {x y z : Part} (h1 : LoaderMoved x y) (h2 : LoaderMoved y z) : LoaderMoved x z := by
  obtain ⟨l, r, rfl, a, b⟩ := h1
  obtain ⟨l2, r2, rfl, a2, b2⟩ := h2
  exact ⟨l2, r2, rfl, a2.trans a, b2.trans b⟩

theorem loaderMoved_lookFor (x : Part) (n) : LoaderMoved x (x.lookFor n) := ⟨_, _, rfl, rfl, rfl⟩

theorem loaderMoved_emptyShadow (x : Part) : LoaderMoved x x.emptyShadow := ⟨_, _, rfl, rfl, rfl⟩

theorem loaderMoved_setLate (x : Part) (n) : LoaderMoved x (x.setLate n) := ⟨_, _, rfl, rfl, rfl⟩

theorem loaderMoved_actTrigger (x : Part) : LoaderMoved x x.actTrigger := by
  unfold Part.actTrigger
  split
  · exact .refl x
  · split
    · exact loaderMoved_emptyShadow x
    · split
      · exact .refl x
      · exact loaderMoved_lookFor x _
    · exact loaderMoved_lookFor x _
    · exact .refl x

/-- A scene loader at rest takes an announcement within the loader and the shadow entries (R121, R122). -/
theorem loaderMoved_loaderTakes (x : Part) (h : x.loaderAtRest) (k) : LoaderMoved x (x.loaderTakes k) := by
  obtain ⟨h1, h2, h3⟩ := h
  refine LoaderMoved.trans ?_ (loaderMoved_actTrigger _)
  unfold Part.loaderAnnounce
  have e1 : x.setHeld (x.loader.held.map HeldSwitch.count) = x := by
    rw [h3]; show ({ x with loader := { x.loader with held := none } } : Part) = x
    rw [← h3]
  rw [e1]
  cases k with
  | newSection =>
    unfold Part.considerEntry
    dsimp only
    rw [show (x.setLate none).loader.held = none from h3]
    dsimp only
    refine (loaderMoved_setLate x none).trans ?_
    unfold Part.considerScene
    split
    · rw [show (x.setLate none).lookaheadScene = none by unfold Part.lookaheadScene; rw [show (x.setLate none).loader.owner = none from h1]]
      exact .refl _
    · rw [show (x.setLate none).lookaheadScene = none by unfold Part.lookaheadScene; rw [show (x.setLate none).loader.owner = none from h1]]
      split
      · exact .refl _
      · rw [show (x.setLate none).loader.owner = none from h1]
        exact (loaderMoved_lookFor _ _).trans (loaderMoved_setLate _ _)
  | beat =>
    dsimp only
    rw [h2]
    refine (loaderMoved_setLate x none).trans ?_
    exact .refl _
  | bar =>
    dsimp only
    rw [h2]
    refine (loaderMoved_setLate x none).trans ?_
    exact .refl _

theorem giveTriggerIf_shape (q : Part) (c) : ∃ t, q.giveTriggerIf c = { q with loader := { q.loader with trigger := t } } := by
  unfold Part.giveTriggerIf; split
  · exact ⟨_, rfl⟩
  · exact ⟨q.loader.trigger, rfl⟩

/-- Fixing a tempo touches the tempo and the plan alone. -/
theorem fixTempo_shape (x : Part) (e : Bool) : ∃ tl, x.fixTempo e = { x with timeline := tl } ∧ tl = { x.timeline with tempo := tl.tempo, plan := tl.plan } := by
  unfold Part.fixTempo; split
  · exact ⟨_, rfl, rfl⟩
  · split
    · exact ⟨_, rfl, rfl⟩
    · exact ⟨_, rfl, rfl⟩

/-- A fine tick touches the last tick, the Start byte to come and the ports alone (R6, R20). -/
theorem fineTick_shape (x : Part) (i) : ∃ sb v, x.fineTick i = { x with timeline := { x.timeline with startByte := sb }, pointer := { x.pointer with lastTick := i }, voices := v } := by
  unfold Part.fineTick Part.syncPulse
  dsimp only
  split
  · split
    · exact ⟨_, _, rfl⟩
    · exact ⟨_, _, rfl⟩
  · exact ⟨_, _, rfl⟩

/-- The tempo fixed for a beat is the schedule or the override (R8 to R10). -/
theorem paces_fixTempo (x : Part) (e : Bool) (sched) (h : x.scheduleTempo = sched) : x.paces (x.fixTempo e) sched e := by
  subst h
  unfold Part.paces
  refine ⟨fun h => ?_, fun o h => ⟨fun h1 h2 => ?_, fun h1 => ?_⟩⟩
  · unfold Part.fixTempo; rw [h]; exact ⟨h, rfl⟩
  · unfold Part.fixTempo; rw [h]; dsimp only; rw [if_pos (by simp [h1, h2])]; exact ⟨rfl, rfl⟩
  · unfold Part.fixTempo; rw [h]
    dsimp only
    rw [if_neg (by rcases h1 with h1 | h1 <;> simp [h1])]
    exact ⟨rfl, rfl⟩

theorem paces_congr {p q x y : Part} {a e} (h : x.paces y a e) (h1 : p.timeline.plan = x.timeline.plan) (h2 : q.timeline.plan = y.timeline.plan) (h3 : q.timeline.tempo = y.timeline.tempo) :
    p.paces q a e := by
  unfold Part.paces at *
  rw [h1, h2, h3]; exact h

/-- A ramp at its start stands at its base. -/
theorem rampTempo_zero (a b n : Nat) : rampTempo a b 0 n = a := by unfold rampTempo; simp

/-- What the start of a song moves (R27, R28). -/
theorem startSong_eq (q : Part) : ∃ t, q.startSong = { q with
    timeline := { q.timeline with clock := .playing, startByte := .nextPulse }
    loader := { q.loader with trigger := t }
    notice := q.notice.handOver { event := .sectionEntered .start q.pointer.startSection 1, stamp := ({ q with pointer := { q.pointer with
      phase := .song, sectionIndex := q.pointer.startSection, pass := 1, bar := 1, beat := 1, lastTick := 0
      barsPlayed := 1 } } : Part).stamp }
    pointer := { q.pointer with
      phase := .song, sectionIndex := q.pointer.startSection, pass := 1, bar := 1, beat := 1, lastTick := 0
      barsPlayed := 1 } } := by
  let pt : SongPointer := { q.pointer with
      phase := .song, sectionIndex := q.pointer.startSection, pass := 1, bar := 1, beat := 1, lastTick := 0
      barsPlayed := 1 }
  let Q : Part := ({ (q.setPointer pt) with timeline := { q.timeline with clock := .playing, startByte := .nextPulse } } : Part).journal (.sectionEntered .start pt.sectionIndex 1)
  have h0 : q.startSong = Q.giveTriggerIf (Q.oneBarSection || Q.pointer.leave) := rfl
  obtain ⟨t, hl⟩ := giveTriggerIf_shape Q (Q.oneBarSection || Q.pointer.leave)
  exact ⟨t, h0.trans hl⟩

end Sys2Proof.Machine
end

