-- ==== Sys2Proof/Laws/Switch.lean ====
section
/-! SUPPORT. Jumps, song swaps and switches: where the timeline takes a target, what a section entry at rest leaves, and
how a cue's switch ends (2.2, 2.4, 8.4 to 8.6). -/

namespace Sys2Proof.Machine

theorem endOn_eq (m : Mix) (sound : Fin 4) : m.endOn sound = if m.cursor.sound = some sound then { m with cursor := { m.cursor with running := false } } else m := by
  unfold Mix.endOn Cursor.stopped
  rfl

/-- No trigger, or a late section switch: the trigger only stands (R121). -/
theorem actTrigger_off (p : Part) (h : p.loader.trigger = none ∨ p.loader.late ≠ none) : p.actTrigger = p := by
  unfold Part.actTrigger
  rw [if_pos]
  rcases h with h | h
  · rw [h]; rfl
  · cases hl : p.loader.late with
    | none => exact absurd hl h
    | some l => simp

theorem triggerWants_section (p : Part) (target) (h : p.loader.trigger = some (.toSection target)) : p.triggerWants = match p.sceneOf target with
    | none => none
    | some scene => if p.activeSceneNumber = some scene then none else some scene := by
  simp only [Part.triggerWants, h]
  all_goals rfl

/-- A scene loader at rest acts on the trigger it stands with (R121). -/
theorem actTrigger_rest (p : Part) (h1 : p.loader.owner = none) (h2 : p.loader.late = none) (h3 : p.loader.held = none) (t) (ht : p.loader.trigger = some t) :
   p.actTrigger = match p.triggerWants with | none => p | some w => p.lookFor w := by
  unfold Part.actTrigger
  rw [if_neg (by unfold Part.sectionHeld; rw [ht, h2, h3]; simp), h1]
  cases p.triggerWants <;> rfl

theorem cuesDueAtOnce_due (p : Part) (a : ArmedCue) (h1 : p.cues.arms = [a]) (h2 : a.due = true) : p.cuesDueAtOnce = p := by
  unfold Part.cuesDueAtOnce
  rw [h1]
  have : ({ a with due := true } : ArmedCue) = a := by cases a; simp_all
  rw [List.map_cons, this, List.map_nil, ← h1]

theorem sectionCount_of (p : Part) (t sec) (h : p.sectionAt t = some sec) : t < p.sectionCount := by
  unfold Part.sectionAt at h
  unfold Part.sectionCount
  cases hs : p.loader.activeSong with
  | none => rw [hs] at h; cases h
  | some song =>
    rw [hs] at h
    exact (List.getElem?_eq_some_iff.mp h).1

theorem startTempo_of (p : Part) (t sec) (h : p.sectionAt t = some sec) : p.startTempo t = clampTempo sec.startTempo := by
  unfold Part.startTempo; rw [h]

theorem oneBarSection_of (p : Part) (t sec) (h : p.sectionAt t = some sec) (hb : 1 < sec.bars) (hp : p.pointer.sectionIndex = t) : p.oneBarSection = false := by
  unfold Part.oneBarSection Part.currentSection
  rw [hp, h]
  exact decide_eq_false (by omega)

/-- A section entry into a section of more than one bar gives no trigger (R30, R40). -/
theorem enterSection_long (p : Part) (t pass cause sec) (h : p.sectionAt t = some sec) (hb : 1 < sec.bars) :
   p.enterSection t pass cause = ((p.setPointer { p.pointer with
    phase := .song, sectionIndex := t, pass := pass, bar := 1, beat := 1, lastTick := 0, leave := false }).setTrigger none).journal (.sectionEntered cause t pass) := by
  unfold Part.enterSection
  dsimp only
  rw [oneBarSection_of (((p.setPointer { p.pointer with
    phase := .song, sectionIndex := t, pass := pass, bar := 1, beat := 1, lastTick := 0, leave := false }).setTrigger none).journal (.sectionEntered cause t pass)) t sec h hb rfl]
  rfl

/-- A jump's target taken by the timeline (R35). -/
theorem jumpTo_jumped (p : Part) (t sec) (h : p.sectionAt t = some sec) : p.jumped (p.jumpTo t) t sec := by
  refine ⟨fun hc => ?_, fun hc => ?_, fun hc ho => ?_, fun hc ho hb => ?_⟩
  · unfold Part.jumpTo; rw [hc]
    dsimp only
    have hq : ∀ ptr, (p.setPointer ptr).startTempo t = clampTempo sec.startTempo := fun ptr => startTempo_of (p.setPointer ptr) t sec h
    rw [hq]; rfl
  · unfold Part.jumpTo; rw [hc]
    dsimp only
    rw [h]; rfl
  · have : p.jumpTo t = p.setPointer { p.pointer with entry := some { target := t, cause := .jump } } := by
      unfold Part.jumpTo
      rcases hc with hc | hc <;> rw [hc] <;> dsimp only <;> rw [ho, if_neg (by decide)]
    rw [this]; rfl
  · let p1 := p.land t .jump
    have e0 : p.jumpTo t = match p1.timeline.plan with
      | none => p1.setTempo (p1.startTempo t)
      | some o =>
        if o.keep then p1
        else { p1 with timeline := { p1.timeline with plan := none, tempo := p1.startTempo t } } := by
      unfold Part.jumpTo
      rcases hc with hc | hc <;> rw [hc] <;> dsimp only <;> rw [ho, if_pos rfl] <;> try rfl
    have e1 : p1 = p.land t .jump := rfl
    unfold Part.land at e1
    dsimp only at e1
    rw [enterSection_long _ t 1 _ sec (by exact h) hb] at e1
    have e2 : p1.startTempo t = clampTempo sec.startTempo := by
      rw [startTempo_of p1 t sec (by rw [e1]; exact h)]
    have e3 : p1.timeline.plan = p.timeline.plan := by rw [e1]; rfl
    rw [e0, e3, e2, e1]
    cases hp : p.timeline.plan with
    | none => simp [Part.setTempo, Part.journal, Part.journalAt, Part.setTrigger, Part.setPointer, Part.handed, Part.stamp, hp, barsAfter]
    | some o =>
      dsimp only
      cases hk : o.keep with
      | true => simp [Part.journal, Part.journalAt, Part.setTrigger, Part.setPointer, Part.handed, Part.stamp, hp, hk, barsAfter, Option.filter]
      | false => simp [Part.journal, Part.journalAt, Part.setTrigger, Part.setPointer, Part.handed, Part.stamp, hp, hk, barsAfter, Option.filter]

/-- A jump moves nothing of the loader but the trigger (R35). -/
theorem jumpTo_loader (p : Part) (t) : ∃ x, (p.jumpTo t).loader = { p.loader with trigger := x } ∧ (p.jumpTo t).watch = p.watch ∧ (p.jumpTo t).cues = p.cues ∧ (p.jumpTo t).voices = p.voices ∧ (p.jumpTo t).tracker = p.tracker := by
  have hg : ∀ (p : Part) (b : Bool), ∃ x, (p.giveTriggerIf b).loader = { p.loader with trigger := x } ∧ (p.giveTriggerIf b).watch = p.watch ∧ (p.giveTriggerIf b).cues = p.cues ∧ (p.giveTriggerIf b).voices = p.voices ∧ (p.giveTriggerIf b).tracker = p.tracker := by
    intro p b; unfold Part.giveTriggerIf; split
    · exact ⟨_, rfl, rfl, rfl, rfl, rfl⟩
    · exact ⟨p.loader.trigger, rfl, rfl, rfl, rfl, rfl⟩
  have hl : ∃ x, (p.land t .jump).loader = { p.loader with trigger := x } ∧ (p.land t .jump).watch = p.watch ∧ (p.land t .jump).cues = p.cues ∧ (p.land t .jump).voices = p.voices ∧ (p.land t .jump).tracker = p.tracker := by
    unfold Part.land Part.enterSection
    dsimp only
    obtain ⟨x, e1, e2, e3, e4, e5⟩ := hg _ _
    exact ⟨x, by rw [e1]; rfl, by rw [e2]; rfl, by rw [e3]; rfl, by rw [e4]; rfl, by rw [e5]; rfl⟩
  unfold Part.jumpTo
  split
  · exact ⟨p.loader.trigger, rfl, rfl, rfl, rfl, rfl⟩
  · exact ⟨p.loader.trigger, rfl, rfl, rfl, rfl, rfl⟩
  · exact ⟨p.loader.trigger, rfl, rfl, rfl, rfl, rfl⟩
  all_goals
    split
    · dsimp only
      split
      · exact hl
      · split
        · exact hl
        · exact hl
    · exact ⟨p.loader.trigger, rfl, rfl, rfl, rfl, rfl⟩

theorem jumpTo_untriggered (p : Part) (t sec) (h : p.sectionAt t = some sec) (ht : p.loader.trigger = none) (hb : p.landsAtOnce = true → 1 < sec.bars) : (p.jumpTo t).loader.trigger = none := by
  obtain ⟨j1, j2, j3, j4⟩ := jumpTo_jumped p t sec h
  cases hc : p.timeline.clock with
  | idle => unfold Part.jumpTo; rw [hc]; exact ht
  | parked => rw [j1 hc]; exact ht
  | countIn => rw [j2 hc]; exact ht
  | playing =>
    cases ho : p.timeline.beatOpen with
    | false => rw [j3 (.inl hc) ho]; exact ht
    | true => rw [j4 (.inl hc) ho (hb (by unfold Part.landsAtOnce; rw [hc, ho]; rfl))]
  | paused =>
    cases ho : p.timeline.beatOpen with
    | false => rw [j3 (.inr hc) ho]; exact ht
    | true => rw [j4 (.inr hc) ho (hb (by unfold Part.landsAtOnce; rw [hc, ho]; rfl))]

/-- A section entry whose scene is active leaves a loader at rest as it is (R122). -/
theorem considerEntry_rest (p : Part) (h1 : p.loader.owner = none) (h2 : p.loader.late = none) (h3 : p.loader.held = none) (h4 : ∀ scene, p.sceneOf p.pointer.sectionIndex = some scene → p.loader.activeScene.map (·.number) = some scene) : p.considerEntry = p := by
  have hl : p.setLate none = p := by unfold Part.setLate; rw [← h2]
  have e : p.considerEntry = p.considerScene p.pointer.sectionIndex .sectionEntry := by
    unfold Part.considerEntry
    dsimp only
    rw [hl, h3]
  rw [e]
  have hla : p.lookaheadScene = none := by unfold Part.lookaheadScene; rw [h1]
  unfold Part.considerScene
  cases hs : p.sceneOf p.pointer.sectionIndex with
  | none => dsimp only; rw [hla]; rfl
  | some scene =>
    dsimp only
    rw [if_pos (show p.activeSceneNumber = some scene from h4 scene hs), hla]; rfl

theorem jumpTo_sectionIndex (p : Part) (t sec) (h : p.sectionAt t = some sec) (hl : p.landsAtOnce = true) (hb : 1 < sec.bars) : (p.jumpTo t).pointer.sectionIndex = t := by
  obtain ⟨j1, j2, j3, j4⟩ := jumpTo_jumped p t sec h
  unfold Part.landsAtOnce at hl
  simp only [Bool.and_eq_true, Bool.or_eq_true, decide_eq_true_eq] at hl
  rw [j4 hl.1 hl.2 hb]

/-- The shadow freed with no switch waiting and no trigger (R114). -/
theorem freeShadow_untriggered (p : Part) (hl : p.loader.late = none) (ht : p.loader.trigger = none) : p.freeShadow = p.emptyShadow := by
  unfold Part.freeShadow
  have : p.emptyShadow.actWaiting = p.emptyShadow := by
    unfold Part.actWaiting
    rw [show p.emptyShadow.loader.late = none from hl]
  rw [this]
  unfold Part.actTrigger
  rw [if_pos (by rw [show p.emptyShadow.loader.trigger = none from ht]; rfl)]

/-- A song swapped in (R11, R25, R26). -/
theorem songSwap_swappedIn (p : Part) (song start autoStart sec) (h : song.sections[start]? = some sec) :
    p.swappedIn (p.songSwap song start autoStart) song start autoStart sec := by
  have hsec : ∀ q : Part, q.loader.activeSong = some song → q.startTempo start = clampTempo sec.startTempo := by
    intro q hq
    refine startTempo_of q start sec ?_
    unfold Part.sectionAt; rw [hq]; exact h
  have hci : ∀ q : Part, q.loader.activeSong = some song → q.countInBars = song.countIn := by
    intro q hq; unfold Part.countInBars; rw [hq]
  have hone : ∀ q : Part, q.loader.activeSong = some song → q.pointer.sectionIndex = start → 1 < sec.bars → q.oneBarSection = false := by
    intro q hq hi hb
    refine oneBarSection_of q start sec ?_ hb hi
    unfold Part.sectionAt; rw [hq]; exact h
  refine ⟨fun hc => ?_, fun hc ho hb => ?_, fun hc ho => ?_⟩
  · unfold Part.songSwap
    dsimp only
    rw [if_pos (by simpa using hc)]
    unfold Part.swapParked
    dsimp only
    rw [hsec _ rfl]
    cases autoStart with
    | false => rfl
    | true =>
      rw [if_pos rfl]
      unfold Part.takeStart
      rw [hci _ rfl]
      rfl
  all_goals
    unfold Part.songSwap
    dsimp only
    rw [if_neg (by simpa using hc)]
    unfold Part.swapSegue
    dsimp only
    rw [hsec _ rfl]
    rw [ho]
  · rw [if_pos rfl]
    rw [hone _ rfl rfl hb]
    cases hk : p.timeline.clock <;> simp_all [Part.giveTriggerIf, Part.journal, Part.journalAt, Part.setPointer, Part.handed, Part.stamp]
  · cases hk : p.timeline.clock <;> simp_all [Part.setPointer]

theorem songSwap_loader (p : Part) (song start au sec) (h : song.sections[start]? = some sec)
   (hb : p.clockRuns = true ∨ p.timeline.clock = .paused → p.timeline.beatOpen = true ∨ p.timeline.startPending = true → 1 < sec.bars) :
   (p.songSwap song start au).loader = { p.loader with activeSong := some song, trigger := none } ∧ (p.songSwap song start au).watch = p.watch ∧ (p.songSwap song start au).cues = p.cues ∧ (p.songSwap song start au).voices = p.voices ∧
   (p.songSwap song start au).tracker = p.tracker := by
  obtain ⟨j1, j2, j3⟩ := songSwap_swappedIn p song start au sec h
  by_cases hi : p.timeline.clock = .idle ∨ p.timeline.clock = .parked
  · rw [j1 hi]; exact ⟨rfl, rfl, rfl, rfl, rfl⟩
  · cases ho : (p.timeline.beatOpen || p.timeline.startPending) with
    | false => rw [j3 hi ho]; exact ⟨rfl, rfl, rfl, rfl, rfl⟩
    | true =>
      rw [j2 hi ho (hb (by unfold Part.clockRuns; cases hk : p.timeline.clock <;> simp_all) (by simpa using ho))]; exact ⟨rfl, rfl, rfl, rfl, rfl⟩

/-- How a cue's switch ends after its step 3, with no trigger and no section switch (R127, R132, R144). -/
theorem completeCue_ends (r : Part) (a : ArmedCue) (event : JournalEvent) (outcome : CueOutcome) (short : BitVec 8) (lands : Bool) (incoming : Option Scene)
    (ht : r.loader.trigger = none) (hl : r.loader.late = none) (hh : r.loader.held = none) (ha : r.cues.arms = [a]) (hw : r.cues.writes = [])
    (hin : r.loader.shadowScene = incoming) (hs : lands = true → ∀ scene, r.sceneOf r.pointer.sectionIndex = some scene → r.loader.activeScene.map (·.number) = some scene) :
    (((((r.moveResidents.dropArm a.slot).freeShadow).journal event).considerLanding lands).setOwner a.slot .host).queueResult a.slot outcome a.missed short a.notify =
    { r with
        notice := r.notice.handOver { event := event, stamp := r.stamp }
        loader := { r.loader with
          shadowSong := none, shadowScene := none, owner := none, ready := false, fetch := none }
        watch := { r.watch with
          owners := r.watch.owners.set a.slot .host
          residents := { r.watch.residents with
            activeSong := if r.loader.shadowSong.isSome then r.watch.residents.shadowSong
              else r.watch.residents.activeSong
            activeScene := if incoming.isSome then r.watch.residents.shadowScene else r.watch.residents.activeScene
            shadowSong := none, shadowScene := none } }
        cues := { r.cues with
          arms := []
          writes := [{ slot := a.slot, words := .answer outcome a.missed short :: resultTail r.stamp outcome.final, result := true, notice := a.notify }] } } := by
  let x : Part := { r with
        loader := { r.loader with
          shadowSong := none, shadowScene := none, owner := none, ready := false, fetch := none }
        watch := { r.watch with
          residents := { r.watch.residents with
            activeSong := if r.loader.shadowSong.isSome then r.watch.residents.shadowSong
              else r.watch.residents.activeSong
            activeScene := if incoming.isSome then r.watch.residents.shadowScene else r.watch.residents.activeScene
            shadowSong := none, shadowScene := none } }
        cues := { r.cues with arms := [] } }
  have e1 : (r.moveResidents.dropArm a.slot).freeShadow = x := by
    have hm : r.moveResidents.loader = r.loader ∧ r.moveResidents.cues = r.cues := by
      unfold Part.moveResidents; dsimp only; constructor <;> (split <;> split <;> rfl)
    rw [freeShadow_untriggered _ (by show r.moveResidents.loader.late = none; rw [hm.1, hl]) (by show r.moveResidents.loader.trigger = none; rw [hm.1, ht])]
    unfold Part.dropArm
    rw [hm.2, ha]
    simp only [List.filter_cons, bne_self_eq_false, List.filter_nil, Bool.false_eq_true, if_false]
    unfold Part.moveResidents
    rw [hin]
    cases hso : r.loader.shadowSong <;> cases incoming <;> simp [x, hso, Part.emptyShadow, Part.putResident, ResidentSet.put, Part.resident, ResidentSet.get]
  rw [e1]
  have e2 : (x.journal event).considerLanding lands = x.journal event := by
    unfold Part.considerLanding
    cases lands with
    | false => rfl
    | true =>
      rw [if_pos rfl]
      exact considerEntry_rest _ rfl hl hh (hs rfl)
  rw [e2]
  unfold Part.setOwner Part.queueResult Part.queueItem
  have : (x.journal event).cues.writes = [] := hw
  dsimp only
  rw [this]
  rfl

end Sys2Proof.Machine
end

