-- ==== Sys2Proof/Laws/Carry.lean ====
section
/-! SUPPORT. What a switch sends: the setup batch admitted or offered alone, the pedal carry, and the part after a
section's and after a cue's switch (6.6, 7.3, 8.5, 8.6). -/

namespace Sys2Proof.Machine

/-- A merged list holds no destination twice (R74). -/
theorem mergeDests_once (l : List Dest) : (mergeDests l).Nodup := by
  unfold mergeDests
  have : ∀ (l acc : List Dest), acc.Nodup → (l.foldl (fun out d => if out.contains d then out else out ++ [d]) acc).Nodup := by
    intro l
    induction l with
    | nil => intro acc h; exact h
    | cons d rest ih =>
      intro acc h
      rw [List.foldl_cons]
      apply ih
      split
      · exact h
      · rename_i hc
        rw [List.nodup_append]
        refine ⟨h, by simp, fun a ha b hb => ?_⟩
        simp only [List.mem_singleton] at hb; subst hb
        intro hab; subst hab
        exact hc (by simpa using ha)
  exact this l [] (by simp)

/-- Destinations that are in the set are passed over (R92). -/
theorem offerDowns_filter : ∀ (l : List Dest) (fan : List FanEntry) (v : Voices), l.Nodup →
    offerDowns l fan v = offerDowns (l.filter fun d => !fan.any fun f => f.dest = d) fan v
  | [], _, _, _ => rfl
  | d :: rest, fan, v, hn => by
    by_cases h : (fan.any fun f => f.dest = d) = true
    · rw [List.filter_cons_of_neg (by rw [h]; decide)]
      conv => lhs; unfold offerDowns
      rw [if_pos h]
      exact offerDowns_filter rest fan v hn.of_cons
    · rw [List.filter_cons_of_pos (by simpa using h)]
      unfold offerDowns
      rw [if_neg h, if_neg h]
      dsimp only
      rw [offerDowns_filter rest _ _ hn.of_cons]
      split
      · congr 1
        refine List.filter_congr fun x hx => ?_
        have : d ≠ x := fun hd => (List.nodup_cons.mp hn).1 (hd ▸ hx)
        simp [this]
      · rfl

/-- Sustain-downs to destinations that are not in the set, with room for all: each is admitted and joins the set
(R92, R94). -/
theorem offerDowns_admitted : ∀ (l : List Dest) (fan : List FanEntry) (v : Voices), l.Nodup →
    (∀ d ∈ l, ∀ f ∈ fan, f.dest ≠ d) → v.roomFor (v.reserve + l.length) →
    (offerDowns l fan v).1 = fan ++ l.map (fun d => { dest := d, upOwed := false }) ∧
      v.received (offerDowns l fan v).2 (l.map fun d => (d.voice, sustainDownMessage d))
  | [], fan, v, _, _, _ => ⟨by simp [offerDowns], received_nil v⟩
  | d :: rest, fan, v, hn, hf, h => by
    unfold offerDowns
    rw [if_neg (by
      rw [List.any_eq_true]; rintro ⟨f, hm, hd⟩; exact hf d (by simp) f hm (by simpa using hd))]
    rw [offer_opening (by simpa using h)]
    dsimp only
    rw [if_pos rfl]
    have ih := offerDowns_admitted rest (fan ++ [{ dest := d, upOwed := false }])
      (v.accept d.voice (sustainDownMessage d)) hn.of_cons
      (fun x hx f hm => by
        rcases List.mem_append.mp hm with hm | hm
        · exact hf x (by simp [hx]) f hm
        · simp only [List.mem_singleton] at hm; subst hm
          intro hd; dsimp only at hd; subst hd; exact (List.nodup_cons.mp hn).1 hx)
      (roomFor_admit (by simpa using h) d.voice (sustainDownMessage d))
    exact ⟨by rw [ih.1]; simp, received_cons rfl ih.2⟩

/-- Ports whose queues only grow, with the reserve kept (R102). -/
def Voices.grows (v w : Voices) : Prop := w.reserve = v.reserve ∧ ∀ i : Fin 8, (v.ports[i]).queue <+: (w.ports[i]).queue

theorem grows_refl (v : Voices) : v.grows v := ⟨rfl, fun _ => List.prefix_refl _⟩

theorem grows_trans {u v w : Voices} (h : u.grows v) (k : v.grows w) : u.grows w :=
  ⟨k.1.trans h.1, fun i => (h.2 i).trans (k.2 i)⟩

theorem received_grows {v w : Voices} {l} (h : v.received w l) : v.grows w :=
  ⟨h.1, fun i => by rw [h.2 i]; exact List.prefix_append _ _⟩

theorem offer_grows (v : Voices) (c i m) : v.grows (v.offer c i m).2 := by
  unfold Voices.offer
  split
  · exact received_grows (received_cons rfl (received_nil _))
  · exact grows_refl v

theorem offerDowns_grows : ∀ (l : List Dest) (fan : List FanEntry) (v : Voices), v.grows (offerDowns l fan v).2
  | [], _, v => grows_refl v
  | d :: rest, fan, v => by
    unfold offerDowns
    split
    · exact offerDowns_grows rest _ _
    · exact grows_trans (offer_grows _ _ _ _) (offerDowns_grows rest _ _)

/-- The sustain-downs of one player port in the pedal carry. -/
def Part.carryOf (p : Part) (incoming : Option Scene) (i : Fin 4) : List (Fin 8 × Message) :=
  (p.carryJoins incoming i).map fun d => (d.voice, sustainDownMessage d)

theorem carryJoins_down (p : Part) (sc : Scene) (i : Fin 4) (h : (p.players[i]).pedal = .down) :
    p.carryJoins (some sc) i = (sustainDests sc.layers i).filter fun d => !(p.tracker.fan[i]).any fun f => f.dest = d := by
  unfold Part.carryJoins
  dsimp only
  rw [if_pos h]
  unfold sustainDests Layer.listens
  rw [mergeDests_eq]

theorem carryJoins_up (p : Part) (sc : Scene) (i : Fin 4) (h : (p.players[i]).pedal ≠ .down) :
    p.carryJoins (some sc) i = [] := by
  unfold Part.carryJoins
  dsimp only
  rw [if_neg h]

/-- One player port's part of the pedal carry (R94). -/
theorem carry_step (p : Part) (sc : Scene) (i : Fin 4) (hs : p.layers = sc.layers) :
    ∃ v f, (if p.players[i].pedal = .down then p.sendDowns i else p) =
        { p with voices := v, tracker := { p.tracker with fan := p.tracker.fan.set i f } } ∧ p.voices.grows v ∧
      (p.carryJoins (some sc) i = [] → v = p.voices ∧ f = p.tracker.fan[i]) ∧
      (p.voices.roomFor (p.voices.reserve + (p.carryOf (some sc) i).length) →
        p.voices.received v (p.carryOf (some sc) i) ∧
          f = p.tracker.fan[i] ++ (p.carryJoins (some sc) i).map fun d => { dest := d, upOwed := false }) := by
  by_cases h : (p.players[i]).pedal = .down
  · rw [if_pos h]
    have hj := carryJoins_down p sc i h
    refine ⟨_, _, rfl, offerDowns_grows _ _ _, ?_⟩
    have hn : (sustainDests sc.layers i).Nodup := mergeDests_once _
    rw [hs, offerDowns_filter _ _ _ hn]
    unfold Part.carryOf
    rw [hj]
    refine ⟨fun h0 => ?_, fun hr => ?_⟩
    · rw [h0]; exact ⟨rfl, rfl⟩
    · have hd := offerDowns_admitted ((sustainDests sc.layers i).filter fun d => !(p.tracker.fan[i]).any fun f => f.dest = d)
        p.tracker.fan[i] p.voices (hn.filter _) (fun d hd f hf he => by
          rw [List.mem_filter] at hd
          have := hd.2
          simp only [Bool.not_eq_true', List.any_eq_false, decide_eq_true_eq] at this
          exact this f hf he) (by simpa using hr)
      exact ⟨hd.2, hd.1⟩
  · rw [if_neg h]
    have hself : p.tracker.fan.set i p.tracker.fan[i] = p.tracker.fan := by
      apply Vector.ext; intro j hj
      simp only [Vector.getElem_set]
      split
      · rename_i h; subst h; rfl
      · rfl
    refine ⟨p.voices, p.tracker.fan[i], by rw [hself], grows_refl _, fun _ => ⟨rfl, rfl⟩, fun _ => ?_⟩
    unfold Part.carryOf
    rw [carryJoins_up p sc i h]
    exact ⟨received_nil _, by simp⟩

/-- The pedal carry over a list of player ports, in order. -/
theorem carry_from (sc : Scene) : ∀ (ps : List (Fin 4)) (p : Part), ps.Nodup → p.layers = sc.layers →
    ∃ v fan, ps.foldl (fun p i => if p.players[i].pedal = .down then p.sendDowns i else p) p =
        { p with voices := v, tracker := { p.tracker with fan := fan } } ∧ p.voices.grows v ∧
      (∀ i : Fin 4, i ∉ ps → fan[i] = p.tracker.fan[i]) ∧
      (ps.flatMap (p.carryOf (some sc)) = [] → v = p.voices ∧ fan = p.tracker.fan) ∧
      (p.voices.roomFor (p.voices.reserve + (ps.flatMap (p.carryOf (some sc))).length) →
        p.voices.received v (ps.flatMap (p.carryOf (some sc))) ∧
          ∀ i ∈ ps, fan[i] = p.tracker.fan[i] ++ (p.carryJoins (some sc) i).map fun d => { dest := d, upOwed := false })
  | [], p, _, _ => ⟨p.voices, p.tracker.fan, rfl, grows_refl _, fun _ _ => rfl, fun _ => ⟨rfl, rfl⟩,
      fun _ => ⟨received_nil _, fun _ h => absurd h (by simp)⟩⟩
  | i :: rest, p, hn, hs => by
    obtain ⟨v1, f1, e1, e0, e2, e3⟩ := carry_step p sc i hs
    let p1 : Part := { p with voices := v1, tracker := { p.tracker with fan := p.tracker.fan.set i f1 } }
    obtain ⟨v, fan, g1, g0, g2, g3, g4⟩ := carry_from sc rest p1 hn.of_cons hs
    have hi : i ∉ rest := (List.nodup_cons.mp hn).1
    have hget : ∀ j : Fin 4, j ≠ i → p1.tracker.fan[j] = p.tracker.fan[j] := by
      intro j hj
      show (p.tracker.fan.set i f1)[j] = _
      have : i.val ≠ j.val := fun h => hj (Fin.ext h.symm)
      simp [this]
    have hself : p1.tracker.fan[i] = f1 := by
      show (p.tracker.fan.set i f1)[i] = _
      simp
    have hj : ∀ j : Fin 4, j ≠ i → p1.carryJoins (some sc) j = p.carryJoins (some sc) j := by
      intro j h
      unfold Part.carryJoins
      dsimp only
      rw [hget j h]
    have hof : rest.flatMap (p1.carryOf (some sc)) = rest.flatMap (p.carryOf (some sc)) := by
      refine List.flatMap_congr fun j hm => ?_
      unfold Part.carryOf
      rw [hj j (fun h => hi (h ▸ hm))]
    refine ⟨v, fan, ?_, grows_trans e0 g0, fun j hm => ?_, fun h0 => ?_, fun hr => ?_⟩
    · rw [List.foldl_cons, e1]; exact g1
    · rw [List.mem_cons, not_or] at hm
      rw [g2 j hm.2, hget j hm.1]
    · rw [List.flatMap_cons, List.append_eq_nil_iff] at h0
      obtain ⟨a1, a2⟩ := e2 (List.map_eq_nil_iff.mp h0.1)
      obtain ⟨b1, b2⟩ := g3 (hof.trans h0.2)
      refine ⟨b1.trans a1, b2.trans ?_⟩
      show p.tracker.fan.set i f1 = _
      rw [a2]
      apply Vector.ext; intro j hj
      simp only [Vector.getElem_set]
      split
      · rename_i h; subst h; rfl
      · rfl
    · rw [List.flatMap_cons, List.length_append] at hr
      have hr1 : p.voices.roomFor (p.voices.reserve + (p.carryOf (some sc) i).length) := fun k hk => by
        have := hr k hk; omega
      obtain ⟨a1, a2⟩ := e3 hr1
      have hr2 : p1.voices.roomFor (p1.voices.reserve + (rest.flatMap (p1.carryOf (some sc))).length) := by
        rw [hof]
        show v1.roomFor (v1.reserve + _)
        rw [a1.1]
        exact roomFor_received a1 (fun k hk => by have := hr k hk; omega)
      obtain ⟨b1, b2⟩ := g4 hr2
      refine ⟨?_, fun j hm => ?_⟩
      · rw [List.flatMap_cons, ← hof]
        exact received_append a1 b1
      · rcases List.mem_cons.mp hm with hm | hm
        · subst hm
          rw [g2 j hi, hself, a2]
        · have hne : j ≠ i := fun h => hi (h ▸ hm)
          rw [b2 j hm, hget j hne, hj j hne]

theorem carryDowns_flat (p : Part) (incoming : Option Scene) :
    p.carryDowns incoming = allPlayers.flatMap (p.carryOf incoming) := by
  unfold Part.carryDowns Part.carryOf allPlayers
  rfl

/-- The voice ports and the fan-out sets after the pedal carry of a scene switched in (R94, R104): the queues have only
grown; with nothing to carry both are as they were; with room for all, each sustain-down is admitted and each destination
joins. -/
def Part.carriesTo (p : Part) (incoming : Option Scene) (v : Voices) (fan : Vector (List FanEntry) 4) : Prop :=
  p.voices.grows v ∧ (p.carryDowns incoming = [] → v = p.voices ∧ fan = p.tracker.fan) ∧
    (p.voices.roomFor (p.voices.reserve + (p.carryDowns incoming).length) →
      p.voices.received v (p.carryDowns incoming) ∧
        ∀ i : Fin 4, fan[i] = p.tracker.fan[i] ++ (p.carryJoins incoming i).map fun d => { dest := d, upOwed := false })

/-- The scene of a switch brought in, with its pedal carry (R94, R127). -/
theorem swapScene_carries (p : Part) (incoming : Option Scene) (hin : p.loader.shadowScene = incoming) :
    ∃ v fan, p.swapScene = { p with
        loader := { p.loader with activeScene := incoming.or p.loader.activeScene }
        flags := if incoming.isSome then 0 else p.flags
        voices := v, tracker := { p.tracker with fan := fan } } ∧ p.carriesTo incoming v fan := by
  unfold Part.carriesTo
  rw [carryDowns_flat]
  unfold Part.swapScene
  rw [hin]
  cases incoming with
  | none =>
    refine ⟨p.voices, p.tracker.fan, rfl, grows_refl _, fun _ => ⟨rfl, rfl⟩, fun _ => ⟨?_, fun i => by simp [Part.carryJoins]⟩⟩
    have : allPlayers.flatMap (p.carryOf none) = [] := by simp [Part.carryOf, Part.carryJoins]
    rw [this]
    exact received_nil _
  | some sc =>
    obtain ⟨v, fan, e1, e0, -, e2, e3⟩ := carry_from sc allPlayers
      { p with flags := 0, loader := { p.loader with activeScene := some sc } } (by decide) rfl
    exact ⟨v, fan, e1, e0, e2, fun hr => ⟨(e3 hr).1, fun i => (e3 hr).2 i (by
      have : ∀ i : Fin 4, i ∈ allPlayers := by decide
      exact this i)⟩⟩

/-- A section's switch with no song in the shadow and no trigger: the part it makes, with its pedal carry (R127, R132). -/
theorem completeSection_made (p : Part) (sc : Scene) (target : Nat) (cause : SectionCause) (announced : Option Nat)
    (h1 : p.loader.shadowScene = some sc) (h2 : p.loader.shadowSong = none) (h3 : p.loader.trigger = none) :
    p.sectionMade (p.completeSection target cause announced) sc target cause announced p.notice ∧
      p.carriesTo (some sc) (p.completeSection target cause announced).voices
        (p.completeSection target cause announced).tracker.fan := by
  let late : Notice := match announced with
    | none => p.notice
    | some missed => p.notice.handOver { event := .switchLate (.sectionEntry target) missed, stamp := p.stamp }
  have hj : p.journalLate (.sectionEntry target) announced = { p with notice := late } := by
    unfold Part.journalLate
    cases announced <;> rfl
  have hinc : (match p.loader.shadowScene with | none => 0 | some scene => scene.number) = sc.number := by rw [h1]
  let u : Part := { p with notice := late, loader := { p.loader with late := none, held := none } }
  obtain ⟨v, fan, e1, e2⟩ := swapScene_carries u (some sc) h1
  let w : Part := { u with
    flags := 0, loader := { u.loader with activeScene := some sc }
    voices := v, tracker := { u.tracker with fan := fan } }
  let y : Part := { w with watch := { w.watch with residents := { w.watch.residents with
    activeScene := p.watch.residents.shadowScene, shadowScene := none } } }
  have h4 : w.moveResidents = y := by
    unfold Part.moveResidents
    rw [show w.loader.shadowSong = none from h2, show w.loader.shadowScene = some sc from h1]
    rfl
  have h5 : y.freeShadow = y.emptyShadow := freeShadow_untriggered y rfl h3
  have key : p.completeSection target cause announced = { p with
      loader := { p.loader with
        activeScene := some sc, shadowScene := none, owner := none, ready := false, fetch := none
        late := none, held := none }
      watch := { p.watch with residents := { p.watch.residents with
        activeScene := p.watch.residents.shadowScene, shadowScene := none, shadowSong := none } }
      flags := 0
      notice := late.handOver { event := .sceneSwitched cause.journaled target (p.loader.activeScene.map (·.number)) sc.number p.flags, stamp := p.stamp }
      tracker := { p.tracker with fan := fan }
      voices := v } := by
    unfold Part.completeSection
    dsimp only
    rw [hj]
    show ((u.swapScene.moveResidents).freeShadow).journal _ = _
    rw [e1]
    show ((w.moveResidents).freeShadow).journal _ = _
    rw [h4, h5]
    show Part.journal _ (.sceneSwitched _ _ _ (match p.loader.shadowScene with | none => 0 | some scene => scene.number) _) = _
    rw [hinc]
    have hs : ∀ l : Loader, l.shadowSong = none → ({ l with shadowSong := none } : Loader) = l := by
      rintro ⟨⟩ h; dsimp only at h; subst h; rfl
    have := hs { p.loader with
        activeScene := some sc, shadowScene := none, owner := none, ready := false, fetch := none
        late := none, held := none } h2
    rw [← this]
    rfl
  rw [key]
  exact ⟨rfl, e2⟩

/-- The kinds of switch a cue brings make its cases: the shadow's scene, the notice of a late one, and the landing. -/
theorem completeCue_unfold (p : Part) (a : ArmedCue) (forced : Option (BitVec 8)) (incoming : Option Scene)
    (hin : p.loader.shadowScene = incoming) :
    ∃ v fan, p.carriesTo incoming v fan ∧
      p.completeCue a forced =
        (((((((({ p with
          loader := { p.loader with activeScene := incoming.or p.loader.activeScene, held := none }
          flags := if incoming.isSome then 0 else p.flags
          notice := if 0 < a.missed then
            p.notice.handOver { event := .switchLate (.cue a.slot a.boundary) a.missed, stamp := p.stamp } else p.notice
          tracker := { p.tracker with fan := fan }
          voices := v } : Part).switchSongOrJump a.cue).moveResidents).dropArm a.slot).freeShadow).journal
          (switchEvent a.cue (p.loader.activeSong.map (·.number)) (p.loader.activeScene.map (·.number))
            (incoming.map (·.number)) p.flags (switchOutcome forced.isSome a.missed))).considerLanding
          (p.entersByJump a.cue)).setOwner a.slot .host).queueResult a.slot (switchOutcome forced.isSome a.missed)
          a.missed (forced.getD 0) a.notify := by
  subst hin
  let told : Notice := if 0 < a.missed then
    p.notice.handOver { event := .switchLate (.cue a.slot a.boundary) a.missed, stamp := p.stamp } else p.notice
  have hj : (p.journalLate (.cue a.slot a.boundary) (if 0 < a.missed then some a.missed else none)) =
      { p with notice := told } := by
    by_cases hm : 0 < a.missed
    · simp only [told, if_pos hm]; rfl
    · simp only [told, if_neg hm]; rfl
  let u : Part := { p with notice := told, loader := { p.loader with held := none } }
  obtain ⟨v, fan, e1, e2⟩ := swapScene_carries u _ rfl
  have he : u.entersByJump a.cue = p.entersByJump a.cue := by unfold Part.entersByJump; rfl
  refine ⟨v, fan, e2, ?_⟩
  unfold Part.completeCue
  dsimp only
  rw [hj]
  dsimp only
  show ((((((u.swapScene.switchSongOrJump a.cue).moveResidents.dropArm a.slot).freeShadow).journal _).considerLanding
    (u.entersByJump a.cue)).setOwner a.slot .host).queueResult _ _ _ _ _ = _
  rw [e1, he]
  rfl

/-- A cue's switch: the part it makes, with its pedal carry (R26, R35, R127, R131, R132, R144). -/
theorem completeCue_made (p : Part) (a : ArmedCue) (incoming : Option Scene) (forced : Option (BitVec 8))
    (ha : p.cues.arms = [a]) (hw : p.cues.writes = []) (hl : p.loader.late = none)
    (hin : p.loader.shadowScene = incoming) (hf : p.cueFits a incoming) :
    p.cueMade (p.completeCue a forced) a incoming (switchOutcome forced.isSome a.missed) (forced.getD 0) p.notice ∧
      p.carriesTo incoming (p.completeCue a forced).voices (p.completeCue a forced).tracker.fan := by
  obtain ⟨v, fan, hc, e⟩ := completeCue_unfold p a forced incoming hin
  let sw : Part := { p with
    loader := { p.loader with activeScene := incoming.or p.loader.activeScene, held := none }
    flags := if incoming.isSome then 0 else p.flags
    notice := if 0 < a.missed then
      p.notice.handOver { event := .switchLate (.cue a.slot a.boundary) a.missed, stamp := p.stamp } else p.notice
    tracker := { p.tracker with fan := fan }
    voices := v }
  have hfinal : (switchOutcome forced.isSome a.missed).final = .done := by
    unfold switchOutcome; cases forced.isSome <;> (simp only [Bool.false_eq_true, if_false, if_true]; try split) <;> rfl
  have htail : resultTail = fun st f => [SlotWord.position st, .positionEnd st, .frameCount st, .state f] := rfl
  change _ = ((((((((sw.switchSongOrJump a.cue).moveResidents).dropArm a.slot).freeShadow).journal _).considerLanding _).setOwner _ _).queueResult _ _ _ _ _) at e
  rcases hf with ⟨place, sec, h1, h2, h3, h4, h5⟩ | ⟨number, start, au, song, sec, h1, h2, h3, h4⟩
  · have hsec : sw.sectionAt place = some sec := h2
    have hland : sw.landsAtOnce = p.landsAtOnce := rfl
    obtain ⟨x, k1, k2, k3, k4, k5⟩ := jumpTo_loader sw place
    have htr := jumpTo_untriggered sw place sec hsec h4 (fun h => (h5 h).1)
    have hs : sw.switchSongOrJump a.cue = sw.jumpTo place := by rw [h1]; rfl
    rw [hs, completeCue_ends (sw.jumpTo place) a _ _ _ _ incoming htr (by rw [k1]; exact hl) (by rw [k1])
      (by rw [k3]; exact ha) (by rw [k3]; exact hw) (by rw [k1]; exact hin) (by
        intro hla scene hsc
        rw [h1] at hla
        have hla' : sw.landsAtOnce = true := hla
        obtain ⟨hb, hs⟩ := h5 hla
        rw [jumpTo_sectionIndex sw place sec hsec hla' hb] at hsc
        have : (sw.jumpTo place).sceneOf place = sec.scene := by
          unfold Part.sceneOf Part.sectionAt
          rw [k1]
          have h := hsec
          unfold Part.sectionAt at h
          show ((sw.loader.activeSong.bind fun song => song.sections[place]?).bind _) = _
          rw [h]; rfl
        rw [this] at hsc
        rw [k1]
        show (incoming.or p.loader.activeScene).map (·.number) = some scene
        rcases hs with hs | hs
        · rw [hs] at hsc; cases hsc
        · rw [hsc] at hs
          cases hinc : incoming with
          | none => rw [hinc] at hs; cases hs
          | some sc' => rw [hinc] at hs; exact hs.symm)] at e
    have ev : (p.completeCue a forced).voices = v := by rw [e]; exact k4
    have ef : (p.completeCue a forced).tracker.fan = fan := by rw [e]; show (sw.jumpTo place).tracker.fan = _; rw [k5]
    refine ⟨.inl ⟨place, sec, sw.jumpTo place, ⟨h1, h2, h3, h4, h5⟩, ?_, ?_⟩, by rw [ev, ef]; exact hc⟩
    · rw [ev, ef]
      exact jumpTo_jumped sw place sec hsec
    · rw [e, h1]
      simp only [k1, k2, k3, hfinal, htail]
      rfl
  · have hs : sw.switchSongOrJump a.cue = sw.songSwap song start au := by
      rw [h1]
      unfold Part.switchSongOrJump
      rw [show sw.loader.shadowSong = some song from h2]
    obtain ⟨k1, k2, k3, k4, k5⟩ := songSwap_loader sw song start au sec h3 h4
    rw [hs, completeCue_ends (sw.songSwap song start au) a _ _ _ _ incoming (by rw [k1]) (by rw [k1]; exact hl)
      (by rw [k1]) (by rw [k3]; exact ha) (by rw [k3]; exact hw) (by rw [k1]; exact hin)
      (by rw [h1]; intro h; cases h)] at e
    have ev : (p.completeCue a forced).voices = v := by rw [e]; exact k4
    have ef : (p.completeCue a forced).tracker.fan = fan := by
      rw [e]; show (sw.songSwap song start au).tracker.fan = _; rw [k5]
    refine ⟨.inr ⟨number, start, au, song, sec, sw.songSwap song start au, ⟨h1, h2, h3, h4⟩, ?_, ?_⟩, by rw [ev, ef]; exact hc⟩
    · rw [ev, ef]
      exact songSwap_swappedIn sw song start au sec h3
    · rw [e, h1]
      simp only [k1, k2, k3, hfinal, htail]
      have hi : (incoming.map (·.number)).isSome = incoming.isSome := by cases incoming <;> rfl
      simp only [switchEvent, hi]
      rfl

/-- One more dropped message at one port. -/
theorem sum_bump (f g : Fin 8 → Nat) (j : Fin 8) (h : ∀ i, g i = f i + if i = j then 1 else 0) :
    (List.ofFn g).sum = (List.ofFn f).sum + 1 := by
  simp only [List.ofFn_succ, List.ofFn_zero, List.sum_cons, List.sum_nil, h]
  have h8 : ∀ j : Fin 8, j = 0 ∨ j = 1 ∨ j = 2 ∨ j = 3 ∨ j = 4 ∨ j = 5 ∨ j = 6 ∨ j = 7 := by decide
  rcases h8 j with rfl | rfl | rfl | rfl | rfl | rfl | rfl | rfl <;> simp [Fin.ext_iff] <;> omega

/-- A setup batch offered one message at a time (R102, R130). -/
theorem forceBatch_offeredAlone : ∀ (l : List SetupMessage) (v : Voices),
    v.offeredAlone (v.forceBatch l).1 l (v.forceBatch l).2.1 (v.forceBatch l).2.2
  | [], v => by
    refine ⟨rfl, fun i => ?_, fun i => ?_, ?_⟩
    · show v.ports[i] = _
      simp [Voices.forceBatch]
    · simp [Voices.forceBatch]
    · simp [Voices.forceBatch, List.ofFn_succ]
  | m :: rest, v => by
    unfold Voices.forceBatch
    dsimp only
    by_cases ha : v.admits .opening m.voice = true
    · have ho : v.offer .opening m.voice m.message = (true, v.accept m.voice m.message) := by
        unfold Voices.offer; rw [if_pos ha]
      rw [ho]
      dsimp only
      rw [if_pos rfl]
      obtain ⟨r1, r2, r3, r4⟩ := forceBatch_offeredAlone rest (v.accept m.voice m.message)
      have hv := received_accept v m.voice m.message
      have hq : ∀ i : Fin 8, ((v.accept m.voice m.message).ports[i]).queue =
          (v.ports[i]).queue ++ if i = m.voice ∧ (v.ports[i]).enabled = true then [m.message] else [] := by
        intro i
        rw [hv.2 i]
        by_cases h : i = m.voice
        · subst h; cases he : (v.ports[m.voice]).enabled <;> simp
        · have : ¬ m.voice = i := fun h2 => h h2.symm
          simp [h, this]
      have he : ∀ i : Fin 8, ((v.accept m.voice m.message).ports[i]).enabled = (v.ports[i]).enabled :=
        fun i => received_enabled hv i
      have hroom : (v.ports[m.voice]).enabled = true → v.reserve < Config.queueSize - (v.ports[m.voice]).queue.length := by
        intro h
        unfold Voices.admits at ha
        rw [h] at ha
        exact of_decide_eq_true ha
      have hleft : ∀ i : Fin 8,
          (if ((v.accept m.voice m.message).ports[i]).enabled then ((rest.filter fun x => x.voice = i).map (·.message)).length -
            (Config.queueSize - ((v.accept m.voice m.message).ports[i]).queue.length - (v.accept m.voice m.message).reserve) else 0) =
          if (v.ports[i]).enabled then (((m :: rest).filter fun x => x.voice = i).map (·.message)).length -
            (Config.queueSize - (v.ports[i]).queue.length - v.reserve) else 0 := by
        intro i
        rw [he i, hq i, hv.1]
        cases hen : (v.ports[i]).enabled with
        | false => rfl
        | true =>
          rw [if_pos rfl, if_pos rfl]
          by_cases h : i = m.voice
          · subst h
            have := hroom hen
            rw [List.filter_cons_of_pos (by simp), if_pos ⟨rfl, rfl⟩]
            simp only [List.map_cons, List.length_cons, List.length_append, List.length_nil, List.length_map]
            omega
          · have : ¬ m.voice = i := fun h2 => h h2.symm
            simp [h, this]
      refine ⟨r1.trans hv.1, fun i => ?_, fun i => ?_, ?_⟩
      · have e := r2 i
        have e1 := hv.2 i
        dsimp only at e
        rw [he i, hq i, hv.1] at e
        rw [e]
        generalize (((v.accept m.voice m.message).forceBatch rest).1).ports[i] = x at *
        rw [e1]
        dsimp only
        congr 1
        cases hen : (v.ports[i]).enabled with
        | false => simp
        | true =>
          by_cases h : i = m.voice
          · subst h
            have := hroom hen
            have hk : Config.queueSize - (v.ports[m.voice]).queue.length - v.reserve =
                (Config.queueSize - ((v.ports[m.voice]).queue.length + 1) - v.reserve) + 1 := by omega
            rw [List.filter_cons_of_pos (by simp), if_pos ⟨rfl, rfl⟩, if_pos rfl, if_pos rfl, List.length_append, hk,
              List.map_cons, List.take_succ_cons]
            simp
          · have : ¬ m.voice = i := fun h2 => h h2.symm
            simp [h, this]
      · rw [r3 i]
        exact congrArg (fun n => decide (0 < n)) (hleft i)
      · rw [r4]
        exact congrArg (fun f => (List.ofFn f).sum) (funext hleft)
    · have ho : v.offer .opening m.voice m.message = (false, v) := by
        unfold Voices.offer; rw [if_neg ha]
      rw [ho]
      dsimp only
      rw [if_neg (by decide)]
      obtain ⟨r1, r2, r3, r4⟩ := forceBatch_offeredAlone rest v
      have hfull : (v.ports[m.voice]).enabled = true ∧ Config.queueSize - (v.ports[m.voice]).queue.length - v.reserve = 0 := by
        unfold Voices.admits at ha
        cases he : (v.ports[m.voice]).enabled with
        | false => rw [he] at ha; exact absurd rfl ha
        | true =>
          rw [he] at ha
          have hr : ¬ v.reserve < Config.queueSize - (v.ports[m.voice]).queue.length := fun h => ha (decide_eq_true h)
          exact ⟨rfl, by omega⟩
      have hleft : ∀ i : Fin 8,
          (if (v.ports[i]).enabled then (((m :: rest).filter fun x => x.voice = i).map (·.message)).length -
            (Config.queueSize - (v.ports[i]).queue.length - v.reserve) else 0) =
          (if (v.ports[i]).enabled then ((rest.filter fun x => x.voice = i).map (·.message)).length -
            (Config.queueSize - (v.ports[i]).queue.length - v.reserve) else 0) + if i = m.voice then 1 else 0 := by
        intro i
        by_cases h : i = m.voice
        · subst h
          rw [if_pos hfull.1, if_pos hfull.1, hfull.2]
          simp
        · have : ¬ m.voice = i := fun h2 => h h2.symm
          simp [h, this]
      refine ⟨r1, fun i => ?_, fun i => ?_, ?_⟩
      · rw [r2 i]
        generalize ((v.forceBatch rest).1).ports[i] = x at *
        by_cases h : i = m.voice
        · subst h
          simp only [hfull.2]; simp
        · have : ¬ m.voice = i := fun h2 => h h2.symm
          simp [this]
      · refine Eq.trans ?_ (congrArg (fun n => decide (0 < n)) (hleft i)).symm
        rw [BitVec.getLsbD_or, r3 i]
        by_cases h : i = m.voice
        · subst h; simp
        · have h2 : ¬ m.voice.val = i.val := fun h2 => h (Fin.ext h2.symm)
          have ht : (BitVec.twoPow 8 m.voice.val).getLsbD i.val = false := by rw [BitVec.getLsbD_twoPow]; simp [h2]
          rw [ht, if_neg h, Bool.or_false, Nat.add_zero]
      · refine Eq.trans ?_ (sum_bump _ _ m.voice hleft).symm
        rw [r4]

/-- The setup batch and the pedal carry of a switch whose batch is admitted (R104, R127). -/
theorem switchSends_of (p : Part) (v : Voices) (incoming : Option Scene) (setup : List SetupMessage) (q : Part)
    (hv : p.voices.received v (setup.map fun m => (m.voice, m.message)))
    (h : Part.carriesTo { p with voices := v } incoming q.voices q.tracker.fan) : p.switchSends q incoming setup := by
  have hd : Part.carryDowns { p with voices := v } incoming = p.carryDowns incoming := rfl
  have hj : ∀ i, Part.carryJoins { p with voices := v } incoming i = p.carryJoins incoming i := fun _ => rfl
  obtain ⟨-, h2, h3⟩ := h
  rw [hd] at h2 h3
  unfold Part.switchSends
  intro downs hr
  by_cases h0 : p.carryDowns incoming = []
  · obtain ⟨e1, e2⟩ := h2 h0
    have hn : ∀ i : Fin 4, p.carryJoins incoming i = [] := by
      intro i
      have := List.flatMap_eq_nil_iff.mp h0 i (by
        have : ∀ i : Fin 4, i ∈ ([0, 1, 2, 3] : List (Fin 4)) := by decide
        exact this i)
      exact List.map_eq_nil_iff.mp this
    refine ⟨?_, fun i => ?_⟩
    · rw [show downs = [] from h0, List.append_nil, e1]; exact hv
    · rw [e2, hn i]; simp
  · have hr' : p.voices.roomFor (p.voices.reserve + (setup.length + (p.carryDowns incoming).length)) := by
      rcases hr with hr | hr
      · exact absurd hr h0
      · exact hr
    have hr2 : v.roomFor (v.reserve + (p.carryDowns incoming).length) := by
      rw [hv.1]
      exact roomFor_received hv (fun i hi => by have := hr' i hi; simp only [List.length_map]; omega)
    obtain ⟨e1, e2⟩ := h3 hr2
    exact ⟨received_append hv e1, e2⟩

end Sys2Proof.Machine
end

