-- ==== Sys2Proof/Laws/Announce.lean ====
section
/-! SUPPORT. What an announcement brings: the scene loader's act by R121's and R122's tables, the marks of the armed cues,
and the order of the blocks in a boundary's frame (3.2, 8.4, 8.5). -/

namespace Sys2Proof.Machine

theorem ArmedCue.announce_heard (kind : BoundaryKind) (a : ArmedCue) : a.announce kind = a.heard kind := by
  unfold ArmedCue.announce ArmedCue.heard ArmedCue.passedOn
  have h1 : a.wait.metBy kind = match a.wait with
    | .now => false
    | .beat => true
    | .bar => kind != .beat
    | .newSection => kind == .newSection := by
    cases a.wait <;> cases kind <;> rfl
  have h2 : a.cue.sceneChanging = match a.cue with | .songLoad _ _ _ => true | .sectionJump _ => true | _ => false := by
    cases a.cue <;> rfl
  have h3 : a.wait.afterLate = if a.wait = .newSection then .bar else a.wait := by cases a.wait <;> rfl
  rw [h1, h2, h3]
  all_goals rfl

theorem lookFor_eq (p : Part) (n : Nat) : p.lookFor n = p.lookingFor n := rfl

theorem emptyShadow_eq (p : Part) : p.emptyShadow = p.shadowFreed := rfl

theorem sectionHeld_iff (p : Part) : p.sectionHeld = true ↔ ∃ target scene cause announced n,
    p.loader.held = some { cause := .entry target scene cause announced, countdown := n } := by
  unfold Part.sectionHeld
  constructor
  · intro h
    split at h
    · rename_i t sc c a n he; exact ⟨t, sc, c, a, _, he⟩
    · cases h
  · rintro ⟨t, sc, c, a, n, he⟩
    rw [he]

theorem actTrigger_acts (p : Part) (h1 : p.loader.trigger ≠ none) (h2 : p.loader.late = none) (h3 : ¬p.sectionHeld = true) :
    p.actTrigger = match p.loader.owner, p.triggerWants with
      | some (.lookahead _), none => p.emptyShadow
      | some (.lookahead scene), some wanted => if scene = wanted then p else p.lookFor wanted
      | none, some wanted => p.lookFor wanted
      | _, _ => p := by
  unfold Part.actTrigger
  refine if_neg ?_
  simp only [Bool.not_eq_true] at h3
  rw [h2, h3]
  simpa using h1

/-- The standing trigger acted on (R121). -/
theorem actTrigger_triggered (p : Part) : p.triggered p.actTrigger := by
  have hw : ∀ target sec, p.loader.trigger = some (.toSection target) → p.sectionAt target = some sec →
      p.triggerWants = match sec.scene with
        | none => none
        | some scene => if p.activeSceneNumber = some scene then none else some scene := by
    intro target sec ht hs
    rw [triggerWants_section p target ht]
    unfold Part.sceneOf
    rw [hs]
    rfl
  unfold Part.triggered
  refine ⟨fun h => ?_, fun ha h => ?_, fun target sec wanted ha ht hs hsc hne => ?_⟩
  · unfold Part.actTrigger
    rw [if_pos]
    rcases h with h | h
    · rw [h]; rfl
    · cases hl : p.loader.late with
      | some l => simp
      | none =>
        have : p.sectionHeld = true := by
          rw [sectionHeld_iff]
          exact Classical.byContradiction fun hn => h ⟨hl, hn⟩
        rw [this]; simp
  · have hnone : p.triggerWants = none := by
      rcases h with h | ⟨target, sec, h1, h2, h3⟩
      · unfold Part.triggerWants; rw [h]
      · rw [hw target sec h1 h2]
        rcases h3 with h3 | h3
        · rw [h3]
        · cases hx : sec.scene with
          | none => rfl
          | some scene =>
            dsimp only
            rw [if_pos (by unfold Part.activeSceneNumber; rw [← h3, hx])]
    have htr : p.loader.trigger ≠ none := by
      rcases h with h | ⟨target, sec, h1, -⟩
      · rw [h]; simp
      · rw [h1]; simp
    have hgo := actTrigger_acts p htr ha.1 (by rw [sectionHeld_iff]; exact ha.2)
    rw [hgo, hnone]
    refine ⟨fun ⟨n, hn⟩ => ?_, fun hn => ?_⟩
    · rw [hn]; rfl
    · cases ho : p.loader.owner with
      | none => rfl
      | some o =>
        cases o with
        | lookahead n => exact absurd ho (hn n)
        | cue _ => rfl
        | refreshSong _ => rfl
        | refreshScene => rfl
  · have hgo := actTrigger_acts p (by rw [ht]; simp) ha.1 (by rw [sectionHeld_iff]; exact ha.2)
    have hwant : p.triggerWants = some wanted := by
      rw [hw target sec ht hs, hsc]
      dsimp only
      rw [if_neg (by unfold Part.activeSceneNumber; exact hne)]
    rw [hgo, hwant]
    refine ⟨fun h => ?_, fun ⟨o, ho, hx⟩ => ?_⟩
    · rcases h with h | ⟨n, hn, h⟩
      · rw [h]; rfl
      · rw [h]
        dsimp only
        rw [if_neg hn]; rfl
    · rw [ho]
      cases o with
      | lookahead n =>
        dsimp only
        by_cases hn : n = wanted
        · rw [if_pos hn]
        · exact absurd rfl (hx n hn)
      | cue _ => rfl
      | refreshSong _ => rfl
      | refreshScene => rfl

/-- A section's switch begun (R127, R128). -/
theorem beginSection_begun (p : Part) (sc : Scene) (target : Nat) (cause : SectionCause) (announced : Option Nat)
    (h1 : p.loader.shadowScene = some sc) (h2 : p.loader.shadowSong = none) (h3 : p.loader.trigger = none) :
    p.sectionBegun (p.beginSection target sc.number cause announced) sc target cause announced := by
  have hb : p.shadowBatch = sc.setup := by unfold Part.shadowBatch; rw [h1]
  unfold Part.beginSection
  rw [hb]
  refine ⟨fun hf => ?_, fun hf => ?_⟩
  · rw [if_pos hf]
    obtain ⟨m1, m2⟩ := completeSection_made { p with voices := p.voices.admitBatch sc.setup } sc target cause announced h1 h2 h3
    exact ⟨m1, switchSends_of p _ _ _ _ (admitBatch_received sc.setup p.voices) m2⟩
  · rw [if_neg (by rw [hf]; decide)]

theorem actTrigger_none (p : Part) (h : p.loader.trigger = none) : p.actTrigger = p := actTrigger_off p (.inl h)

theorem beginSection_trigger (p : Part) (sc : Scene) (target : Nat) (cause : SectionCause) (announced : Option Nat)
    (h1 : p.loader.shadowScene = some sc) (h2 : p.loader.shadowSong = none) (h3 : p.loader.trigger = none) :
    (p.beginSection target sc.number cause announced).loader.trigger = none := by
  obtain ⟨b1, b2⟩ := beginSection_begun p sc target cause announced h1 h2 h3
  cases hf : p.voices.batchFits sc.setup with
  | true =>
    obtain ⟨m, -⟩ := b1 hf
    rw [m]; exact h3
  | false => rw [b2 hf]; exact h3

/-- The shadow freed with no switch waiting and no trigger, as R114 leaves it. -/
theorem freeShadow_freed (p : Part) (hl : p.loader.late = none) (ht : p.loader.trigger = none) : p.freeShadow = p.shadowFreed :=
  freeShadow_untriggered p hl ht

theorem lookaheadScene_iff (p : Part) (n : Nat) : p.lookaheadScene = some n ↔ p.loader.owner = some (.lookahead n) := by
  unfold Part.lookaheadScene
  cases h : p.loader.owner with
  | none => simp
  | some o => cases o <;> simp

/-- A section's scene considered (R122, R123); x is the part with no section switch pending or held, and act is what
follows, which does nothing without a trigger. -/
theorem considerScene_cases (act : Part → Part) (hf : ∀ y : Part, y.loader.trigger = none → act y = y) (x : Part) (sec : SongSection) (target : Nat) (cause : SectionCause)
    (hs : x.sectionAt target = some sec) (hl : x.loader.late = none) (ht : x.loader.trigger = none) (q : Part)
    (hq : q = act (x.considerScene target cause)) : x.considered q sec target cause := by
  have hp : ∀ scene waiting, pendingSwitch target scene cause waiting =
      { target := target, scene := scene, cause := cause, waiting := waiting, atOnce := decide (cause = .park)
        announced := if cause = .park then none else some 0 } := by
    intro scene waiting; cases cause <;> rfl
  unfold Part.considered
  subst hq
  have hscene : x.sceneOf target = sec.scene := by unfold Part.sceneOf; rw [hs]; rfl
  have hlook : ∀ n, x.loader.owner = some (.lookahead n) → x.lookaheadScene = some n := fun n h => (lookaheadScene_iff x n).mpr h
  have hnone : (∀ n, x.loader.owner ≠ some (.lookahead n)) → x.lookaheadScene = none := by
    intro h
    cases hx : x.lookaheadScene with
    | none => rfl
    | some n => exact absurd ((lookaheadScene_iff x n).mp hx) (h n)
  unfold Part.considerScene
  rw [hscene]
  simp only [hp]
  refine ⟨fun h => ?_, fun scene h ha => ?_, fun scene h ha => ?_⟩
  · rw [h]
    dsimp only
    refine ⟨fun ⟨n, hn⟩ => ?_, fun hn => ?_⟩
    · rw [hlook n hn, if_pos (show (some n).isSome = true from rfl), freeShadow_freed x hl ht]
      exact hf _ ht
    · rw [hnone hn, if_neg (by decide)]
      exact hf _ ht
  · rw [h]
    dsimp only
    rw [if_pos (show x.activeSceneNumber = some scene from ha)]
    refine ⟨fun ⟨n, hne, hn⟩ => ?_, fun hn => ?_⟩
    · rw [hlook n hn, if_pos (by simp [hne]), freeShadow_freed x hl ht]
      exact hf _ ht
    · have : ¬ (x.lookaheadScene.isSome && decide (x.lookaheadScene ≠ some scene)) = true := by
        cases hx : x.lookaheadScene with
        | none => simp
        | some n =>
          have ho := (lookaheadScene_iff x n).mp hx
          have : n = scene := Classical.byContradiction fun hne => hn n hne ho
          simp [this]
      rw [if_neg this]
      exact hf _ ht
  · rw [h]
    dsimp only
    rw [if_neg (show ¬ x.activeSceneNumber = some scene from ha)]
    refine ⟨fun ho => ?_, fun ho hr => ?_, fun sc ho hr h1 h2 h3 => ?_, fun ho => ?_, fun ⟨slot, ho⟩ => ?_⟩
    · rcases ho with ho | ⟨n, hne, ho⟩
      · rw [ho]
        exact hf _ ht
      · rw [ho]
        dsimp only
        rw [if_neg hne]
        exact hf _ ht
    · show _ = x.setLate (some _)
      rw [ho]
      dsimp only
      rw [if_pos rfl, hr, if_neg (by decide)]
      exact hf (x.setLate (some _)) ht
    · rw [ho]
      dsimp only
      rw [if_pos rfl, hr, if_pos rfl, ← h2, hf _ (beginSection_trigger x sc _ _ _ h1 h3 ht)]
      exact beginSection_begun x sc _ _ _ h1 h3 ht
    · show _ = x.setLate (some _)
      rcases ho with ho | ⟨b, ho⟩
      · rw [ho]; exact hf (x.setLate (some _)) ht
      · rw [ho]; exact hf (x.setLate (some _)) ht
    · rw [ho]
      exact hf _ ht

/-- An announcement taken by the scene loader (R121, R122). -/
theorem loaderTakes_hears (p : Part) (kind : BoundaryKind) : p.loaderHears (p.loaderTakes kind) kind := by
  have hc : p.loader.held.map HeldSwitch.count = p.loader.held.map fun h => match h.cause with
      | .entry target scene cause announced => { h with cause := .entry target scene cause (announced.map (· + 1)) }
      | .cue _ => h := rfl
  refine ⟨fun hk => ?_, fun hk ht sec hs => ?_⟩
  · have e : p.loaderTakes kind =
        (((p.setHeld (p.loader.held.map HeldSwitch.count)).setLate (p.loader.late.map LateSwitch.count)).makeLate).actTrigger := by
      cases kind with
      | newSection => exact absurd rfl hk
      | beat => rfl
      | bar => rfl
    rw [e]
    refine ⟨fun hl => ?_, fun w hl => ⟨fun h => ?_, fun sc h1 h2 h3 h4 h5 h6 => ?_⟩⟩
    · rw [hl]
      exact actTrigger_triggered _
    · rw [hl]
      have : ¬ (p.loader.ready && decide (p.lookaheadScene = some w.scene)) = true := by
        rw [Bool.and_eq_true, decide_eq_true_eq, lookaheadScene_iff]
        rintro ⟨h1, h2⟩
        rcases h with h | h
        · rw [h] at h1; cases h1
        · exact h h2
      have hm : ((p.setHeld (p.loader.held.map HeldSwitch.count)).setLate ((some w).map LateSwitch.count)).makeLate =
          (p.setHeld (p.loader.held.map HeldSwitch.count)).setLate ((some w).map LateSwitch.count) := if_neg this
      rw [hm]
      exact actTrigger_off _ (.inr (by simp [Part.setLate]))
    · rw [hl]
      have hm : ((p.setHeld (p.loader.held.map HeldSwitch.count)).setLate ((some w).map LateSwitch.count)).makeLate =
          ((p.setHeld (p.loader.held.map HeldSwitch.count)).setLate ((some w).map LateSwitch.count)).beginSection w.target
            w.scene w.cause (w.announced.map (· + 1)) :=
        if_pos (show (p.loader.ready && decide (p.lookaheadScene = some w.scene)) = true by
          rw [h1, (lookaheadScene_iff p w.scene).mpr h2]; simp)
      rw [hm, ← h4]
      let x := (p.setHeld (p.loader.held.map HeldSwitch.count)).setLate ((some w).map LateSwitch.count)
      have hx : (x.beginSection w.target sc.number w.cause (w.announced.map (· + 1))).actTrigger = _ :=
        actTrigger_none _ (beginSection_trigger x sc _ _ _ h3 h5 h6)
      have hb := beginSection_begun x sc w.target w.cause (w.announced.map (· + 1)) h3 h5 h6
      rw [← hx] at hb
      exact hb
  · subst hk
    let p1 := (p.setHeld (p.loader.held.map HeldSwitch.count)).setLate none
    have hs1 : ∀ held, ((p.setHeld held).setLate none).sectionAt p.pointer.sectionIndex = some sec := fun _ => hs
    have e : p.loaderTakes .newSection = (match p1.loader.held with
        | some { cause := .entry _ scene _ _, .. } =>
          if p1.sceneOf p1.pointer.sectionIndex = some scene then p1
          else (p1.setHeld none).considerScene p1.pointer.sectionIndex .sectionEntry
        | _ => p1.considerScene p1.pointer.sectionIndex .sectionEntry).actTrigger := rfl
    refine ⟨fun hh => ?_, fun slot n hh => ?_, fun at_ scene cause announced n hh => ?_⟩
    · refine considerScene_cases _ actTrigger_none ((p.setHeld none).setLate none) sec p.pointer.sectionIndex .sectionEntry hs rfl ht _ ?_
      rw [e]
      have : p1 = (p.setHeld none).setLate none := by show (p.setHeld (p.loader.held.map _)).setLate none = _; rw [hh]; rfl
      rw [this]
      rfl
    · refine considerScene_cases _ actTrigger_none ((p.setHeld p.loader.held).setLate none) sec p.pointer.sectionIndex .sectionEntry hs rfl ht _ ?_
      rw [e]
      have : p1 = (p.setHeld p.loader.held).setLate none := by show (p.setHeld (p.loader.held.map _)).setLate none = _; rw [hh]; rfl
      rw [this, show ((p.setHeld p.loader.held).setLate none).loader.held = _ from hh]
      rfl
    · have hh1 : p1.loader.held = some { cause := .entry at_ scene cause (announced.map (· + 1)), countdown := n } := by
        show p.loader.held.map HeldSwitch.count = _
        rw [hh]; rfl
      rw [e, hh1]
      dsimp only
      have hso : p1.sceneOf p1.pointer.sectionIndex = sec.scene := by
        show (p.sectionAt p.pointer.sectionIndex).bind _ = _
        rw [hs]; rfl
      rw [hso]
      refine ⟨fun h => ?_, fun h => ?_⟩
      · rw [if_pos h]
        exact actTrigger_none _ ht
      · rw [if_neg h]
        exact considerScene_cases _ actTrigger_none ((p.setHeld none).setLate none) sec p.pointer.sectionIndex .sectionEntry hs rfl ht _ rfl

/-- The clock enters Parked (R17, R123). -/
theorem enterParked_parks (p : Part) : p.parks p.enterParked := by
  intro sec hs tl planned parked
  have hheld : ∀ z : Part, (if z.sectionHeld then z.setHeld none else z) =
      z.setHeld (match z.loader.held with | some { cause := .entry _ _ _ _, .. } => none | held => held) := by
    intro z
    unfold Part.sectionHeld
    cases h : z.loader.held with
    | none => exact (show z = z.setHeld z.loader.held from rfl).trans (by rw [h])
    | some w =>
      obtain ⟨c, n⟩ := w
      cases c with
      | entry a b c d => rfl
      | cue slot => exact (show z = z.setHeld z.loader.held from rfl).trans (by rw [h])
  have e1 : p.enterParked = { parked with loader := p.loader }.considerPark := by
    have hq : p.requestStop =
        { p with voices := if p.clockRuns && !tl.startPending then p.voices.request .stop else p.voices } := by
      unfold Part.requestStop; split <;> rfl
    unfold Part.enterParked
    rw [hq]
    dsimp only
    have hp : ∀ r : Part, r.loader.activeSong = p.loader.activeSong → r.pointer.startSection = p.pointer.startSection →
        r.timeline.plan = tl.plan → r.parkTempo = { r with timeline := { r.timeline with
          plan := planned, tempo := match planned with | none => clampTempo sec.startTempo | some o => o.target } } := by
      intro r h1 h2 h3
      have hst : r.startTempo r.pointer.startSection = clampTempo sec.startTempo := by
        unfold Part.startTempo Part.sectionAt
        rw [h1, h2, show p.loader.activeSong.bind (fun song => song.sections[p.pointer.startSection]?) = some sec from hs]
      have hpl : planned = r.timeline.plan.bind fun o => if o.keep then some { o with taken := o.ramp } else none := by rw [h3]
      unfold Part.parkTempo
      rw [hst, hpl]
      cases h : r.timeline.plan with
      | none =>
        show { r with timeline := { r.timeline with plan := r.timeline.plan, tempo := _ } } = _
        rw [h]; rfl
      | some o =>
        cases hk : o.keep <;> simp [hk]
    let p2 : Part := { p with
      timeline := { p.timeline with
        clock := .parked, pausedFrom := none, startPending := false, acc := 0, beatOpen := true, startByte := .none }
      pointer := p.pointer.parked
      voices := if p.clockRuns && !tl.startPending then p.voices.request .stop else p.voices }
    show (if p.clockRuns = true then p2.parkTempo.cuesDueAtOnce else p2.parkTempo).considerPark = _
    rw [hp p2 rfl rfl rfl]
    have hc : parked.cues =
        if p.clockRuns then { p.cues with arms := p.cues.arms.map fun b => { b with due := true } } else p.cues := rfl
    show _ = { parked with loader := p.loader, cues := parked.cues }.considerPark
    by_cases hr : p.clockRuns = true
    · rw [hc, if_pos hr, if_pos hr]; rfl
    · rw [hc, if_neg hr, if_neg hr]; rfl
  have e2 : { parked with loader := p.loader }.considerPark = parked.considerScene p.pointer.startSection .park := by
    unfold Part.considerPark
    dsimp only
    rw [hheld]
    rfl
  exact considerScene_cases (fun z => z) (fun _ _ => rfl) parked sec p.pointer.startSection .park hs rfl rfl _ (e1.trans e2)

/-- The active song and the click sounds' entries are as they were. -/
def Part.songKept (x y : Part) : Prop :=
  y.loader.activeSong = x.loader.activeSong ∧ y.watch.residents.clicks = x.watch.residents.clicks

theorem songKept_trans {x y z : Part} (h : x.songKept y) (k : y.songKept z) : x.songKept z :=
  ⟨k.1.trans h.1, k.2.trans h.2⟩

theorem songKept_moved {x y : Part} (h : LoaderMoved x y) : x.songKept y := by
  obtain ⟨l, r, rfl, a, b⟩ := h
  exact ⟨a, b⟩

theorem songKept_actWaiting (x : Part) : x.songKept x.actWaiting := by
  unfold Part.actWaiting
  split
  · exact ⟨rfl, rfl⟩
  · split
    · exact ⟨rfl, rfl⟩
    · dsimp only
      split
      · exact ⟨rfl, rfl⟩
      · split <;> exact ⟨rfl, rfl⟩

theorem songKept_freeShadow (x : Part) : x.songKept x.freeShadow :=
  songKept_trans (songKept_trans (songKept_moved (loaderMoved_emptyShadow x)) (songKept_actWaiting _))
    (songKept_moved (loaderMoved_actTrigger _))

theorem songKept_moveResidents (x : Part) : x.songKept x.moveResidents := by
  unfold Part.moveResidents
  dsimp only
  cases x.loader.shadowSong <;> cases x.loader.shadowScene <;> exact ⟨rfl, rfl⟩

theorem songKept_completeSection (x : Part) (target cause announced) : x.songKept (x.completeSection target cause announced) := by
  unfold Part.completeSection
  dsimp only
  have hj : ∀ source, x.songKept (x.journalLate source announced) := by
    intro source; cases announced <;> exact ⟨rfl, rfl⟩
  refine songKept_trans (hj (.sectionEntry target)) ?_
  generalize x.journalLate (.sectionEntry target) announced = b
  let u : Part := { b with loader := { b.loader with late := none, held := none } }
  obtain ⟨v, fan, e, -⟩ := swapScene_carries u _ rfl
  have h1 : b.songKept u.swapScene := by rw [e]; exact ⟨rfl, rfl⟩
  exact songKept_trans h1 (songKept_trans (songKept_moveResidents _) (songKept_freeShadow _))

theorem songKept_beginSection (x : Part) (target scene cause announced) :
    x.songKept (x.beginSection target scene cause announced) := by
  unfold Part.beginSection
  split
  · exact songKept_completeSection { x with voices := x.voices.admitBatch x.shadowBatch } _ _ _
  · exact ⟨rfl, rfl⟩

theorem songKept_considerScene (x : Part) (target cause) : x.songKept (x.considerScene target cause) := by
  unfold Part.considerScene
  split
  · split
    · exact songKept_freeShadow x
    · exact ⟨rfl, rfl⟩
  · split
    · split
      · exact songKept_freeShadow x
      · exact ⟨rfl, rfl⟩
    · split
      · split
        · split
          · exact songKept_beginSection x _ _ _ _
          · exact ⟨rfl, rfl⟩
        · exact ⟨rfl, rfl⟩
      · exact ⟨rfl, rfl⟩
      · exact ⟨rfl, rfl⟩
      · exact ⟨rfl, rfl⟩
      · exact ⟨rfl, rfl⟩

theorem songKept_makeLate (x : Part) : x.songKept x.makeLate := by
  unfold Part.makeLate
  split
  · exact ⟨rfl, rfl⟩
  · split
    · exact songKept_beginSection x _ _ _ _
    · exact ⟨rfl, rfl⟩

theorem songKept_loaderTakes (x : Part) (kind : BoundaryKind) : x.songKept (x.loaderTakes kind) := by
  refine songKept_trans ?_ (songKept_moved (loaderMoved_actTrigger _))
  unfold Part.loaderAnnounce
  dsimp only
  cases kind with
  | newSection =>
    dsimp only
    unfold Part.considerEntry
    dsimp only
    split
    · split
      · exact ⟨rfl, rfl⟩
      · exact songKept_considerScene (((x.setHeld (x.loader.held.map HeldSwitch.count)).setLate none).setHeld none) _ _
    · exact songKept_considerScene ((x.setHeld (x.loader.held.map HeldSwitch.count)).setLate none) _ _
  | beat => exact songKept_makeLate ((x.setHeld (x.loader.held.map HeldSwitch.count)).setLate (x.loader.late.map LateSwitch.count))
  | bar => exact songKept_makeLate ((x.setHeld (x.loader.held.map HeldSwitch.count)).setLate (x.loader.late.map LateSwitch.count))

/-- What the acts for a section keep, as one equation. -/
theorem part_of_sides {p q : Part} (h1 : q.aside = p.aside) (h2 : q.outer = p.outer) : q = { p with
    voices := q.voices, tracker := q.tracker, flags := q.flags, loader := q.loader, notice := q.notice
    watch := { p.watch with residents := q.watch.residents } } := by
  have hw : ∀ w w' : Watch, w.region = w'.region → w.owners = w'.owners → w.takenCopy = w'.takenCopy →
      w = { w' with residents := w.residents } := by
    rintro ⟨⟩ ⟨⟩ h1 h2 h3; simp_all
  simp only [Part.aside, Part.outer, Aside.mk.injEq, Outer.mk.injEq] at h1 h2
  have := hw q.watch p.watch (by simp [h1]) (by simp [h1]) (by simp [h2])
  rw [← this]
  clear this hw
  cases q; cases p
  simp_all

theorem loaderTakes_frame (p : Part) (kind : BoundaryKind) : p.loaderTakes kind = { p with
    voices := (p.loaderTakes kind).voices, tracker := (p.loaderTakes kind).tracker, flags := (p.loaderTakes kind).flags
    loader := (p.loaderTakes kind).loader, notice := (p.loaderTakes kind).notice
    watch := { p.watch with residents := (p.loaderTakes kind).watch.residents } } :=
  part_of_sides (by simp [Part.loaderTakes]) (by simp)

/-- A place of the frame in which the cue unit executes nothing. -/
theorem placeActs_idle (p : Part) (order : FrameOrder) (kind : BoundaryKind) (place : FramePlace)
    (h : order.cues = none ∨ p.cues.arms = []) :
    p.placeActs order kind place = if order.loader = place then p.loaderTakes kind else p := by
  have hd : ∀ x : Part, x.cues.arms = p.cues.arms →
      (∀ b : Bool, (if (order.cues == some place && b) = true then x.executeDue else x) = x) := by
    intro x hx b
    split
    · rename_i hc
      rcases h with h | h
      · rw [h] at hc; simp at hc
      · exact executeDue_idle x (by unfold Part.nextCue; rw [hx, h]; rfl)
    · rfl
  unfold Part.placeActs
  dsimp only
  rw [hd p rfl]
  have e : (if (order.loader == place) = true then p.loaderTakes kind else p) =
      if order.loader = place then p.loaderTakes kind else p := by
    by_cases hl : order.loader = place
    · rw [if_pos hl, if_pos (beq_iff_eq.mpr hl)]
    · rw [if_neg hl, if_neg (fun hb => hl (beq_iff_eq.mp hb))]
  rw [e]
  refine hd _ ?_ _
  split
  · rw [loaderTakes_frame]
  · rfl

/-- Rendering depends on the click generator and the engine state alone. -/
theorem render_congr (x y : Part) (h1 : y.click = x.click) (h2 : y.engine = x.engine) :
    y.render.click = x.render.click ∧ y.render.tdm = x.render.tdm := by
  unfold Part.render
  rw [h1, h2]
  split
  · exact ⟨rfl, rfl⟩
  · exact ⟨rfl, rfl⟩

theorem clicked_congr {p q r : Part} {cls : ClickClass} {stamp : Stamp} {told : Notice} (h : p.clicked q cls stamp told)
    (h1 : r.click = q.click) (h2 : r.tdm = q.tdm) (h3 : r.notice = q.notice) : p.clicked r cls stamp told := by
  unfold Part.clicked Part.renderedFrom at *
  rw [h1, h2, h3]; exact h

/-- A boundary's frame, in the order of its blocks (R33, R44, R48, R124). -/
theorem blocksAct_announced (y : Part) (order : FrameOrder) (kind : BoundaryKind)
    (h : order.cues = none ∨ y.cues.arms = []) :
    y.announced (y.blocksAct order (.boundary kind y.stamp)) order kind (boundaryClass y.stamp.phase kind) := by
  have hm : y.markDue kind = { y with cues := { y.cues with arms := y.cues.arms.map fun a => a.heard kind } } := by
    unfold Part.markDue
    rw [show (ArmedCue.announce kind) = fun a => a.heard kind from funext (ArmedCue.announce_heard kind)]
  let m0 : Part := { y with cues := { y.cues with arms := y.cues.arms.map fun a => a.heard kind } }
  have hi : ∀ x : Part, x.cues = m0.cues → order.cues = none ∨ x.cues.arms = [] := by
    intro x hx
    rcases h with h | h
    · exact .inl h
    · right; rw [hx]; show y.cues.arms.map _ = []; rw [h]; rfl
  have hc1 : ∀ (x : Part) c st, (x.clickEvent c st).cues = x.cues := fun x c st => by
    obtain ⟨_, _, e⟩ := clickEvent_shape x c st; rw [e]
  have hc2 : ∀ x : Part, x.render.cues = x.cues := fun x => by obtain ⟨_, _, e⟩ := render_shape x; rw [e]
  have hc3 : ∀ x : Part, (x.loaderTakes kind).cues = x.cues := fun x => by rw [loaderTakes_frame]
  have hb : y.blocksAct order (.boundary kind y.stamp) =
      ((((m0.placeActs order kind .beforeClick).clickEvent (boundaryClass y.stamp.phase kind) y.stamp).placeActs order kind
        .beforeRender).render).placeActs order kind .afterRender := by
    show ((((y.markDue kind).placeActs order kind .beforeClick).clickEvent _ _).placeActs order kind .beforeRender).render.placeActs
      order kind .afterRender = _
    rw [hm]
  rw [hb, placeActs_idle m0 _ _ _ (hi m0 rfl)]
  generalize hcls : boundaryClass y.stamp.phase kind = cls
  cases hl : order.loader with
  | beforeClick =>
    simp only [if_true]
    rw [placeActs_idle ((m0.loaderTakes kind).clickEvent cls y.stamp) _ _ _ (hi _ (by rw [hc1, hc3])), hl, if_neg (by decide),
      placeActs_idle ((m0.loaderTakes kind).clickEvent cls y.stamp).render _ _ _ (hi _ (by rw [hc2, hc1, hc3])), hl, if_neg (by decide)]
    obtain ⟨c, n, e1⟩ := clickEvent_shape (m0.loaderTakes kind) cls y.stamp
    obtain ⟨c2, t2, e2⟩ := render_shape ((m0.loaderTakes kind).clickEvent cls y.stamp)
    refine ⟨m0, m0.loaderTakes kind, rfl, loaderTakes_hears m0 kind, loaderTakes_frame m0 kind, by rw [e2, e1], fun he => ⟨fun _ => ⟨rfl, ?_⟩, fun hn => absurd hl hn⟩⟩
    have hk := songKept_loaderTakes m0 kind
    have hf := loaderTakes_frame m0 kind
    refine clicked_of y (m0.loaderTakes kind) cls y.stamp hk.1 ?_ hk.2 ?_
    · rw [hf]
    · rw [hf]; exact he
  | beforeRender =>
    rw [if_neg (by decide), placeActs_idle (m0.clickEvent cls y.stamp) _ _ _ (hi _ (hc1 _ _ _)), hl, if_pos rfl,
      placeActs_idle ((m0.clickEvent cls y.stamp).loaderTakes kind).render _ _ _ (hi _ (by rw [hc2, hc3, hc1])), hl, if_neg (by decide)]
    obtain ⟨c, n, e1⟩ := clickEvent_shape m0 cls y.stamp
    let m := m0.clickEvent cls y.stamp
    have hf := loaderTakes_frame m kind
    obtain ⟨c2, t2, e2⟩ := render_shape (m.loaderTakes kind)
    refine ⟨m, m.loaderTakes kind, by show m0.clickEvent cls y.stamp = { y with cues := _, click := (m0.clickEvent cls y.stamp).click, tdm := (m0.clickEvent cls y.stamp).tdm, notice := (m0.clickEvent cls y.stamp).notice }; rw [e1], loaderTakes_hears m kind, hf, by rw [show m0.clickEvent cls y.stamp = m from rfl, e2], fun he => ⟨fun hx => absurd (hl.symm.trans hx) (by decide), fun _ => ⟨render_notice _, ?_⟩⟩⟩
    have hcl := clicked_of y m0 cls y.stamp rfl rfl rfl he
    have hr := render_congr m (m.loaderTakes kind) (by rw [hf]) (by rw [hf])
    exact clicked_congr hcl hr.1 hr.2 (render_notice m).symm
  | afterRender =>
    rw [if_neg (by decide), placeActs_idle (m0.clickEvent cls y.stamp) _ _ _ (hi _ (hc1 _ _ _)), hl, if_neg (by decide),
      placeActs_idle (m0.clickEvent cls y.stamp).render _ _ _ (hi _ (by rw [hc2, hc1])), hl, if_pos rfl]
    obtain ⟨c, n, e1⟩ := clickEvent_shape m0 cls y.stamp
    obtain ⟨c2, t2, e2⟩ := render_shape (m0.clickEvent cls y.stamp)
    let m := (m0.clickEvent cls y.stamp).render
    have hf := loaderTakes_frame m kind
    refine ⟨m, m.loaderTakes kind, by show (m0.clickEvent cls y.stamp).render = { y with cues := _, click := (m0.clickEvent cls y.stamp).render.click, tdm := (m0.clickEvent cls y.stamp).render.tdm, notice := (m0.clickEvent cls y.stamp).render.notice }; rw [e2, e1], loaderTakes_hears m kind, hf, rfl, fun he => ⟨fun hx => absurd (hl.symm.trans hx) (by decide), fun _ => ⟨rfl, ?_⟩⟩⟩
    have hcl := clicked_of y m0 cls y.stamp rfl rfl rfl he
    refine clicked_congr hcl ?_ ?_ rfl
    · show (m.loaderTakes kind).click = m.click; rw [hf]
    · show (m.loaderTakes kind).tdm = m.tdm; rw [hf]

end Sys2Proof.Machine
end

