-- ==== Sys2Proof/Laws/Ends.lean ====
section
/-! SUPPORT. What ends: the drain's test (11.2), the shadow freed and claimed (8.2), and the write list that the refusal of
every cue leaves (9.6, 9.7). -/

namespace Sys2Proof.Machine

/-! ### The end of the drain (R177) -/

theorem allSent_iff (p : Part) : p.allSent ↔
    (p.voices.drained && !p.tracker.owes && p.cues.writes.isEmpty && p.notice.accepted.isEmpty) = true := by
  have h1 : p.voices.drained = true ↔ ∀ v : Fin 8, (p.voices.ports[v]).enabled = true →
      (p.voices.ports[v]).queue = [] ∧ (p.voices.ports[v]).slot = [] ∧ (p.voices.ports[v]).tx = .idle := by
    simp only [Voices.drained, allVoices, List.all_eq_true, VoicePort.drained]
    constructor
    · intro h v hv
      have := h v (by fin_cases v <;> simp)
      simp_all
    · intro h v _
      have := h v
      cases he : (p.voices.ports[v]).enabled <;> simp_all
  have h2 : (!p.tracker.owes) = true ↔
      (∀ e ∈ p.tracker.table, e.state = .sounding) ∧ ∀ i : Fin 4, ∀ f ∈ p.tracker.fan[i], f.upOwed = false := by
    simp only [Tracker.owes, allPlayers, HeldEntry.sounding]
    simp only [Bool.not_eq_true', Bool.or_eq_false_iff, List.any_eq_false]
    constructor
    · rintro ⟨h, g⟩
      refine ⟨fun e he => by simpa using h e he, fun i f hf => ?_⟩
      have := g i (by fin_cases i <;> simp)
      simp at this
      exact this f hf
    · rintro ⟨h, g⟩
      exact ⟨fun e he => by simpa using h e he, fun i _ => by simpa using g i⟩
  simp only [Bool.and_eq_true, h1, h2, List.isEmpty_iff, Part.allSent]
  tauto

theorem drainTest_drains (p : Part) : p.drains p.drainTest := by
  unfold Part.drainTest
  refine ⟨fun h1 h2 => ?_, fun h => ?_⟩
  · rw [allSent_iff] at h2
    rw [if_pos (by simpa [h1, Bool.and_assoc] using h2)]
  · rw [if_neg]
    intro hc
    simp only [Bool.and_assoc, Bool.and_eq_true, decide_eq_true_eq] at hc
    rcases h with h | h
    · exact h hc.1
    · exact h ((allSent_iff p).mpr (by simpa [Bool.and_assoc] using hc.2))

/-! ### The shadow freed (R114) -/

theorem freeShadow_frees (p : Part) : p.freed p.freeShadow := by
  unfold Part.freeShadow
  rw [emptyShadow_eq]
  refine ⟨fun h => ?_, ?_⟩
  · have : p.shadowFreed.actWaiting = p.shadowFreed := by
      unfold Part.actWaiting
      show (match p.loader.late with | none => _ | some late => _) = _
      cases hl : p.loader.late with
      | none => rfl
      | some w => dsimp only; rw [h w hl]; rfl
    rw [this]
    exact actTrigger_triggered _
  · intro w sec hw hwait target active hs
    have hso : p.shadowFreed.sceneOf target = sec.scene := by
      show (p.sectionAt target).bind _ = _
      rw [hs]; rfl
    have e : p.shadowFreed.actWaiting = match sec.scene with
        | none => { p.shadowFreed with loader := { p.shadowFreed.loader with late := none } }
        | some scene =>
          if active = some scene then { p.shadowFreed with loader := { p.shadowFreed.loader with late := none } }
          else
            let claimed := p.shadowFreed.lookFor scene
            { claimed with loader := { claimed.loader with
                late := some { w with target := target, scene := scene, waiting := false } } } := by
      unfold Part.actWaiting
      rw [show p.shadowFreed.loader.late = some w from hw]
      dsimp only
      rw [hwait, if_neg (by decide)]
      cases hc : w.cause with
      | park =>
        have hi : p.pointer.startSection = target := (if_pos hc).symm
        dsimp only
        rw [show p.shadowFreed.pointer.startSection = target from hi, hso]
        rfl
      | sectionEntry =>
        have hi : p.pointer.sectionIndex = target := (if_neg (by rw [hc]; decide)).symm
        dsimp only
        rw [show p.shadowFreed.pointer.sectionIndex = target from hi, hso]
        rfl
    rw [e]
    refine ⟨fun hn => ?_, fun scene hsc ha => ?_⟩
    · have : (match sec.scene with
          | none => ({ p.shadowFreed with loader := { p.shadowFreed.loader with late := none } } : Part)
          | some scene =>
            if active = some scene then { p.shadowFreed with loader := { p.shadowFreed.loader with late := none } }
            else
              let claimed := p.shadowFreed.lookFor scene
              { claimed with loader := { claimed.loader with
                  late := some { w with target := target, scene := scene, waiting := false } } }) =
          { p.shadowFreed with loader := { p.shadowFreed.loader with late := none } } := by
        rcases hn with hn | hn
        · rw [hn]
        · cases hx : sec.scene with
          | none => rfl
          | some scene => dsimp only; rw [if_pos (by rw [← hn, hx])]
      rw [this]
      exact actTrigger_triggered _
    · rw [hsc]
      dsimp only
      rw [if_neg ha]
      exact actTrigger_off _ (.inr (by simp))

/-! ### The shadow claimed (R114) -/

/-- The notice unit told that a late section switch is skipped. -/
abbrev Part.unlated (p : Part) : Notice := match p.loader.late with
  | none => p.notice
  | some w => p.notice.handOver { event := .sectionSceneSkipped w.target w.scene, stamp := p.stamp }

theorem cancelSectionSwitch_free (p : Part) (h : ∀ at_ scene cause announced n,
    p.loader.held ≠ some { cause := .entry at_ scene cause announced, countdown := n }) :
    p.cancelSectionSwitch = { p with loader := { p.loader with late := none }, notice := p.unlated } := by
  unfold Part.cancelSectionSwitch Part.unlated
  cases hl : p.loader.late with
  | none =>
    dsimp only
    split
    · rename_i c hc
      exact absurd hc (h _ _ _ _ _)
    · rw [← hl]
  | some w =>
    dsimp only
    split
    · rename_i c hc
      exact absurd hc (h _ _ _ _ _)
    · rfl

theorem cancelSectionSwitch_held (p : Part) {at_ scene : Nat} {cause announced n}
    (h : p.loader.held = some { cause := .entry at_ scene cause announced, countdown := n }) :
    p.cancelSectionSwitch = { p with
      loader := { p.loader with late := none, held := none }
      notice := p.unlated.handOver { event := .sectionSceneSkipped at_ scene, stamp := p.stamp } } := by
  unfold Part.cancelSectionSwitch Part.unlated
  cases hl : p.loader.late with
  | none =>
    dsimp only
    rw [h]
    dsimp only
    rw [← hl]
    rfl
  | some w =>
    dsimp only
    rw [show ((p.setLate none).journal (.sectionSceneSkipped w.target w.scene)).loader.held = p.loader.held from rfl, h]
    rfl

theorem makeStale_fresh (p : Part) (role : Role) (e : Resident) (h : p.resident role = some e)
    (hs : e.state ≠ .stale) :
    p.makeStale role .displaced = { p with
      watch := { p.watch with
        residents := p.watch.residents.put role (some { e with state := .stale, refetch := 0 }) }
      notice := p.handed (.recordStale role e.kind e.number .displaced) } := by
  unfold Part.makeStale
  rw [h]
  exact (if_neg hs).trans rfl

theorem makeStale_again (p : Part) (role : Role) (h : ∀ e, p.resident role = some e → e.state = .stale) :
    p.makeStale role .displaced = p := by
  unfold Part.makeStale
  cases hr : p.resident role with
  | none => rfl
  | some e => exact if_pos (h e hr)

theorem claimForCue_claims (p : Part) (slot : Fin 32) (fetch : ShadowFetch) :
    p.claims (p.claimForCue slot fetch) slot fetch := by
  unfold Part.claimForCue Part.displaceOwner
  refine ⟨fun h => ?_, ?_, ?_, fun h => ?_⟩
  · rcases h with h | ⟨other, h⟩ <;> rw [h] <;> rfl
  · rintro ⟨n, h⟩
    rw [h]
    refine ⟨fun hh => ?_, fun at_ scene cause announced m hh => ?_⟩
    · dsimp only
      rw [cancelSectionSwitch_free p hh]
      rfl
    · dsimp only
      rw [cancelSectionSwitch_held p hh]
      rfl
  · rintro ⟨b, h⟩
    rw [h]
    refine ⟨fun e he hs => ?_, fun he => ?_⟩
    · dsimp only
      rw [makeStale_fresh p .activeSong e he hs]
      rfl
    · dsimp only
      rw [makeStale_again p .activeSong he]
      rfl
  · rw [h]
    refine ⟨fun e he hs => ?_, fun he => ?_⟩
    · dsimp only
      rw [makeStale_fresh p .activeScene e he hs]
      rfl
    · dsimp only
      rw [makeStale_again p .activeScene he]
      rfl

/-! ### The write list after a refusal of every cue (R148, R153) -/

/-- A result queued: it takes the place of a state word of its slot still in the list, else the young end. -/
theorem queueWrite_eq (r : WriteItem) : ∀ writes : List WriteItem,
    ((writes.filter fun w => !w.result).map (·.slot)).Nodup →
    queueWrite r writes = (writes.map fun w => if w.slot = r.slot ∧ w.result = false then r else w) ++
      if writes.any (fun w => !w.result && w.slot = r.slot) then [] else [r]
  | [], _ => rfl
  | w :: rest, h => by
    unfold queueWrite
    by_cases hc : w.slot = r.slot ∧ w.result = false
    · rw [if_pos (by simpa using hc)]
      have hn : ∀ x ∈ rest, ¬(x.slot = r.slot ∧ x.result = false) := by
        intro x hx hxr
        rw [List.filter_cons, if_pos (by simp [hc.2]), List.map_cons, List.nodup_cons] at h
        refine h.1 ?_
        rw [hc.1, ← hxr.1]
        exact List.mem_map_of_mem (List.mem_filter.mpr ⟨hx, by simp [hxr.2]⟩)
      have hm : rest.map (fun w => if w.slot = r.slot ∧ w.result = false then r else w) = rest := by
        exact (List.map_congr_left fun x hx => if_neg (hn x hx)).trans (List.map_id _)
      rw [List.map_cons, if_pos hc, hm, if_pos (by simp [hc.1, hc.2]), List.append_nil]
    · rw [if_neg (by simpa using hc), List.map_cons, if_neg hc, queueWrite_eq r rest (by
        rw [List.filter_cons] at h
        split at h
        · exact (List.nodup_cons.mp h).2
        · exact h)]
      have : (!w.result && decide (w.slot = r.slot)) = false := by
        cases hw : w.result
        · simpa [hw] using hc
        · rfl
      rw [List.any_cons, this, Bool.false_or, List.cons_append]

/-- Results queued one after another: each takes the place of a state word of its slot, the others stand behind. -/
theorem queueWrites_eq : ∀ (results writes : List WriteItem), (∀ r ∈ results, r.result = true) →
    (results.map (·.slot)).Nodup → ((writes.filter fun w => !w.result).map (·.slot)).Nodup →
    results.foldl (fun l r => queueWrite r l) writes =
      (writes.map fun w => if w.result then w else (results.find? fun r => r.slot = w.slot).getD w) ++
        results.filter fun r => !writes.any fun w => !w.result && w.slot = r.slot := by
  intro results
  induction results with
  | nil => intro writes _ _ _; simp
  | cons r rest ih =>
    intro writes hr hn hw
    rw [List.map_cons, List.nodup_cons] at hn
    have hres : r.result = true := hr r (by simp)
    have hne : ∀ x ∈ rest, r.slot ≠ x.slot := fun x hx h => hn.1 (by rw [h]; exact List.mem_map_of_mem hx)
    rw [List.foldl_cons, queueWrite_eq r writes hw]
    generalize ht : (if writes.any (fun w => !w.result && w.slot = r.slot) then ([] : List WriteItem) else [r]) = tail
    obtain ⟨sub, hsub⟩ : ∃ f : WriteItem → WriteItem, f = fun w => if w.slot = r.slot ∧ w.result = false then r else w :=
      ⟨_, rfl⟩
    have hpos : ∀ w, w.slot = r.slot → w.result = false → sub w = r := fun w h1 h2 => by rw [hsub]; exact if_pos ⟨h1, h2⟩
    have hneg : ∀ w, ¬(w.slot = r.slot ∧ w.result = false) → sub w = w := fun w h => by rw [hsub]; exact if_neg h
    rw [← hsub]
    have htail : ∀ x ∈ tail, x = r := by
      intro x hx; rw [← ht] at hx; split at hx
      · cases hx
      · simpa using hx
    rw [ih _ (fun x hx => hr x (by simp [hx])) hn.2]
    · have h1 : (writes.map sub ++ tail).map
            (fun w => if w.result then w else (rest.find? fun r => r.slot = w.slot).getD w) =
          (writes.map fun w => if w.result then w else ((r :: rest).find? fun r => r.slot = w.slot).getD w) ++ tail := by
        rw [List.map_append, List.map_map]
        congr 1
        · refine List.map_congr_left fun w _ => ?_
          dsimp only [Function.comp]
          by_cases hwr : w.result = true
          · rw [hneg w (by simp [hwr]), if_pos hwr, if_pos hwr]
          · simp only [Bool.not_eq_true] at hwr
            by_cases hs : w.slot = r.slot
            · rw [hpos w hs hwr, if_pos hres, if_neg (by simp [hwr]), List.find?_cons_of_pos (by simp [hs])]; rfl
            · rw [hneg w (fun h => hs h.1), List.find?_cons_of_neg (by simpa using fun h => hs h.symm)]
        · exact (List.map_congr_left fun x hx => by rw [htail x hx, if_pos hres]; rfl).trans (List.map_id tail)
      have h2 : (rest.filter fun x => !(writes.map sub ++ tail).any fun w => !w.result && w.slot = x.slot) =
          rest.filter fun x => !writes.any fun w => !w.result && w.slot = x.slot := by
        refine List.filter_congr fun x hx => ?_
        congr 1
        rw [List.any_append, List.any_map]
        have h3 : tail.any (fun w => !w.result && decide (w.slot = x.slot)) = false := by
          rw [List.any_eq_false]; intro y hy; rw [htail y hy, hres]; simp
        rw [h3, Bool.or_false]
        congr 1
        funext w
        dsimp only [Function.comp]
        by_cases hs : w.slot = r.slot ∧ w.result = false
        · have : w.slot ≠ x.slot := by rw [hs.1]; exact hne x hx
          rw [hpos w hs.1 hs.2, hres]; simp [this]
        · rw [hneg w hs]
      rw [h1, h2, List.append_assoc]
      congr 1
      rw [List.filter_cons, ← ht]
      cases writes.any fun w => !w.result && w.slot = r.slot <;> rfl
    · refine hw.sublist ?_
      rw [List.filter_append, List.map_append]
      have h3 : tail.filter (fun w => !w.result) = [] := by
        rw [List.filter_eq_nil_iff]; intro y hy; rw [htail y hy, hres]; simp
      rw [h3, List.map_nil, List.append_nil]
      have hf : ∀ l : List WriteItem, (((l.map sub).filter fun w => !w.result).map (·.slot)).Sublist
          ((l.filter fun w => !w.result).map (·.slot)) := by
        intro l
        induction l with
        | nil => exact .slnil
        | cons w l ih =>
          rw [List.map_cons, List.filter_cons, List.filter_cons]
          by_cases hs : w.slot = r.slot ∧ w.result = false
          · rw [hpos w hs.1 hs.2, hres, hs.2]
            exact ih.cons _
          · rw [hneg w hs]
            cases hwr : w.result
            · exact ih.cons_cons _
            · exact ih
      exact hf writes

/-- What the refusal of every cue leaves in the write list (R153). -/
theorem refuse_writes {α : Type} (slot : α → Fin 32) (notify : α → Bool) : ∀ (l : List α) (p : Part),
    (l.foldl (fun p a => p.refuseStopped (slot a) (notify a)) p).cues.writes =
      (l.map fun a => ({
        slot := slot a
        words := [.answer .engineStopped 0 0, .position p.stamp, .positionEnd p.stamp, .frameCount p.stamp, .state .refused]
        result := true, notice := notify a } : WriteItem)).foldl (fun l r => queueWrite r l) p.cues.writes
  | [], _ => rfl
  | a :: rest, p => by
    rw [List.foldl_cons, refuse_writes slot notify rest, List.map_cons, List.foldl_cons]
    rfl

theorem refuseAll_writes (p : Part) :
    let refused (slot : Fin 32) (notify : Bool) : WriteItem := {
      slot := slot
      words := [.answer .engineStopped 0 0, .position p.stamp, .positionEnd p.stamp, .frameCount p.stamp, .state .refused]
      result := true, notice := notify }
    p.refuseAll.cues.writes =
      (p.cues.posted.map (fun slot => refused slot false) ++ p.cues.arms.map fun a => refused a.slot a.notify).foldl
        (fun l r => queueWrite r l) p.cues.writes := by
  intro refused
  have h1 := (refuse_list (fun s : Fin 32 => s) (fun _ => false) p.cues.posted p).1
  have h2 := refuse_writes (fun s : Fin 32 => s) (fun _ => false) p.cues.posted p
  have h3 := refuse_writes (fun a : ArmedCue => a.slot) (fun a => a.notify) p.cues.arms
    (p.cues.posted.foldl (fun p slot => p.refuseStopped slot false) p)
  have hs : (p.cues.posted.foldl (fun p slot => p.refuseStopped slot false) p).stamp = p.stamp := by
    unfold Part.stamp; rw [h1.pointer, h1.timeline]
  rw [hs] at h3
  have e : p.refuseAll.cues.writes = (p.cues.arms.foldl (fun p a => p.refuseStopped a.slot a.notify)
      (p.cues.posted.foldl (fun p slot => p.refuseStopped slot false) p)).cues.writes := by
    unfold Part.refuseAll
    dsimp only
    split
    · simp
    · rfl
  rw [e, h3, List.foldl_append]
  exact congrArg (fun w => List.foldl (fun l r => queueWrite r l) w (p.cues.arms.map fun a => refused a.slot a.notify)) h2

/-- The refusal of every cue journals nothing and leaves the active scene (R153). -/
theorem refuseAll_quiet (p : Part) :
    p.refuseAll.notice = p.notice ∧ p.refuseAll.loader.activeScene = p.loader.activeScene := by
  obtain ⟨h1, -⟩ := refuse_list (fun s : Fin 32 => s) (fun _ => false) p.cues.posted p
  obtain ⟨h2, -⟩ := refuse_list (fun a : ArmedCue => a.slot) (fun a => a.notify) p.cues.arms
    (p.cues.posted.foldl (fun p slot => p.refuseStopped slot false) p)
  have h3 := h2.trans h1
  unfold Part.refuseAll
  dsimp only
  generalize p.cues.arms.foldl (fun p a => p.refuseStopped a.slot a.notify)
    (p.cues.posted.foldl (fun p slot => p.refuseStopped slot false) p) = armed at h3 ⊢
  split <;> simp [h3.notice, h3.loader]

/-! ### A Panic's messages (R96) -/

/-- What a Panic has sent is told by the voice ports, the tracker, the active scene, the notice unit and the stamp. -/
theorem silenced_congr {p q p' q' : Part} {source : PanicSource} (h : p.silenced q source) (h1 : p'.voices = p.voices)
    (h2 : p'.tracker = p.tracker) (h3 : p'.loader.activeScene = p.loader.activeScene) (h4 : p'.notice = p.notice)
    (h5 : p'.stamp = p.stamp) (h6 : q'.voices = q.voices) (h7 : q'.tracker = q.tracker) (h8 : q'.notice = q.notice) :
    p'.silenced q' source := by
  unfold Part.silenced at h ⊢
  rw [h1, h2, h3, h4, h5, h6, h7, h8]
  exact h

end Sys2Proof.Machine
end

