-- ==== Sys2Proof/Laws/Mail.lean ====
section
/-! SUPPORT. The mailboxes (11.3): the code of a command, the value of a reply, a command answered. -/

namespace Sys2Proof.Machine

theorem append_toNat (code : BitVec 4) (argument : BitVec 12) :
    (code ++ argument).toNat = 4096 * code.toNat + argument.toNat := by
  rw [BitVec.toNat_append, ← Nat.shiftLeft_add_eq_or_of_lt argument.isLt, Nat.shiftLeft_eq]
  omega

@[simp] theorem mailCode_append (code : BitVec 4) (argument : BitVec 12) : mailCode (code ++ argument) = code.toNat := by
  have h := argument.isLt
  unfold mailCode
  rw [append_toNat]
  omega

/-- A reply with the result Ok. -/
theorem replyValue_ok (code : BitVec 4) (data : Nat) (h : data < 2048) :
    replyValue code.toNat false data = code ++ BitVec.ofNat 12 data := by
  apply BitVec.eq_of_toNat_eq
  rw [append_toNat]
  have := code.isLt
  simp only [replyValue, bitOf, BitVec.toNat_ofNat]
  simp
  omega

/-- A reply with the result Unknown. -/
theorem replyValue_unknown (code : BitVec 4) : replyValue code.toNat true 0 = code ++ 0x800#12 := by
  apply BitVec.eq_of_toNat_eq
  rw [append_toNat]
  have := code.isLt
  simp only [replyValue, bitOf, BitVec.toNat_ofNat]
  simp
  omega

theorem knownCode_of_unknown {code : BitVec 4} (h : unknownCode code = true) : knownCode code.toNat = false := by
  have h4 := code.isLt
  simp only [unknownCode, Bool.or_eq_true, beq_iff_eq, decide_eq_true_eq] at h
  simp only [knownCode, Bool.and_eq_false_iff, decide_eq_false_iff_not]
  rcases h with h | h
  · subst h; left; decide
  · right; omega

/-- A part whose free mailbox has taken a command out of MAIL_IN: the value stays, both flags are clear. -/
def Part.stored (p : Part) (value : Halfword) : Part :=
  { p with mail := { inValue := value, inFull := false, outValue := p.mail.outValue, outFull := false } }

/-- A command taken at once from a free mailbox (R180): the command carried out, then the reply stored and ReplyReady
raised. -/
theorem writeMailIn_free (p : Part) (value : Halfword) (h1 : p.mail.inFull = false) (h2 : p.mail.outFull = false) :
    p.writeMailIn value =
      ({ ((p.stored value).mailCommand (mailCode value)).1 with
        mail := { ((p.stored value).mailCommand (mailCode value)).1.mail with
          outValue := replyValue (mailCode value) (!knownCode (mailCode value))
            ((p.stored value).mailCommand (mailCode value)).2
          outFull := true } }).raise .replyReady := by
  have h : p.stored value = { p with mail := { p.mail with inValue := value, inFull := false } } := by
    simp [Part.stored, h2]
  rw [h]
  simp only [Part.writeMailIn, Part.takeCommand, h1, h2]
  rfl

/-- A command that answers data and has no effect, taken from a free mailbox. -/
theorem writeMailIn_answer (p : Part) (value : Halfword) (data : Nat) (h1 : p.mail.inFull = false)
    (h2 : p.mail.outFull = false) (h : (p.stored value).mailCommand (mailCode value) = (p.stored value, data)) :
    p.writeMailIn value =
      p.answered value (replyValue (mailCode value) (!knownCode (mailCode value)) data) := by
  rw [writeMailIn_free p value h1 h2, h]
  rfl

/-- A tap reads nothing of the mailboxes. -/
theorem Part.tap_mail (p : Part) (m : Mail) : ({ p with mail := m } : Part).tap = { p.tap with mail := m } := by
  have hres : ∀ (q : Part) (n t : Nat), ({ q with mail := m } : Part).tapResult n t = { q.tapResult n t with mail := m } := by
    intro q n t
    unfold Part.tapResult
    dsimp only
    split
    · rename_i h
      have h' : (q.journal (.tapMeasured n t)).timeline.tapFollow = true := h
      rw [if_pos h']
      unfold Part.setOverride
      dsimp only
      split
      · rename_i g
        have g' : (q.journal (.tapMeasured n t)).clockRuns = true := g
        rw [if_pos g']; rfl
      · rename_i g
        have g' : ¬ (q.journal (.tapMeasured n t)).clockRuns = true := g
        rw [if_neg g']; rfl
    · rename_i h
      have h' : ¬ (q.journal (.tapMeasured n t)).timeline.tapFollow = true := h
      rw [if_neg h']; rfl
  unfold Part.tap
  dsimp only
  split
  · rfl
  · split
    · rfl
    · split
      · rfl
      · split
        · rfl
        · split
          · rfl
          · exact hres (p.recordTap _) _ _

end Sys2Proof.Machine
end

