-- ==== Sys2Proof/Laws/Memory.lean ====
section
/-! SUPPORT. The laws of shared memory: every operation keeps the canonical form, a read after a write, runs of bytes,
fields in the strap's byte order. -/

namespace Sys2Proof.Machine

/-! ### One byte -/

theorem cellsWf_lower {low low' : Nat} {cells : List Host.Cell} (h : low' ≤ low) (wf : cellsWf low cells = true) :
    cellsWf low' cells = true := by
  cases cells with
  | nil => rfl
  | cons c rest =>
    obtain ⟨a, v⟩ := c
    simp only [cellsWf, Bool.and_eq_true, decide_eq_true_eq] at wf ⊢
    exact ⟨⟨⟨le_trans h wf.1.1.1, wf.1.1.2⟩, wf.1.2⟩, wf.2⟩

theorem cellsWrite_wf {low a : Nat} {v : Byte} {cells : List Host.Cell} (ha : low ≤ a) (hb : a < Config.ramBytes)
    (wf : cellsWf low cells = true) : cellsWf low (cellsWrite cells a v) = true := by
  induction cells generalizing low with
  | nil => unfold cellsWrite; split <;> simp_all [cellsWf]
  | cons c rest ih =>
    obtain ⟨b, w⟩ := c
    simp only [cellsWf, Bool.and_eq_true, decide_eq_true_eq] at wf
    obtain ⟨⟨⟨h1, h2⟩, h3⟩, h4⟩ := wf
    unfold cellsWrite
    split
    · rename_i hlt
      split
      · simp_all [cellsWf]
      · have h5 : a + 1 ≤ b := hlt
        simp_all [cellsWf]
    · split
      · rename_i heq
        subst heq
        split
        · exact cellsWf_lower (Nat.le_succ_of_le ha) h4
        · simp_all [cellsWf]
      · rename_i hlt hne
        have h5 : b + 1 ≤ a := by omega
        have h6 := ih h5 h4
        simp_all [cellsWf]

theorem cellsRead_of_lt {low a : Nat} {cells : List Host.Cell} (wf : cellsWf low cells = true) (h : a < low) :
    cellsRead cells a = Config.unlistedByte := by
  induction cells generalizing low with
  | nil => rfl
  | cons c rest ih =>
    obtain ⟨b, w⟩ := c
    simp only [cellsWf, Bool.and_eq_true, decide_eq_true_eq] at wf
    obtain ⟨⟨⟨h1, -⟩, -⟩, h4⟩ := wf
    have h5 : a ≠ b := by omega
    simp only [cellsRead, if_neg h5]
    exact ih h4 (by omega)

theorem cellsRead_write {low : Nat} {cells : List Host.Cell} (wf : cellsWf low cells = true) (a b : Nat) (v : Byte) :
    cellsRead (cellsWrite cells a v) b = if b = a then v else cellsRead cells b := by
  induction cells generalizing low with
  | nil => unfold cellsWrite; split <;> simp_all [cellsRead]
  | cons c rest ih =>
    obtain ⟨k, w⟩ := c
    simp only [cellsWf, Bool.and_eq_true, decide_eq_true_eq] at wf
    obtain ⟨-, h4⟩ := wf
    have ih := ih h4
    unfold cellsWrite
    split
    · rename_i hlt
      have h5 : a ≠ k := by omega
      have h6 : cellsRead rest a = Config.unlistedByte := cellsRead_of_lt h4 (by omega)
      split <;> simp only [cellsRead] <;> split_ifs <;> simp_all
    · split
      · rename_i heq
        subst heq
        have h6 : cellsRead rest a = Config.unlistedByte := cellsRead_of_lt h4 (by omega)
        split <;> simp only [cellsRead] <;> split_ifs <;> simp_all
      · rename_i hne
        simp only [cellsRead, ih]
        split_ifs <;> simp_all

/-- Another address reads as before, whatever the form of the cells. -/
theorem cellsRead_write_of_ne (cells : List Host.Cell) {a b : Nat} (v : Byte) (h : b ≠ a) :
    cellsRead (cellsWrite cells a v) b = cellsRead cells b := by
  induction cells with
  | nil => unfold cellsWrite; split <;> simp [cellsRead, h]
  | cons c rest ih =>
    obtain ⟨k, w⟩ := c
    unfold cellsWrite
    split
    · split <;> simp [cellsRead, h]
    · split
      · rename_i heq
        subst heq
        split <;> simp [cellsRead, h]
      · simp only [cellsRead, ih]

theorem ramAddress_lt (a : Nat) : ramAddress a < Config.ramBytes := Nat.mod_lt _ (by decide)

theorem ramAddress_of_lt {a : Nat} (h : a < Config.ramBytes) : ramAddress a = a := Nat.mod_eq_of_lt h

theorem Memory.write_wf {m : Memory} (wf : m.wf = true) (a : Nat) (v : Byte) : (m.write a v).wf = true :=
  cellsWrite_wf (Nat.zero_le _) (ramAddress_lt a) wf

theorem Memory.read_write {m : Memory} (wf : m.wf = true) (a b : Nat) (v : Byte) :
    (m.write a v).read b = if ramAddress b = ramAddress a then v else m.read b := cellsRead_write wf _ _ _

theorem Memory.read_write_of_ne (m : Memory) {a b : Nat} (v : Byte) (h : ramAddress b ≠ ramAddress a) :
    (m.write a v).read b = m.read b := cellsRead_write_of_ne _ _ h

/-! ### Runs of bytes -/

theorem Memory.writeBytes_wf {m : Memory} (wf : m.wf = true) (a : Nat) (bytes : List Byte) :
    (m.writeBytes a bytes).wf = true := by
  induction bytes generalizing m a with
  | nil => exact wf
  | cons v rest ih => exact ih (m.write_wf wf a v) (a + 1)

/-- An address that no byte of a run falls on reads as before. -/
theorem Memory.read_writeBytes_of_ne {m : Memory} {a b : Nat} {bytes : List Byte}
    (h : ∀ k, k < bytes.length → ramAddress b ≠ ramAddress (a + k)) : (m.writeBytes a bytes).read b = m.read b := by
  induction bytes generalizing m a with
  | nil => rfl
  | cons v rest ih =>
    rw [Memory.writeBytes, ih (fun k hk => by rw [Nat.add_assoc, Nat.add_comm 1 k]; exact h (k + 1) (by simpa using hk)),
      Memory.read_write_of_ne m v (by simpa using h 0 (by simp))]

/-- An address outside a run that lies in the RAM reads as before. -/
theorem Memory.read_writeBytes_outside {m : Memory} {a b : Nat} {bytes : List Byte}
    (hb : b < Config.ramBytes) (hfit : a + bytes.length ≤ Config.ramBytes) (hout : b < a ∨ a + bytes.length ≤ b) :
    (m.writeBytes a bytes).read b = m.read b :=
  Memory.read_writeBytes_of_ne fun k hk => by
    rw [ramAddress_of_lt hb, ramAddress_of_lt (by omega)]; omega

/-- An address inside a run that lies in the RAM reads as the run's byte. -/
theorem Memory.read_writeBytes_inside {m : Memory} (wf : m.wf = true) {a i : Nat} {bytes : List Byte}
    (hfit : a + bytes.length ≤ Config.ramBytes) (hi : i < bytes.length) :
    (m.writeBytes a bytes).read (a + i) = bytes[i] := by
  induction bytes generalizing m a i with
  | nil => exact absurd hi (Nat.not_lt_zero _)
  | cons v rest ih =>
    simp only [List.length_cons] at hfit hi
    cases i with
    | zero =>
      rw [Memory.writeBytes, Memory.read_writeBytes_outside (by omega) (by omega) (by omega),
        Memory.read_write wf]
      simp
    | succ i =>
      have h := ih (m.write_wf wf a v) (a := a + 1) (i := i) (by omega) (by omega)
      rw [Memory.writeBytes, List.getElem_cons_succ, ← h, Nat.add_assoc, Nat.add_comm 1 i]

theorem Memory.ofCells_wf (cells : List (Nat × Byte)) : (Memory.ofCells cells).wf = true := by
  have h : ∀ m : Memory, m.wf = true → (cells.foldl (fun m c => m.write c.1 c.2) m).wf = true := by
    induction cells with
    | nil => exact fun m wf => wf
    | cons c rest ih => exact fun m wf => ih _ (m.write_wf wf c.1 c.2)
  exact h _ rfl

theorem reset_mem_wf : State.reset.mem.wf = true := rfl

/-! ### Fields (R186) -/

@[simp] theorem leastFirstBytes_length (n v : Nat) : (leastFirstBytes n v).length = n := by
  induction n generalizing v with
  | zero => rfl
  | succ n ih => simp [leastFirstBytes, ih]

@[simp] theorem fieldBytes_length (order : ByteOrder) (n v : Nat) : (fieldBytes order n v).length = n := by
  cases order <;> simp [fieldBytes]

theorem leastFirstValue_bytes {n v : Nat} (h : v < 256 ^ n) : leastFirstValue (leastFirstBytes n v) = v := by
  induction n generalizing v with
  | zero => simp_all [leastFirstBytes, leastFirstValue]
  | succ n ih =>
    have h1 : v / 256 < 256 ^ n := Nat.div_lt_of_lt_mul (by rwa [Nat.pow_succ, Nat.mul_comm] at h)
    simp only [leastFirstBytes, leastFirstValue, ih h1, BitVec.toNat_ofNat]
    omega

theorem fieldValue_bytes (order : ByteOrder) {n v : Nat} (h : v < 256 ^ n) :
    fieldValue order (fieldBytes order n v) = v := by
  cases order <;> simp [fieldValue, fieldBytes, leastFirstValue_bytes h]

end Sys2Proof.Machine
end

