-- ==== Sys2Proof/Laws/Owed.lean ====
section
/-! SUPPORT. What a voice port takes of the messages it is owed when it frees an entry (6.4, 7.5). -/

namespace Sys2Proof.Machine

/-- A port under transmission with messages put behind its queue. -/
def Voices.filled (v : Voices) (i : Fin 8) (ms : List Message) : Voices :=
  v.setPort i { v.ports[i] with queue := (v.ports[i]).queue ++ ms }

/-- A port that is enabled and whose transmitter is not Idle. -/
def Voices.sendingAt (v : Voices) (i : Fin 8) : Prop := (v.ports[i]).enabled = true ∧ (v.ports[i]).tx ≠ .idle

theorem filled_port (v : Voices) (i : Fin 8) (ms) :
    (v.filled i ms).ports[i] = { v.ports[i] with queue := (v.ports[i]).queue ++ ms } := by
  unfold Voices.filled; rw [Voices.setPort_ports, if_pos rfl]

theorem filled_sending {v : Voices} {i : Fin 8} (h : v.sendingAt i) (ms) : (v.filled i ms).sendingAt i := by
  unfold Voices.sendingAt; rw [filled_port]; exact h

theorem filled_nil (v : Voices) (i : Fin 8) : v.filled i [] = v := by
  unfold Voices.filled Voices.setPort
  have : v.ports.set i { v.ports[i] with queue := (v.ports[i]).queue ++ [] } = v.ports := by
    apply Vector.ext; intro j hj
    simp only [Vector.getElem_set]
    split
    · rename_i h; subst h; simp
    · rfl
  rw [this]

theorem filled_filled (v : Voices) (i : Fin 8) (a b) : (v.filled i a).filled i b = v.filled i (a ++ b) := by
  have e : (v.filled i a).filled i b =
      (v.filled i a).setPort i { (v.filled i a).ports[i] with queue := ((v.filled i a).ports[i]).queue ++ b } := rfl
  rw [e, filled_port]
  unfold Voices.filled Voices.setPort
  dsimp only
  rw [List.append_assoc]
  congr 1
  apply Vector.ext; intro j hj; simp [Vector.getElem_set]

/-- A releasing offer to a port under transmission (R102). -/
theorem offer_sending {v : Voices} {i : Fin 8} (h : v.sendingAt i) (m : Message) :
    v.offer .releasing i m = if (v.ports[i]).queue.length < 64 then (true, v.filled i [m]) else (false, v) := by
  unfold Voices.offer Voices.admits
  rw [h.1]
  show (if decide (1 ≤ (v.ports[i]).free) = true then _ else _) = _
  unfold VoicePort.free
  have h64 : Config.queueSize = 64 := rfl
  by_cases hq : (v.ports[i]).queue.length < 64
  · rw [if_pos (decide_eq_true (by omega)), if_pos hq]
    unfold Voices.accept VoicePort.accept VoicePort.wake
    rw [if_pos h.1]
    dsimp only
    cases ht : (v.ports[i]).tx with
    | idle => exact absurd ht h.2
    | sending b src =>
      dsimp only
      unfold Voices.filled
      rw [← ht]
  · rw [if_neg (fun h => by have := of_decide_eq_true h; omega), if_neg hq]

/-- The note-offs that an entry's destinations owe a port. -/
def destOffs (i : Fin 8) (velocity : Nat) (l : List NoteDest) : List Message :=
  (l.filter fun d => !d.delivered && d.dest.voice = i).map fun d => noteOffMessage d.dest.channel d.key velocity

/-- An entry's destinations with those of a port delivered. -/
def markDests (i : Fin 8) (l : List NoteDest) : List NoteDest :=
  l.map fun d => if d.dest.voice = i then { d with delivered := true } else d

/-- The free entries of a port. -/
def Voices.roomAt (v : Voices) (i : Fin 8) : Nat := 64 - (v.ports[i]).queue.length

theorem roomAt_filled (v : Voices) (i : Fin 8) (ms) : (v.filled i ms).roomAt i = v.roomAt i - ms.length := by
  unfold Voices.roomAt; rw [filled_port, List.length_append]; omega

/-- The owed note-offs of one entry (R89). -/
theorem deliverDests_fills (i : Fin 8) (vel : Nat) : ∀ (l : List NoteDest) (v : Voices), v.sendingAt i →
    (deliverDests i vel l v).2.1 = v.filled i ((destOffs i vel l).take (v.roomAt i)) ∧
      (deliverDests i vel l v).2.2 = decide ((destOffs i vel l).length ≤ v.roomAt i) ∧
      (∀ w, destOffs i w (deliverDests i vel l v).1 = (destOffs i w l).drop (v.roomAt i)) ∧
      (∀ j w, j ≠ i → destOffs j w (deliverDests i vel l v).1 = destOffs j w l) ∧
      ((destOffs i vel l).length ≤ v.roomAt i → (deliverDests i vel l v).1 = markDests i l)
  | [], v, _ => by simp [deliverDests, destOffs, filled_nil, markDests]
  | d :: rest, v, h => by
    unfold deliverDests
    by_cases hd : (!d.delivered && d.dest.voice == i) = true
    · rw [if_pos hd, offer_sending h]
      simp only [Bool.and_eq_true, Bool.not_eq_true', beq_iff_eq] at hd
      have hof : ∀ w, destOffs i w (d :: rest) = noteOffMessage d.dest.channel d.key w :: destOffs i w rest := by
        intro w; unfold destOffs; rw [List.filter_cons_of_pos (by simp [hd])]; rfl
      have hoj : ∀ j w, j ≠ i → ∀ b, destOffs j w ({ d with delivered := b } :: rest) = destOffs j w rest := by
        intro j w hj b; unfold destOffs; rw [List.filter_cons_of_neg (by simp [hd]; intro _ h; exact hj h.symm)]
      by_cases hq : (v.ports[i]).queue.length < 64
      · rw [if_pos hq]
        dsimp only
        rw [if_pos rfl]
        obtain ⟨a1, a2, a3, a4, a5⟩ := deliverDests_fills i vel rest (v.filled i [noteOffMessage d.dest.channel d.key vel]) (filled_sending h _)
        have hr : v.roomAt i = (v.filled i [noteOffMessage d.dest.channel d.key vel]).roomAt i + 1 := by
          rw [roomAt_filled]; unfold Voices.roomAt; simp only [List.length_cons, List.length_nil]; omega
        refine ⟨?_, ?_, fun w => ?_, fun j w hj => ?_, fun hl => ?_⟩
        · dsimp only; rw [a1, filled_filled, hof, hr, List.take_succ_cons]; rfl
        · dsimp only; rw [a2, hof, hr]; simp
        · dsimp only; rw [hof, hr, List.drop_succ_cons, ← a3 w]
          conv => lhs; unfold destOffs
          rw [List.filter_cons_of_neg (by simp)]
          rfl
        · dsimp only
          have := hoj j w hj d.delivered
          rw [show ({ d with delivered := d.delivered } : NoteDest) = d from rfl] at this
          rw [this, ← a4 j w hj]
          conv => lhs; unfold destOffs
          rw [List.filter_cons_of_neg (by simp)]
          rfl
        · dsimp only
          rw [hof, hr] at hl
          rw [a5 (by simpa using hl)]
          unfold markDests
          rw [List.map_cons, if_pos hd.2]
      · rw [if_neg hq]
        have h0 : v.roomAt i = 0 := by unfold Voices.roomAt; omega
        dsimp only
        rw [if_neg (by decide)]
        refine ⟨?_, ?_, fun w => ?_, fun j w hj => ?_, fun hl => ?_⟩
        · rw [h0, List.take_zero, filled_nil]
        · rw [h0, hof]; simp
        · rw [h0, List.drop_zero]
        · rfl
        · rw [h0, hof] at hl; simp at hl
    · rw [if_neg hd]
      obtain ⟨a1, a2, a3, a4, a5⟩ := deliverDests_fills i vel rest v h
      have hof : ∀ w r, destOffs i w (d :: r) = destOffs i w r := by
        intro w r; unfold destOffs; rw [List.filter_cons_of_neg (by simpa using hd)]
      refine ⟨by rw [hof]; exact a1, by rw [hof]; exact a2, fun w => by dsimp only; rw [hof, hof]; exact a3 w, fun j w hj => ?_, fun hl => ?_⟩
      · dsimp only
        have := a4 j w hj
        unfold destOffs at this ⊢
        rw [List.filter_cons, List.filter_cons]
        split
        · rw [List.map_cons, List.map_cons, this]
        · exact this
      · rw [hof] at hl
        dsimp only
        rw [a5 hl]
        unfold markDests
        rw [List.map_cons]
        congr 1
        split
        · rename_i hv
          simp only [hv, beq_self_eq_true, Bool.and_true, Bool.not_eq_true, Bool.not_eq_false'] at hd
          cases d; dsimp only at hd ⊢; rw [hd]
        · rfl

theorem owedNoteOffs_sounding (i : Fin 8) (e : HeldEntry) (l) (h : e.state = .sounding) :
    owedNoteOffs i (e :: l) = owedNoteOffs i l := by
  unfold owedNoteOffs
  rw [List.flatMap_cons, h]
  rfl

theorem owedNoteOffs_owed (i : Fin 8) (e : HeldEntry) (l) (vel) (h : e.state = .owed vel) :
    owedNoteOffs i (e :: l) = destOffs i vel e.dests ++ owedNoteOffs i l := by
  unfold owedNoteOffs
  rw [List.flatMap_cons, h]
  rfl

theorem destOffs_finished (i : Fin 8) (vel) (l : List NoteDest) (h : l.all (·.delivered) = true) : destOffs i vel l = [] := by
  unfold destOffs
  rw [List.filter_eq_nil_iff.mpr]
  · rfl
  · intro d hd
    rw [List.all_eq_true] at h
    simp [h d hd]

theorem destOffs_mark (i : Fin 8) (vel) (l : List NoteDest) : destOffs i vel (markDests i l) = [] := by
  unfold destOffs markDests
  rw [List.filter_eq_nil_iff.mpr]
  · rfl
  · intro d hd
    rw [List.mem_map] at hd
    obtain ⟨x, -, rfl⟩ := hd
    split <;> simp_all

/-- An entry with a port's note-offs delivered. -/
def markEntry (i : Fin 8) (e : HeldEntry) : HeldEntry :=
  if e.state = .sounding then e else { e with dests := markDests i e.dests }

/-- An entry that stays in the table. -/
def HeldEntry.stays (e : HeldEntry) : Bool := e.state = .sounding || e.dests.any fun d => !d.delivered

theorem finished_stays (e : HeldEntry) (h : e.state ≠ .sounding) : e.stays = !e.finished := by
  unfold HeldEntry.stays HeldEntry.finished
  rw [decide_eq_false h, Bool.false_or, List.not_all_eq_any_not]

/-- The owed note-offs of the table (R88, R89). -/
theorem deliverTable_fills (i : Fin 8) : ∀ (l : List HeldEntry) (v : Voices), v.sendingAt i →
    (deliverTable i l v).2.1 = v.filled i ((owedNoteOffs i l).take (v.roomAt i)) ∧
      (deliverTable i l v).2.2 = decide ((owedNoteOffs i l).length ≤ v.roomAt i) ∧
      owedNoteOffs i (deliverTable i l v).1 = (owedNoteOffs i l).drop (v.roomAt i) ∧
      (∀ j, j ≠ i → owedNoteOffs j (deliverTable i l v).1 = owedNoteOffs j l) ∧
      ((deliverTable i l v).1.filter fun e => e.state = .sounding) = (l.filter fun e => e.state = .sounding) ∧
      ((owedNoteOffs i l).length ≤ v.roomAt i → (deliverTable i l v).1 = (l.map (markEntry i)).filter HeldEntry.stays)
  | [], v, _ => by simp [deliverTable, owedNoteOffs, filled_nil]
  | e :: rest, v, h => by
    unfold deliverTable
    cases hs : e.state with
    | sounding =>
      dsimp only
      obtain ⟨a1, a2, a3, a4, a5, a6⟩ := deliverTable_fills i rest v h
      have ho : ∀ j r, owedNoteOffs j (e :: r) = owedNoteOffs j r := fun j r => owedNoteOffs_sounding j e r hs
      refine ⟨by rw [ho]; exact a1, by rw [ho]; exact a2, by rw [ho, ho]; exact a3, fun j hj => by rw [ho, ho]; exact a4 j hj,
        ?_, fun hl => ?_⟩
      · rw [List.filter_cons_of_pos (by simp [hs]), List.filter_cons_of_pos (by simp [hs]), a5]
      · rw [ho] at hl
        rw [a6 hl, List.map_cons]
        have : markEntry i e = e := by unfold markEntry; rw [if_pos hs]
        rw [this, List.filter_cons_of_pos (by unfold HeldEntry.stays; simp [hs])]
    | owed vel =>
      dsimp only
      obtain ⟨b1, b2, b3, b4, b5⟩ := deliverDests_fills i vel e.dests v h
      have ho : ∀ j r, owedNoteOffs j (e :: r) = destOffs j vel e.dests ++ owedNoteOffs j r := fun j r => owedNoteOffs_owed j e r vel hs
      have hns : e.state ≠ .sounding := by rw [hs]; simp
      by_cases hon : (destOffs i vel e.dests).length ≤ v.roomAt i
      · rw [b2, if_pos (decide_eq_true hon), b1, List.take_of_length_le hon]
        obtain ⟨a1, a2, a3, a4, a5, a6⟩ := deliverTable_fills i rest (v.filled i (destOffs i vel e.dests)) (filled_sending h _)
        rw [roomAt_filled] at a1 a2 a3 a6
        let e1 : HeldEntry := { e with state := .owed vel, dests := (deliverDests i vel e.dests v).1 }
        have hm : e1 = markEntry i e := by
          unfold markEntry; rw [if_neg hns]
          show ({ e with state := .owed vel, dests := _ } : HeldEntry) = _
          rw [b5 hon, ← hs]
        have hcut : ∀ (j : Fin 8) r, owedNoteOffs j (if e1.finished then r else e1 :: r) = destOffs j vel e1.dests ++ owedNoteOffs j r := by
          intro j r
          split
          · rename_i hf; rw [destOffs_finished j vel _ hf]; rfl
          · exact owedNoteOffs_owed j e1 r vel rfl
        refine ⟨?_, ?_, ?_, fun j hj => ?_, ?_, fun hl => ?_⟩
        · rw [a1, filled_filled, ho, List.take_append, List.take_of_length_le hon]
        · rw [a2, ho, List.length_append]
          congr 1
          exact propext (by omega)
        · dsimp only
          show owedNoteOffs i (if e1.finished then _ else e1 :: _) = _
          rw [hcut, a3, ho, List.drop_append, List.drop_of_length_le hon]
          have : destOffs i vel e1.dests = [] := by
            show destOffs i vel (deliverDests i vel e.dests v).1 = []
            rw [b5 hon, destOffs_mark]
          rw [this]
        · dsimp only
          show owedNoteOffs j (if e1.finished then _ else e1 :: _) = _
          rw [hcut, a4 j hj, ho]
          congr 1
          exact b4 j vel hj
        · dsimp only
          show List.filter _ (if e1.finished then _ else e1 :: _) = _
          rw [List.filter_cons_of_neg (by simp [hs]), ← a5]
          split
          · rfl
          · rw [List.filter_cons_of_neg (by show ¬ decide (e1.state = .sounding) = true; simp [e1])]
        · rw [ho, List.length_append] at hl
          dsimp only
          show (if e1.finished then _ else e1 :: _) = _
          rw [a6 (by omega), List.map_cons, ← hm]
          have hst : e1.stays = !e1.finished := finished_stays e1 (by simp [e1])
          cases hf : e1.finished with
          | true => rw [if_pos rfl, List.filter_cons_of_neg (by rw [hst, hf]; decide)]
          | false => rw [if_neg (by decide), List.filter_cons_of_pos (by rw [hst, hf]; rfl)]
      · rw [b2, if_neg (by rw [decide_eq_false hon]; decide), b1]
        have hle : ∀ l : List Message, (destOffs i vel e.dests ++ l).length ≤ v.roomAt i → False := by
          intro l hl; rw [List.length_append] at hl; omega
        refine ⟨?_, ?_, ?_, fun j hj => ?_, ?_, fun hl => ?_⟩
        · rw [ho, List.take_append_of_le_length (by omega)]
        · rw [ho]; exact (decide_eq_false (hle _)).symm
        · rw [ho, List.drop_append_of_le_length (by omega), ← b3 vel]
          exact owedNoteOffs_owed i { e with state := .owed vel, dests := (deliverDests i vel e.dests v).1 } rest vel rfl
        · rw [ho, ← b4 j vel hj]
          exact owedNoteOffs_owed j { e with state := .owed vel, dests := (deliverDests i vel e.dests v).1 } rest vel rfl
        · rw [List.filter_cons_of_neg (by simp), List.filter_cons_of_neg (by simp [hs])]
        · rw [ho] at hl; exact absurd hl (hle _)

/-- The owed sustain-ups of a port (R89). -/
theorem deliverUps_fills (i : Fin 8) : ∀ (l : List UpOwed) (fan : Vector (List FanEntry) 4) (v : Voices), v.sendingAt i →
    (deliverUps i l fan v).2.2 = v.filled i ((l.map fun u => sustainUpMessage u.dest).take (v.roomAt i)) ∧
      (deliverUps i l fan v).1 = l.drop (v.roomAt i) ∧
      ∀ k : Fin 4, (deliverUps i l fan v).2.1[k] = (fan[k]).filter fun f =>
        !(l.take (v.roomAt i)).any fun u => u.player = k && u.dest = f.dest
  | [], fan, v, _ => by simp [deliverUps, filled_nil]
  | u :: rest, fan, v, h => by
    unfold deliverUps
    by_cases hq : (v.ports[i]).queue.length < 64
    · have ho := offer_sending h (sustainUpMessage u.dest)
      rw [if_pos hq] at ho
      simp only [ho, if_true]
      obtain ⟨a1, a2, a3⟩ := deliverUps_fills i rest (fan.set u.player (fanRemove fan[u.player] u.dest))
        (v.filled i [sustainUpMessage u.dest]) (filled_sending h _)
      have hr : v.roomAt i = (v.filled i [sustainUpMessage u.dest]).roomAt i + 1 := by
        rw [roomAt_filled]; unfold Voices.roomAt; simp only [List.length_cons, List.length_nil]; omega
      refine ⟨?_, ?_, fun k => ?_⟩
      · rw [a1, filled_filled, hr, List.map_cons, List.take_succ_cons]; rfl
      · rw [a2, hr, List.drop_succ_cons]
      · rw [a3 k, hr, List.take_succ_cons]
        by_cases hk : u.player = k
        · subst hk
          have : (fan.set u.player (fanRemove fan[u.player] u.dest))[u.player] = fanRemove fan[u.player] u.dest := by simp
          rw [this]
          unfold fanRemove
          rw [List.filter_filter]
          refine List.filter_congr fun f _ => ?_
          rw [List.any_cons, Bool.not_or, Bool.and_comm]
          congr 1
          simp only [decide_true, Bool.true_and]
          by_cases hd : u.dest = f.dest
          · simp [hd]
          · have : ¬ f.dest = u.dest := fun h => hd h.symm
            simp [hd, this]
        · have hne : ¬ u.player.val = k.val := fun h => hk (Fin.ext h)
          have : (fan.set u.player (fanRemove fan[u.player] u.dest))[k] = fan[k] := by simp [hne]
          rw [this]
          refine List.filter_congr fun f _ => ?_
          rw [List.any_cons]
          simp [hk]
    · have ho := offer_sending h (sustainUpMessage u.dest)
      rw [if_neg hq] at ho
      have h0 : v.roomAt i = 0 := by unfold Voices.roomAt; omega
      simp only [ho, Bool.false_eq_true, if_false, h0]
      refine ⟨by rw [List.take_zero, filled_nil], rfl, fun k => ?_⟩
      simp

/-- What a freed entry brings a port of the messages it is owed (R88, R89). -/
theorem deliverOwed_served (p : Part) (i : Fin 8) (h : p.voices.sendingAt i) :
    p.served (p.deliverOwed i) i p.voices.ports[i] := by
  obtain ⟨a1, a2, a3, a4, a5, a6⟩ := deliverTable_fills i p.tracker.table p.voices h
  have hcut : ∀ n, p.voices.roomAt i - n = 64 - (p.voices.ports[i]).queue.length - n := fun _ => rfl
  unfold Part.deliverOwed
  dsimp only
  by_cases hon : (owedNoteOffs i p.tracker.table).length ≤ p.voices.roomAt i
  · obtain ⟨b1, b2, b3⟩ := deliverUps_fills i p.tracker.upOwed[i] p.tracker.fan
      (p.voices.filled i (owedNoteOffs i p.tracker.table)) (filled_sending h _)
    rw [a2, if_pos (decide_eq_true hon), a1, List.take_of_length_le hon]
    rw [roomAt_filled] at b1 b2 b3
    refine ⟨?_, fun k => b3 k, a3, a4, a5, fun _ => a6 hon⟩
    rw [b1, b2, filled_filled]
    have : owedNoteOffs i p.tracker.table ++ ((p.tracker.upOwed[i]).map fun u => sustainUpMessage u.dest).take
        (p.voices.roomAt i - (owedNoteOffs i p.tracker.table).length) =
        (owedNoteOffs i p.tracker.table ++ (p.tracker.upOwed[i]).map fun u => sustainUpMessage u.dest).take (p.voices.roomAt i) := by
      rw [List.take_append, List.take_of_length_le hon]
    rw [this]
    rfl
  · rw [a2, if_neg (by rw [decide_eq_false hon]; decide), a1]
    have h0 : 64 - (p.voices.ports[i]).queue.length - (owedNoteOffs i p.tracker.table).length = 0 := by
      unfold Voices.roomAt at hon; omega
    refine ⟨?_, fun k => ?_, a3, a4, a5, fun hl => absurd hl hon⟩
    · rw [h0, List.drop_zero]
      have hset : p.tracker.upOwed.set i p.tracker.upOwed[i] = p.tracker.upOwed := by
        apply Vector.ext; intro j hj
        simp only [Vector.getElem_set]
        split
        · rename_i h; subst h; rfl
        · rfl
      rw [hset, List.take_append_of_le_length (show 64 - _ ≤ _ by unfold Voices.roomAt at hon; omega)]
      rfl
    · rw [h0]; simp

end Sys2Proof.Machine
end

