-- ==== Sys2Proof/Laws/Release.lean ====
section
/-! SUPPORT. Releases, pedal-ups and all-notes-off with room at the ports and with every port full (6.2, 6.3, 6.5, 6.7). -/

namespace Sys2Proof.Machine

/-- No entry selected: nothing released. -/
theorem releaseWhere_none (sel : HeldEntry → Bool) (vel) : ∀ (l : List HeldEntry) (v : Voices), (∀ e ∈ l, (e.sounding && sel e) = false) → releaseWhere sel vel l v = (l, v, 0)
  | [], v, _ => rfl
  | e :: rest, v, h => by
    unfold releaseWhere
    rw [if_neg (by rw [h e (by simp)]; decide), releaseWhere_none sel vel rest v (fun x hx => h x (by simp [hx]))]

/-- One entry selected: it alone is released. -/
theorem releaseWhere_one (sel : HeldEntry → Bool) (vel) : ∀ (a : List HeldEntry) (e : HeldEntry) (b : List HeldEntry) (v : Voices), (∀ x ∈ a ++ b, (x.sounding && sel x) = false) → (e.sounding && sel e) = true →
   releaseWhere sel vel (a ++ e :: b) v = (a ++ (if (e.release vel v).1.finished then b else (e.release vel v).1 :: b), (e.release vel v).2, 1)
  | [], e, b, v, h, he => by
    rw [List.nil_append]
    unfold releaseWhere
    rw [if_pos he]
    dsimp only
    rw [releaseWhere_none sel vel b _ (fun x hx => h x (by simp [hx]))]
    rfl
  | x :: a, e, b, v, h, he => by
    rw [List.cons_append]
    unfold releaseWhere
    rw [if_neg (by rw [h x (by simp)]; decide), releaseWhere_one sel vel a e b v (fun y hy => h y (by simp at hy ⊢; tauto)) he]
    rfl

/-- An entry released with room is finished, and its note-offs are received (R87). -/
theorem release_roomy (e : HeldEntry) (vel) (v : Voices) (h : v.roomFor e.dests.length) :
    (e.release vel v).1.finished = true ∧ (e.release vel v).1.undelivered = 0 ∧
    v.received (e.release vel v).2 (e.dests.map fun d => (d.dest.voice, noteOffMessage d.dest.channel d.key vel)) := by
  have hd := releaseDests_received vel e.dests v h
  refine ⟨?_, ?_, hd.2⟩
  · unfold HeldEntry.release HeldEntry.finished; dsimp only; rw [hd.1]; simp
  · unfold HeldEntry.release HeldEntry.undelivered; dsimp only; rw [hd.1]; simp

theorem stealForRoom_none : ∀ (l : List HeldEntry) (v : Voices), (∀ e ∈ l, e.state ≠ .sounding) → stealForRoom l v = (l, v, [])
  | [], v, _ => rfl
  | e :: rest, v, h => by
    unfold stealForRoom
    rw [if_neg (by rw [HeldEntry.sounding_iff]; exact h e (by simp)), stealForRoom_none rest v (fun x hx => h x (by simp [hx]))]

/-- With room the oldest Sounding entry leaves the table (R85). -/
theorem stealForRoom_one : ∀ (a : List HeldEntry) (e : HeldEntry) (b : List HeldEntry) (v : Voices), (∀ x ∈ a, x.state ≠ .sounding) → e.state = .sounding → v.roomFor e.dests.length →
   stealForRoom (a ++ e :: b) v = (a ++ b, (e.release 64 v).2, [JournalEvent.noteStolen e.player e.key 0])
  | [], e, b, v, h, he, hr => by
    rw [List.nil_append]
    unfold stealForRoom
    rw [if_pos (by rw [HeldEntry.sounding_iff]; exact he)]
    have := release_roomy e 64 v hr
    dsimp only
    rw [this.1, this.2.1, if_pos rfl]; rfl
  | x :: a, e, b, v, h, he, hr => by
    rw [List.cons_append]
    unfold stealForRoom
    rw [if_neg (by rw [HeldEntry.sounding_iff]; exact h x (by simp)), stealForRoom_one a e b v (fun y hy => h y (by simp [hy])) he hr]
    rfl

/-- With no port above the reserve no note-on is admitted (R86). -/
theorem offerNotes_full : ∀ (l : List RoutedNote) (v : Voices), (∀ n ∈ l, (v.ports[n.dest.voice]).enabled = true ∧ 64 ≤ (v.ports[n.dest.voice]).queue.length + v.reserve) → offerNotes l v = ([], v, l.length)
  | [], v, _ => rfl
  | n :: rest, v, h => by
    unfold offerNotes
    have hd := h n (by simp)
    have : v.offer .opening n.dest.voice (noteOnMessage n.dest.channel n.key n.velocity) = (false, v) := by
      unfold Voices.offer Voices.admits
      rw [if_neg]
      rw [hd.1]
      show ¬ (decide (v.reserve < (v.ports[n.dest.voice]).free) = true)
      unfold VoicePort.free
      have : Config.queueSize = 64 := rfl
      simp only [decide_eq_true_eq]; omega
    rw [this]
    dsimp only
    rw [offerNotes_full rest v (fun x hx => h x (by simp [hx]))]
    rfl

/-- A note entered with room (R86). -/
theorem enterNote_roomy (p : Part) (i key notes) (h : p.voices.roomFor (p.voices.reserve + notes.length)) :
    ∃ v, p.voices.received v (notes.map fun n => (n.dest.voice, noteOnMessage n.dest.channel n.key n.velocity)) ∧
     p.enterNote i key notes = { p with voices := v, tracker := { p.tracker with table := p.tracker.table ++ if notes = [] then [] else [{ player := i, key := key, state := .sounding, dests := notes.map fun n => { dest := n.dest, key := n.key, delivered := false } }] } } := by
  have hd := offerNotes_received notes p.voices h
  refine ⟨_, hd.2.2, ?_⟩
  unfold Part.enterNote
  dsimp only
  rw [hd.2.1, if_pos rfl, hd.1]
  cases notes with
  | nil => simp
  | cons a b => simp

theorem roomFor_less {v : Voices} {n m : Nat} (h : v.roomFor n) (hm : m ≤ n) : v.roomFor m := fun i hi => by
  have := h i hi; omega

/-- The entries of a table that are Owed. -/
abbrev notSoundingOf (l : List HeldEntry) : List HeldEntry := l.filter fun e => e.state != .sounding

/-- The Sounding entries of a table. -/
abbrev soundingOf (l : List HeldEntry) : List HeldEntry := l.filter fun e => e.state == .sounding

/-- The note-offs of an entry, with velocity 64. -/
abbrev noteOffsOf (e : HeldEntry) : List (Fin 8 × Message) := e.dests.map fun d => (d.dest.voice, noteOffMessage d.dest.channel d.key 64)

/-- Every Sounding entry released with room (R87, R96). -/
theorem releaseAll_roomy : ∀ (l : List HeldEntry) (v : Voices), v.roomFor ((soundingOf l).flatMap noteOffsOf).length →
    ∃ w n, releaseWhere (fun _ => true) 64 l v = (notSoundingOf l, w, n) ∧ v.received w ((soundingOf l).flatMap noteOffsOf)
  | [], v, _ => ⟨v, 0, rfl, received_nil v⟩
  | e :: rest, v, h => by
    unfold releaseWhere
    by_cases hs : e.state = .sounding
    · have h0 : soundingOf (e :: rest) = e :: soundingOf rest := by simp [soundingOf, hs]
      have h0' : notSoundingOf (e :: rest) = notSoundingOf rest := by simp [notSoundingOf, hs]
      rw [h0, List.flatMap_cons, List.length_append] at h
      have hr := release_roomy e 64 v (roomFor_less h (by simp [noteOffsOf]))
      obtain ⟨w, n, h1, h2⟩ := releaseAll_roomy rest (e.release 64 v).2 (roomFor_received hr.2.2 (by simpa using h))
      rw [if_pos (by simp [HeldEntry.sounding, hs]), h0, h0']
      dsimp only
      rw [h1, hr.1, if_pos rfl]
      exact ⟨_, _, rfl, by rw [List.flatMap_cons]; exact received_append hr.2.2 h2⟩
    · have h0 : soundingOf (e :: rest) = soundingOf rest := by simp [soundingOf, hs]
      have h0' : notSoundingOf (e :: rest) = e :: notSoundingOf rest := by simp [notSoundingOf, hs]
      rw [h0] at h
      obtain ⟨w, n, h1, h2⟩ := releaseAll_roomy rest v h
      rw [if_neg (by simp [HeldEntry.sounding, hs]), h0, h0', h1]
      exact ⟨_, _, rfl, h2⟩

/-- The Held destinations of a fan-out set. -/
abbrev heldOf (l : List FanEntry) : List FanEntry := l.filter fun f => !f.upOwed

/-- A pedal-up with room (R93). -/
theorem raiseSet_roomy : ∀ (l : List FanEntry) (v : Voices), v.roomFor (heldOf l).length →
    ∃ w, raiseSet l v = (l.filter (fun f => f.upOwed), w, []) ∧ v.received w ((heldOf l).map fun f => (f.dest.voice, sustainUpMessage f.dest))
  | [], v, _ => ⟨v, rfl, received_nil v⟩
  | f :: rest, v, h => by
    unfold raiseSet
    cases hu : f.upOwed with
    | true =>
      have h0 : heldOf (f :: rest) = heldOf rest := by simp [heldOf, hu]
      rw [h0] at h
      obtain ⟨w, h1, h2⟩ := raiseSet_roomy rest v h
      rw [if_pos rfl, h0, h1]
      exact ⟨_, by simp [hu], h2⟩
    | false =>
      have h0 : heldOf (f :: rest) = f :: heldOf rest := by simp [heldOf, hu]
      rw [h0, List.length_cons] at h
      rw [if_neg (by decide), h0, offer_releasing h]
      dsimp only
      obtain ⟨w, h1, h2⟩ := raiseSet_roomy rest (v.accept f.dest.voice (sustainUpMessage f.dest)) (by simpa using roomFor_admit (k := 0) (by simpa using h) f.dest.voice (sustainUpMessage f.dest))
      rw [h1, if_pos rfl]
      exact ⟨_, by simp [hu], received_cons rfl h2⟩

/-- The sustain-ups of a player port. -/
abbrev upsOf (t : Tracker) (i : Fin 4) : List (Fin 8 × Message) := (heldOf t.fan[i]).map fun f => (f.dest.voice, sustainUpMessage f.dest)

/-- Pedal-ups of several player ports with room (R93, R96). -/
theorem raiseAll_roomy : ∀ (L : List (Fin 4)) (p : Part), L.Nodup → p.voices.roomFor (L.flatMap (upsOf p.tracker)).length →
    ∃ pl fan v, L.foldl (fun p i => (p.setPedal i .up).pedalUp i) p = { p with players := pl, voices := v, tracker := { p.tracker with fan := fan } } ∧
      p.voices.received v (L.flatMap (upsOf p.tracker)) ∧ ∀ i : Fin 4, fan[i] = if i ∈ L then (p.tracker.fan[i]).filter (fun f => f.upOwed) else p.tracker.fan[i]
  | [], p, _, _ => ⟨p.players, p.tracker.fan, p.voices, rfl, received_nil _, fun i => by simp⟩
  | i :: L, p, hn, h => by
    rw [List.nodup_cons] at hn
    rw [List.flatMap_cons, List.length_append] at h
    obtain ⟨w, h1, h2⟩ := raiseSet_roomy p.tracker.fan[i] p.voices (roomFor_less h (by simp [upsOf]))
    have e1 : (p.setPedal i .up).pedalUp i = { (p.setPedal i .up) with voices := w, tracker := { p.tracker with fan := p.tracker.fan.set i ((p.tracker.fan[i]).filter fun f => f.upOwed) } } := by
      unfold Part.pedalUp
      rw [show (p.setPedal i .up).tracker = p.tracker from rfl, show (p.setPedal i .up).voices = p.voices from rfl, h1]; rfl
    have hset : ∀ j : Fin 4, (p.tracker.fan.set i ((p.tracker.fan[i]).filter fun f => f.upOwed))[j] = if i = j then (p.tracker.fan[i]).filter (fun f => f.upOwed) else p.tracker.fan[j] := by
      intro j
      simp [Vector.getElem_set, Fin.ext_iff]
    have hups : ∀ j ∈ L, upsOf { p.tracker with fan := p.tracker.fan.set i ((p.tracker.fan[i]).filter fun f => f.upOwed) } j = upsOf p.tracker j := by
      intro j hj
      unfold upsOf
      dsimp only
      rw [hset j, if_neg (fun (hh : i = j) => hn.1 (hh ▸ hj))]
    have hfm : L.flatMap (upsOf { p.tracker with fan := p.tracker.fan.set i ((p.tracker.fan[i]).filter fun f => f.upOwed) }) = L.flatMap (upsOf p.tracker) := by
      rw [List.flatMap_def, List.flatMap_def, List.map_congr_left hups]
    obtain ⟨pl, fan, v, g1, g2, g3⟩ := raiseAll_roomy L { (p.setPedal i .up) with voices := w, tracker := { p.tracker with fan := p.tracker.fan.set i ((p.tracker.fan[i]).filter fun f => f.upOwed) } } hn.2
      (by dsimp only; rw [hfm]; exact roomFor_received h2 h)
    refine ⟨pl, fan, v, ?_, ?_, fun j => ?_⟩
    · rw [List.foldl_cons, e1, g1]; rfl
    · rw [List.flatMap_cons]; dsimp only at g2; rw [hfm] at g2; exact received_append h2 g2
    · rw [g3 j]; dsimp only; rw [hset j]
      by_cases hj : i = j
      · subst hj; rw [if_neg hn.1, if_pos rfl, if_pos (by simp)]
      · rw [if_neg hj]
        by_cases hl : j ∈ L
        · rw [if_pos hl, if_pos (by simp [hl])]
        · rw [if_neg hl, if_neg (by simp [hl]; exact fun hh => hj hh.symm)]

/-- All-notes-off with room (R97). -/
theorem allNotesOff_roomy : ∀ (l : List Dest) (p : Part), p.voices.roomFor l.length →
    ∃ v, p.offerAllNotesOff l = { p with voices := v } ∧ p.voices.received v (l.map fun d => (d.voice, controllerMessage d.channel 123 0))
  | [], p, _ => ⟨p.voices, rfl, received_nil _⟩
  | d :: rest, p, h => by
    rw [List.length_cons] at h
    unfold Part.offerAllNotesOff
    rw [offer_releasing h]
    dsimp only
    obtain ⟨v, h1, h2⟩ := allNotesOff_roomy rest { p with voices := p.voices.accept d.voice (controllerMessage d.channel 123 0) } (by simpa using roomFor_admit (k := 0) (by simpa using h) d.voice (controllerMessage d.channel 123 0))
    rw [if_pos rfl, h1]
    exact ⟨v, rfl, received_cons rfl h2⟩

/-- Every port enabled, with no free entry. -/
abbrev Voices.allFull (v : Voices) : Prop := ∀ i : Fin 8, (v.ports[i]).enabled = true ∧ 64 ≤ (v.ports[i]).queue.length

theorem offer_full {v : Voices} (h : Voices.allFull v) (i : Fin 8) (m) : v.offer .releasing i m = (false, v) := by
  unfold Voices.offer Voices.admits
  rw [if_neg]
  rw [(h i).1]
  show ¬ (decide (1 ≤ (v.ports[i]).free) = true)
  have := (h i).2
  unfold VoicePort.free
  have : Config.queueSize = 64 := rfl
  simp only [decide_eq_true_eq]; omega

theorem releaseDests_full {v : Voices} (h : Voices.allFull v) (vel) : ∀ (l : List NoteDest), (∀ d ∈ l, d.delivered = false) → releaseDests vel l v = (l, v)
  | [], _ => rfl
  | d :: rest, hd => by
    unfold releaseDests
    rw [offer_full h]
    dsimp only
    rw [releaseDests_full h vel rest (fun x hx => hd x (by simp [hx]))]
    have := hd d (by simp)
    cases d; dsimp only at this ⊢; rw [this]; rfl

/-- Every Sounding entry released with no free entry (R87). -/
theorem releaseAll_full {v : Voices} (h : Voices.allFull v) : ∀ (l : List HeldEntry), (∀ e ∈ soundingOf l, e.dests ≠ [] ∧ ∀ d ∈ e.dests, d.delivered = false) →
   ∃ n, releaseWhere (fun _ => true) 64 l v = (l.map (fun e => if e.state = .sounding then { e with state := .owed 64 } else e), v, n)
  | [], _ => ⟨0, rfl⟩
  | e :: rest, hl => by
    obtain ⟨n, ih⟩ := releaseAll_full h rest (fun x hx => hl x (by
      simp only [soundingOf, List.mem_filter] at hx ⊢; exact ⟨by simp [hx.1], hx.2⟩))
    unfold releaseWhere
    by_cases hs : e.state = .sounding
    · have he := hl e (by simp [soundingOf, hs])
      have hr2 : e.release 64 v = ({ e with state := .owed 64 }, v) := by
        unfold HeldEntry.release; rw [releaseDests_full h _ _ he.2]
      have hfin : (HeldEntry.finished { e with state := .owed 64 }) = false := by
        unfold HeldEntry.finished
        obtain ⟨d, l, hl⟩ := List.exists_cons_of_ne_nil he.1
        dsimp only; rw [hl, List.all_cons, he.2 d (by rw [hl]; simp)]; rfl
      rw [if_pos (by simp [HeldEntry.sounding, hs]), hr2]
      dsimp only
      rw [ih, hfin, if_neg (by decide)]
      exact ⟨_, by rw [List.map_cons, if_pos hs]⟩
    · rw [if_neg (by simp [HeldEntry.sounding, hs]), ih]
      exact ⟨_, by rw [List.map_cons, if_neg hs]⟩

theorem raiseSet_full {v : Voices} (h : Voices.allFull v) : ∀ (l : List FanEntry), raiseSet l v = (l.map (fun f => { f with upOwed := true }), v, (heldOf l).map (·.dest))
  | [] => rfl
  | f :: rest => by
    unfold raiseSet
    cases hu : f.upOwed with
    | true => rw [if_pos rfl, raiseSet_full h rest]; simp [heldOf, hu]; cases f; simp_all
    | false => rw [if_neg (by decide), offer_full h]; dsimp only; rw [raiseSet_full h rest]; simp [heldOf, hu]

/-- Destinations joining a port's up-owed order (R91). -/
theorem joinUpOwed_order (i : Fin 4) (v : Fin 8) : ∀ (l : List Dest) (o : Vector (List UpOwed) 8), (l.foldl (joinUpOwed i) o)[v] = o[v] ++ (l.filter fun d => d.voice = v).map fun d => { player := i, dest := d }
  | [], o => by simp
  | d :: rest, o => by
    rw [List.foldl_cons, joinUpOwed_order i v rest]
    unfold joinUpOwed
    by_cases hd : d.voice = v
    · subst hd; simp
    · have : (d.voice : Nat) ≠ v := fun hh => hd (Fin.ext hh)
      simp [hd, Vector.getElem_set, this]

/-- Pedal-ups of several player ports with no free entry (R93). -/
theorem raiseAll_full : ∀ (L : List (Fin 4)) (p : Part), L.Nodup → Voices.allFull p.voices →
    ∃ pl fan uo, L.foldl (fun p i => (p.setPedal i .up).pedalUp i) p = { p with players := pl, tracker := { p.tracker with fan := fan, upOwed := uo } } ∧
      (∀ i : Fin 4, fan[i] = if i ∈ L then (p.tracker.fan[i]).map (fun f => { f with upOwed := true }) else p.tracker.fan[i]) ∧
      ∀ v : Fin 8, uo[v] = p.tracker.upOwed[v] ++ L.flatMap fun i => ((heldOf p.tracker.fan[i]).filter fun f => f.dest.voice = v).map fun f => { player := i, dest := f.dest }
  | [], p, _, _ => ⟨p.players, p.tracker.fan, p.tracker.upOwed, rfl, fun i => by simp, fun v => by simp⟩
  | i :: L, p, hn, h => by
    rw [List.nodup_cons] at hn
    have e1 : (p.setPedal i .up).pedalUp i = { (p.setPedal i .up) with tracker := { p.tracker with fan := p.tracker.fan.set i ((p.tracker.fan[i]).map fun f => { f with upOwed := true }), upOwed := ((heldOf p.tracker.fan[i]).map (·.dest)).foldl (joinUpOwed i) p.tracker.upOwed } } := by
      unfold Part.pedalUp
      rw [show (p.setPedal i .up).tracker = p.tracker from rfl, show (p.setPedal i .up).voices = p.voices from rfl, raiseSet_full h]; rfl
    have hset : ∀ j : Fin 4, (p.tracker.fan.set i ((p.tracker.fan[i]).map fun f => { f with upOwed := true }))[j] = if i = j then (p.tracker.fan[i]).map (fun f => { f with upOwed := true }) else p.tracker.fan[j] := by
      intro j
      simp [Vector.getElem_set, Fin.ext_iff]
    obtain ⟨pl, fan, uo, g1, g2, g3⟩ := raiseAll_full L { (p.setPedal i .up) with tracker := { p.tracker with fan := p.tracker.fan.set i ((p.tracker.fan[i]).map fun f => { f with upOwed := true }), upOwed := ((heldOf p.tracker.fan[i]).map (·.dest)).foldl (joinUpOwed i) p.tracker.upOwed } } hn.2 h
    refine ⟨pl, fan, uo, ?_, fun j => ?_, fun v => ?_⟩
    · rw [List.foldl_cons, e1, g1]; rfl
    · rw [g2 j]; dsimp only; rw [hset j]
      by_cases hj : i = j
      · subst hj; rw [if_neg hn.1, if_pos rfl, if_pos (by simp)]
      · rw [if_neg hj]
        by_cases hl : j ∈ L
        · rw [if_pos hl, if_pos (by simp [hl])]
        · rw [if_neg hl, if_neg (by simp [hl]; exact fun hh => hj hh.symm)]
    · rw [g3 v]; dsimp only
      rw [joinUpOwed_order, List.flatMap_cons, List.append_assoc]
      congr 1
      rw [List.filter_map, List.map_map]
      congr 1
      rw [List.flatMap_def, List.flatMap_def]
      congr 1
      apply List.map_congr_left
      intro j hj
      rw [hset j, if_neg (fun (hh : i = j) => hn.1 (hh ▸ hj))]

/-- All-notes-off with no free entry (R97, R98). -/
theorem allNotesOff_full : ∀ (l : List Dest) (p : Part), Voices.allFull p.voices →
    p.offerAllNotesOff l = { p with notice := l.foldl (fun n d => n.handOver { event := .controlDropped d 123, stamp := p.stamp }) p.notice }
  | [], p, _ => rfl
  | d :: rest, p, h => by
    unfold Part.offerAllNotesOff
    rw [offer_full h]
    dsimp only
    rw [if_neg (by decide), allNotesOff_full rest (({ p with voices := p.voices } : Part).journal (.controlDropped d 123)) h]
    rfl

end Sys2Proof.Machine
end

