-- ==== Sys2Proof/Tests/Slice0.lean ====
section
/-! SUPPORT. Tests: ill-formed commands refused, one step of every command on a small state, and a witness for the
hypotheses of every statement. Expected values come from the rules named with each test. -/

namespace Sys2Proof.Tests

open Sys2Proof.Machine

/-! ### Helpers -/

/-- The part after one command, or the part before it where there is no next state. -/
def after (c : Instr) (s : State) : Part :=
  match exec c s with
  | .next t => t.part
  | _ => s.part

/-- A state around a part, with nothing waiting. -/
def sys (p : Part) : State := { State.reset with part := p }

/-- A part just become Running: the cue board at 0x400, the journal of 64 entries at 0x1000. -/
def running : Part :=
  { Part.reset with
    engine := .running
    layout := { cueBoard := 0x400, songIndex := 0x800, sceneIndex := 0xA00 }
    notice := { Notice.reset with config := some { base := 0x1000, size := 64, threshold := 1 } } }

/-- A section of 2 bars of 4 beats, from 120.00 to 60.00 beats a minute, without a scene. -/
def ramped : SongSection :=
  { bars := 2, beats := 4, subdivision := 1, startTempo := 12000, endTempo := 6000, scene := none }

def song1 : Song :=
  { number := 1, countIn := 1, loopLast := false
    clickSound := { downbeat := 0, beat := 0, sub := 0, countIn := 0 }, sections := [ramped, ramped] }

/-- A layer from player port 0 to voice port 0, an octave up, that passes everything. -/
def octave : Layer :=
  { sources := 1, testA := { subject := .key, compare := .any, value := 0 }
    testB := { subject := .velocity, compare := .any, value := 0 }, combine := .and
    dest := { voice := 0, channel := 0 }, transpose := 12, gain := 64, offset := 0, passList := [1]
    passBend := true, passPressure := true, passSustain := true }

def scene3 : Scene := { number := 3, layers := [octave], setup := [{ voice := 0, message := [0xC0, 5] }] }

/-- A voice port enabled with clock out. -/
def openPort : VoicePort := { VoicePort.reset with enabled := true, clockOut := true }

/-- Running with a scene active, every player port and every voice port enabled. -/
def staged : Part :=
  { running with
    players := Vector.replicate 4 { PlayerPort.reset with enabled := true }
    voices := { Voices.reset with ports := Vector.replicate 8 openPort }
    loader := { Loader.reset with activeSong := some song1, activeScene := some scene3 } }

/-- Playing the first section's first bar. -/
def playing : Part :=
  { staged with
    timeline := { Timeline.reset with clock := .playing }
    pointer := { SongPointer.reset with loaded := true, barsPlayed := 1 } }

/-- A player port that has received a status byte and its first data byte. -/
def waiting (status first : Byte) : PlayerPort :=
  { PlayerPort.reset with enabled := true, running := some status, expected := 2, held := some first }

def withPlayer (p : Part) (q : PlayerPort) : Part := { p with players := p.players.set 0 q }

def withVoice (p : Part) (q : VoicePort) : Part := { p with voices := { p.voices with ports := p.voices.ports.set 0 q } }

def inOrder : FrameOrder := { loader := .beforeClick, cues := some .afterRender, cuesFirst := false }

/-- A directory that passes every check, with a clock source code. -/
def directory (source : Byte) : List Byte :=
  [0x34, 0x32, 0x58, 0x53, 1, 0, 1, source, 8, 50, 8, 0, 32, 0, 0, 0,
    0, 4, 0, 0, 0, 0x10, 0, 0, 0, 8, 0, 0, 0, 10, 0, 0] ++ List.replicate 480 0

/-- The end of Starting's reads, with the click sounds read. -/
def loaded (source : Byte) : Part :=
  { Part.reset with engine := .starting, starting := .loading (parseDirectory .leastFirst (directory source)) }

/-- An armed cue of slot 5, due and ready. -/
def armed (cue : Cue) : ArmedCue :=
  { slot := 5, cue := cue, boundary := .now, notify := true, working := false, due := true, atBoundary := false, wait := .now
    missed := 0, read := none, table := none }

def withArm (p : Part) (a : ArmedCue) : Part :=
  { p with
    cues := { p.cues with arms := [a] }
    watch := { p.watch with owners := p.watch.owners.set 5 (.engine .waiting) } }

/-- A resident entry of the scene at 0x2000. -/
def resident (state : ResidentState) : Resident :=
  { kind := .scene, number := 3, base := 0x2000, length := 64, state := state, refetch := 0 }

def withScene (p : Part) (state : ResidentState) (kind : RegionKind) : Part :=
  { p with watch := { p.watch with
      region := { RegionTable.reset with pages := Vector.replicate 16 kind }
      residents := { ResidentSet.reset with activeScene := some (resident state) } } }

/-- The grant goes to one requester. -/
def turnOf (p : Part) (r : Requester) : Part := { p with arbiter := { p.arbiter with rotation := r } }

/-- The next step completes. -/
def completes (s : State) : Prop := ∃ t, step s = .next t

/-- Playing, with a cue's record ready in the shadow. -/
def switching (a : ArmedCue) (scene : Option Scene) (song : Option Song) : Part :=
  { withArm playing a with
    loader := { playing.loader with
      activeSong := some { song1 with sections := [ramped, { ramped with scene := some 3 }] }
      shadowScene := scene, shadowSong := song, owner := some (.cue 5), ready := true } }

def holding (p : Part) (cause : HeldCause) (countdown : Nat) : Part :=
  { p with loader := { p.loader with held := some { cause := cause, countdown := countdown } } }

/-- Player port 0's pedal Down. -/
def pedalDown (p : Part) : Part := withPlayer p { PlayerPort.reset with enabled := true, pedal := .down }

/-- Running with a resident set, a loader and one kind for every page. -/
def watched (kind : RegionKind) (residents : ResidentSet) (loader : Loader) : Part :=
  { running with
    loader := loader
    watch := { running.watch with
      region := { RegionTable.reset with pages := Vector.replicate 16 kind }, residents := residents } }

/-- The 28 bytes that a take read has read of a cue slot. -/
def cueSlot (kind boundary : Byte) (params : List Byte) : List Byte :=
  [1, 0, 0, 0, kind, boundary, 0, 0] ++ params ++ List.replicate (20 - params.length) 0

/-- The last word of slot 0 to come. -/
def taking (p : Part) (bytes : List Byte) : Part :=
  { p with
    cues := { p.cues with posted := [0], take := some { slot := 0, bytes := bytes } }
    watch := { p.watch with owners := p.watch.owners.set 0 (.engine .posted) } }

/-- The outcome queued for a cue whose last word is taken. -/
def takenAs (p : Part) (bytes : List Byte) : Option CueOutcome :=
  (after .takeReadComplete (sys (taking p bytes))).cues.writes.getLast?.bind fun w => match w.words with
    | .answer outcome _ _ :: _ => some outcome
    | _ => none

/-! ### Ill-formed commands (WellFormed) -/

theorem test_start_needs_run : (Instr.engineStart 0).wellFormed = false := by decide
theorem test_start_is_no_reset : (Instr.engineStart 3).wellFormed = false := by decide
theorem test_stop_needs_run_clear : (Instr.engineStop 1).wellFormed = false := by decide
theorem test_stop_is_no_reset : (Instr.engineStop 2).wellFormed = false := by decide
theorem test_reset_needs_its_bit : (Instr.engineReset 1).wellFormed = false := by decide
theorem test_ignored_register_is_no_mask : (Instr.registerWriteIgnored 4 0).wellFormed = false := by decide
theorem test_unknown_code_is_not_panic : (Instr.unknownCommand 1 0).wellFormed = false := by decide
theorem test_unknown_code_is_not_where : (Instr.unknownCommand 4 0).wellFormed = false := by decide
theorem test_wellformed_boundaries :
    (Instr.registerWriteIgnored 7 0).wellFormed = true ∧ (Instr.unknownCommand 5 0).wellFormed = true ∧
      (Instr.unknownCommand 0 0).wellFormed = true ∧ (Instr.engineReset 3).wellFormed = true := by decide

theorem test_no_word_spells_a_command : decodeTableWord 16 0 = none := rfl
theorem test_fetch_word_changes_nothing : State.reset.withFetchWord 16 5 = State.reset := rfl

/-! ### Registers and engine states (R173 to R180, R185, R188) -/

theorem test_power_on_samples_strap :
    (match exec (.powerOnReset ⟨[], .mostFirst⟩) State.reset with | .next t => some t.order | _ => none) =
      some .mostFirst := by decide

/-- A read made while RESETn is low returns 0, and a write made then is not taken (R173). -/
theorem test_low_accesses_are_not_taken :
    (match exec (.powerOnReset ⟨[.write 0 1, .read 2, .write 5 7], .leastFirst⟩) (sys running) with
      | .next t => some (t.part.engine, t.hostData) | _ => none) = some (.stopped, 0) := by decide

theorem test_engine_reset_stops : (after (.engineReset 3) (sys playing)).engine = .stopped := by decide
theorem test_start_begins : (after (.engineStart 1) State.reset).readRegister 1 = 1 := by decide
theorem test_stop_enters_stopping : (after (.engineStop 0) (sys playing)).readRegister 2 = 3 := by decide
theorem test_start_while_running : (after (.engineStart 1) (sys running)).engine = .running := by decide

/-- A directory of zeros fails the first check (R155): the start error is BadSignature, STATUS reads 4 (R188). -/
theorem test_empty_directory :
    (after .directoryReadComplete (sys (turnOf
      { Part.reset with engine := .starting, starting := .reading (List.replicate 508 0) } .sceneLoader))).readRegister 2 =
      4 := by decide +kernel

/-- 50 ms at 48 kHz is 2,400 frames (R112); RUN reads 1 and the state is Running (R173). -/
theorem test_becomes_running :
    (after .engineBecomesRunning (sys (loaded 0))).readRegister 2 = 2 ∧
      (after .engineBecomesRunning (sys (loaded 0))).loader.holdLimit = 2400 := by decide

/-- External with no external clock falls back and raises ClockFault (R22). -/
theorem test_start_falls_back :
    (after .engineBecomesRunning (sys (loaded 1))).timeline.source = .internal ∧
      (after .engineBecomesRunning (sys (loaded 1))).readRegister 3 = 16 := by decide

theorem test_drain_ends : (after .stoppingDrainEnd (sys { Part.reset with engine := .stopping })).engine = .stopped := by
  decide
theorem test_drain_waits_for_owed :
    (after .stoppingDrainEnd (sys { Part.reset with
      engine := .stopping
      tracker := { Tracker.reset with table := [⟨0, 60, .owed 64, []⟩] } })).engine = .stopping := by decide

theorem test_ident_is_read_only : (after (.registerWriteIgnored 0 0xFFFF) State.reset).readRegister 0 = 0x5C21 := by
  decide
theorem test_status_ones_clear :
    (after (.intStatusWrite 1) (sys { Part.reset with irq := { status := 3, mask := 0 } })).readRegister 3 = 2 := by decide
theorem test_mask_keeps_five_bits : (after (.intMaskWrite 0xFFFF) State.reset).readRegister 4 = 31 := by decide
theorem test_mail_out_read_clears_full :
    (after .mailOutRead (sys { Part.reset with mail := ⟨0, false, 0x3000, true⟩ })).mail.outFull = false := by decide

/-- PANIC while nothing sounds answers 0 released, IRQ cause ReplyReady (R180, R185). -/
theorem test_panic_reply :
    (after (.panic 0) (sys running)).readRegister 6 = 0x1000 ∧ (after (.panic 0) (sys running)).readRegister 3 = 4 := by
  decide
theorem test_halt_parks : (after (.halt 0) (sys playing)).timeline.clock = .parked := by decide
theorem test_tap_is_recorded : (after (.tap 0) (sys running)).timeline.lastTap = some 0 := by decide
theorem test_where_am_i_clamps :
    (after (.whereAmI 0) (sys { running with pointer := { SongPointer.reset with barsPlayed := 3000 } })).readRegister 6 =
      0x47FF := by decide
theorem test_unknown_reply : (after (.unknownCommand 9 0) (sys running)).readRegister 6 = 0x9800 := by decide
theorem test_mail_in_waits :
    (after (.mailInWrite 0x1000) (sys { Part.reset with mail := ⟨0, false, 0, true⟩ })).readRegister 2 = 0x180 := by decide

/-! ### Time (R3, R4, R12, R22, R52, R130) -/

/-- At 120.00 beats a minute and 48 kHz the accumulator rises by 12,000 a frame (R4). -/
theorem test_frame_accumulates : (after (.frameEvent inOrder) (sys playing)).timeline.acc = 12000 := by decide

/-- Beat 1 of 8 from 12,000 to 6,000 has tempo 12,000 + trunc(-6,000 × 1 / 8) = 11,250 (R8). -/
theorem test_beat_ramps :
    (after (.frameEvent inOrder) (sys { playing with
      timeline := { playing.timeline with acc := 287988000 } })).timeline.tempo = 11250 := by decide

theorem test_edge_present : (after (.wordClockEdge inOrder) (sys running)).timeline.monitor = .present := by decide
theorem test_edge_is_frame :
    (after (.wordClockEdge inOrder) (sys { running with
      timeline := { Timeline.reset with source := .external } })).timeline.frame = 1 := by decide
theorem test_fallback :
    (after .clockFallback (sys { running with
      timeline := { Timeline.reset with source := .external, monitor := .present } })).readRegister 3 = 16 := by decide
theorem test_absent :
    (after .externalClockAbsent (sys { running with
      timeline := { Timeline.reset with monitor := .present } })).timeline.monitor = .absent := by decide

/-- Taps 24,000 frames apart at 48 kHz are 120.00 beats a minute (R13). -/
theorem test_tap_measures :
    (after .tapPinRise (sys { running with
      timeline := { Timeline.reset with lastTap := some 0, frame := 24000, tapFollow := true } })).timeline.plan =
      some { base := 12000, target := 12000, ramp := 0, taken := 0, keep := false } := by decide

theorem test_hold_forced :
    (after .holdExpiry (sys { staged with loader := { staged.loader with
      activeScene := none, shadowScene := some scene3, owner := some (.lookahead 3), ready := true
      held := some { cause := .entry 1 3 .sectionEntry none, countdown := 0 } } })).loader.activeScene =
      some scene3 := by decide

/-- With the shadow busy an active record goes Stale (R133). -/
theorem test_settle_deferred :
    (after (.settleEnd .activeScene) (sys { withScene staged (.settling 0) .live with
      loader := { staged.loader with owner := some (.lookahead 3) } })).watch.residents.activeScene =
      some (resident .stale) := by decide

/-! ### Serial ports (R54 to R65, R86, R106) -/

/-- Key 60 through the octave layer is a note-on for key 72 on the wire (R70, R72). -/
theorem test_note_on_is_sent :
    ((after (.byteArrival 0 100) (sys (withPlayer staged (waiting 0x90 60)))).voices.ports[(0 : Fin 8)]).queue =
      [[0x90, 72, 100]] := by decide

/-- A pedal press reaches the layer that passes sustain (R92). -/
theorem test_pedal_down :
    ((after (.byteArrival 0 127) (sys (withPlayer staged (waiting 0xB0 64)))).tracker.fan[(0 : Fin 4)]) =
      [{ dest := { voice := 0, channel := 0 }, upOwed := false }] := by decide

theorem test_framing_error_clears :
    ((after (.framingError 0) (sys (withPlayer staged (waiting 0x90 60)))).players[(0 : Fin 4)]).running = none := by
  decide

/-- The real-time byte goes before the queue's (R106). -/
theorem test_boundary_real_time_first :
    ((after (.byteBoundary 0) (sys (withVoice staged { openPort with
      queue := [[0x90, 60, 1]], slot := [.clock] }))).voices.ports[(0 : Fin 8)]).tx = .sending 0xF8 .slot := by decide

/-- A message sent whole frees its entry (R101, R106). -/
theorem test_boundary_frees_entry :
    ((after (.byteBoundary 0) (sys (withVoice staged { openPort with
      queue := [[0xC0, 5]], tx := .sending 5 .queue, sent := some 1 }))).voices.ports[(0 : Fin 8)]).queue = [] := by decide

/-! ### Shared memory (R134 to R152, R160 to R171) -/

/-- A write into the directory while Running is refused with Guard (R161). -/
theorem test_directory_guarded : (after (.hostWrite 0 5) (sys running)).readRegister 3 = 8 := by decide

/-- Writing 1 to a slot's state byte posts it (R136). -/
theorem test_board_posts : (after (.hostWrite 0x200 1) (sys running)).cues.posted = [0] := by decide

theorem test_host_read_drives_lines :
    (match exec (.hostRead 4) { sys running with mem := { cells := [⟨8, 0x34⟩, ⟨9, 0x12⟩] } } with
      | .next t => some t.hostData
      | _ => none) = some 0x1234 := by decide

theorem test_engine_word_zeroes_head :
    (after .engineWordAccess (sys { running with
      notice := { running.notice with headPending := true } })).notice.headPending = false := by decide

def posted : Part :=
  { running with
    cues := { CueUnit.reset with posted := [0] }
    watch := { Watch.reset with owners := (Vector.replicate 32 SlotOwner.host).set 0 (.engine .posted) } }

theorem test_take_starts : (after .takeReadStart (sys posted)).cues.take = some { slot := 0, bytes := [] } := by decide

/-- A slot of zeros is refused with Blank and goes back to the host (R140, R141). -/
theorem test_blank_cue :
    ((after .takeReadComplete (sys { posted with cues := { posted.cues with
      take := some { slot := 0, bytes := List.replicate 28 0 } } })).watch.owners[(0 : Fin 32)]) = .host := by decide

theorem test_click_fetch_completes :
    ((after .fetchComplete (sys (turnOf { running with loader := { Loader.reset with
      clickFetches := (Vector.replicate 4 none).set 0 (some ⟨.load, 0x3000, 2, 1, 0⟩) } } .sceneLoader))).click.sounds[
        (0 : Fin 4)]).length = 2 := by decide

/-- A table of zeros is valid: every page Open, no window, policy Normal (R157). -/
theorem test_remap_read_ready :
    ((after .remapReadComplete (sys (withArm running { armed (.remap 0x3000) with
      working := true, read := some (List.replicate 60 0) }))).cues.arms.map (·.working)) = [false] := by decide

/-- The state word of a result with notice raises CueNotice (R148, R185). -/
theorem test_result_notice :
    (after .cueResultWritten (sys { running with cues := { CueUnit.reset with
      writes := [⟨5, [.state .done], true, true⟩] } })).readRegister 3 = 2 := by decide

/-- 12.5: ClickSkipped holds its class in byte 1 and its sound in byte 4. -/
theorem test_skipped_click_detail :
    (JournalEvent.clickSkipped .sub 3).detail .leastFirst = { kind := 14, low := [2, 0, 0, 3], high := 0 } := by decide

theorem test_entry_written :
    (after .journalEntryWritten (sys (turnOf { running with notice := { running.notice with
      accepted := [⟨.clockFallback, running.stamp⟩], wordsDone := 4 } } .noticeUnit))).notice.written = 1 := by decide

theorem test_cue_executes :
    (after .cueExecute (sys (withArm running (armed (.tapFollow true))))).timeline.tapFollow = true := by decide

theorem test_switch_made :
    (after .sceneSwitch (sys { staged with loader := { staged.loader with
      activeScene := none, shadowScene := some scene3, owner := some (.lookahead 3), ready := true
      late := some ⟨1, 3, .sectionEntry, true, true, none⟩ } })).loader.activeScene = some scene3 := by decide

/-- A stop with nothing to send, the journal full, is Stopped in the same act (R177). -/
theorem test_stop_ends_at_once :
    (after (.engineStop 0) (sys { running with notice := { running.notice with written := 64 } })).engine = .stopped := by
  decide

/-- A jump that lands in the open beat is a section entry: the late section switch is cancelled (R35, R122). -/
theorem test_jump_landing_cancels_late :
    let p := withArm playing (armed (.sectionJump 1))
    (after .cueExecute (sys { p with loader := { p.loader with
      late := some ⟨0, 9, .sectionEntry, true, false, some 0⟩, owner := some (.refreshSong false) } })).loader.late = none := by
  decide

/-- A Start byte owed to the next pulse stays owed behind a second segue's landing (R20). -/
theorem test_start_byte_stays_owed :
    (Part.swapSegue { playing with timeline := { playing.timeline with beatOpen := false, startByte := .nextPulse } } 0
      ).timeline.startByte.pulsed = .atLanding := by decide

/-! ### Witnesses: states that meet the hypotheses of each statement, clause by clause -/

theorem witness_StepRunsFrontCommand : State.reset.pending = [] := rfl

theorem witness_EveryCommandCompletes :
    (∀ interval, Instr.panic 0 ≠ .powerOnReset interval) ∧ (∀ address, Instr.panic 0 ≠ .hostRead address) ∧
      Instr.panic 0 ≠ .mailOutRead ∧ reachesMemory (.panic 0) = false := ⟨nofun, nofun, nofun, rfl⟩

/-- With a read in the interval, and with a write alone. -/
theorem witness_ResetsResetThePart :
    (resetValueOk 2 = true ∧ resetValueOk 0xFFFF = true) ∧
      (∃ register, LowAccess.read register ∈ ({ accesses := [.read 7], strap := .mostFirst } : ResetInterval).accesses) ∧
      ¬∃ register, LowAccess.read register ∈ ({ accesses := [.write 1 1], strap := .leastFirst } : ResetInterval).accesses :=
  ⟨by decide, ⟨7, by decide⟩, by simp⟩

theorem witness_StartBeginsStarting : startValueOk 1 = true ∧ State.reset.part.engine = .stopped := by decide

theorem witness_WritesThatChangeNothing :
    (startValueOk 0xFFFD = true ∧ running.engine ≠ .stopped) ∧
      (stopValueOk 0xFFFC = true ∧ State.reset.part.engine ≠ .running) ∧
      (ignoredRegister 0 = true ∧ ignoredRegister 7 = true) ∧
      ({ Part.reset with mail := ⟨0, true, 0, true⟩ }).mail.inFull = true := by decide

/-- The last directory word to come, after a word without and with the journal's head: the checks then fail, or pass. -/
theorem witness_DirectoryReadDecides :
    let p : Part := { Part.reset with engine := .starting, starting := .reading ((directory 0).take 508) }
    ((directory 0).take 508).length = 508 ∧
      directoryError .leastFirst ((directory 0).take 508 ++ State.reset.mem.readWord 508) = .none ∧
      directoryError .leastFirst (List.replicate 508 0 ++ State.reset.mem.readWord 508) = .badSignature ∧
      (∀ r ∈ [Requester.noticeUnit, .cueUnit],
        (turnOf p r).accessOf .cueUnit = none ∧ (turnOf p r).accessOf .noticeUnit = none) := by decide +kernel

/-- A directory without sounds, one whose first sound ends with the last byte of memory, and one that fails each check. -/
theorem witness_PassedDirectoryIsSound :
    let sounding := (directory 1).take 64 ++ [0xFC, 0xFF, 3, 0, 2, 0] ++ (directory 1).drop 70
    directoryError .leastFirst (directory 1) = .none ∧ directoryError .leastFirst sounding = .none ∧
      ((parseDirectory .leastFirst sounding).sounds[(0 : Fin 4)]).length = 2 ∧
      ((parseDirectory .leastFirst sounding).sounds[(0 : Fin 4)]).address = 0x3FFFC ∧
      [(0, 0), (4, 2), (6, 3), (0x0B, 4), (0x11, 2), (0x14, 8), (0x1D, 5), (0xA0, 4)].map
          (fun e => directoryError .leastFirst ((directory 0).set e.1 (BitVec.ofNat 8 e.2))) =
        [.badSignature, .badVersion, .badRate, .badArea, .badArea, .badArea, .badArea, .badMap] := by decide +kernel

/-- Without the clock fallback, and with it. -/
theorem witness_BecomingRunningSetsEveryBlock :
    (∀ i : Fin 4, (loaded 0).loader.clickFetches[i] = none) ∧
      (parseDirectory .leastFirst (directory 0)).source = .internal ∧
      (parseDirectory .leastFirst (directory 1)).source = .external ∧ (loaded 1).timeline.monitor = .absent := by
  decide +kernel

theorem witness_DrainEndsWhenAllIsSent :
    let p : Part := { Part.reset with engine := .stopping }
    (p.engine = .stopping ∧ (∀ v : Fin 8, (p.voices.ports[v]).enabled = false) ∧ p.tracker.table = [] ∧
      (∀ i : Fin 4, p.tracker.fan[i] = []) ∧ p.cues.writes = [] ∧ p.notice.accepted = []) ∧
      running.engine ≠ .stopping := by decide

/-- A posted slot, an armed cue with its state word queued, and a result queued before; with room and with every port full. -/
theorem witness_EnteringStoppingSilencesThePart :
    let a := armed (.tapFollow true)
    let queued : List WriteItem := [⟨5, [.state .waiting], false, false⟩, ⟨9, [.state .done], true, false⟩]
    let p : Part := { withArm playing a with cues := { CueUnit.reset with posted := [0], arms := [a], writes := queued } }
    let full : Voices := { playing.voices with
      ports := Vector.replicate 8 { openPort with queue := List.replicate 64 [0xF8] } }
    stopValueOk 0 = true ∧ (∀ x ∈ [playing, p], x.engine = .running) ∧
      ([0, 5] : List (Fin 32)).Nodup ∧ ((queued.filter fun w => !w.result).map (·.slot)).Nodup ∧
      p.voices.roomFor 1 ∧ (∀ v : Fin 8, (full.ports[v]).enabled = true ∧ 64 ≤ (full.ports[v]).queue.length) ∧
      p.tracker.table = [] ∧ (after (.engineStop 0) (sys p)).engine = .stopping ∧
      (after (.engineStop 0) (sys { running with notice := Notice.reset })).engine = .stopped := by
  unfold Voices.roomFor; decide

theorem witness_EngineFollowsItsArrows :
    let s : State := { State.reset with pending := [.engineStart 1] }
    s.part.startingKept ∧ completes s ∧ ∀ c, s.pending.head? = some c → isReset c = false :=
  ⟨fun h => absurd rfl h, ⟨_, rfl⟩, fun c h => by cases h; rfl⟩

theorem witness_MailOutReadReturnsTheReply :
    State.reset.part.mail.inFull = false ∧
      let p : Part := { Part.reset with mail := ⟨0xF000, true, 0, true⟩ }
      p.mail.inFull = true ∧ p.mail.inValue = 15#4 ++ 0#12 ∧ unknownCode 15 = true := by decide

theorem witness_MailInWriteIsStoredOrTaken :
    let p : Part := { Part.reset with mail := ⟨0, false, 0, true⟩ }
    p.mail.inFull = false ∧ p.mail.outFull = true := by decide

theorem witness_MailCommandsAnswered :
    State.reset.part.mailFree ∧ unknownCode 0 = true ∧ unknownCode 5 = true ∧ unknownCode 15 = true ∧
      State.reset.part.engine = .stopped ∧ ({ Part.reset with engine := .stopping }).engine ≠ .running :=
  ⟨⟨rfl, rfl⟩, by decide⟩

theorem witness_TapCommandGivesOneTap : (sys running).part.mailFree := ⟨rfl, rfl⟩

/-- A note and a pedal's destination held: with every port empty, and with every port full. -/
theorem witness_PanicReleasesEveryNote :
    let e : HeldEntry := ⟨0, 60, .sounding, [⟨{ voice := 0, channel := 0 }, 72, false⟩]⟩
    let fan : Vector (List FanEntry) 4 := (Vector.replicate 4 []).set 0 [⟨{ voice := 0, channel := 0 }, false⟩]
    let p : Part := { playing with tracker := { Tracker.reset with table := [e], fan := fan } }
    let full : Part := { p with voices := { p.voices with
      ports := Vector.replicate 8 { openPort with queue := List.replicate 64 [0xF8] } } }
    ((sys p).part.mailFree ∧ (sys p).part.tableBounded ∧ p.engine = .running) ∧
      ({ p with engine := .stopping }).engine = .stopping ∧ p.voices.roomFor 3 ∧
      (sceneDests scene3.layers).length = 1 ∧
      (∀ v : Fin 8, (full.voices.ports[v]).enabled = true ∧ 64 ≤ (full.voices.ports[v]).queue.length) ∧
      (∀ e ∈ full.tracker.table.filter fun e => e.state == .sounding,
        e.dests ≠ [] ∧ ∀ d ∈ e.dests, d.delivered = false) := by
  unfold Part.mailFree Part.tableBounded Voices.roomFor; decide

/-- Idle, and Playing with a start section with and without a scene; each owner of the shadow, and a ready lookahead. The
parking is that of the song's end and of a Transport Stop too. -/
theorem witness_HaltParksTheClock :
    let sec : SongSection := { ramped with scene := some 9 }
    let scened (owner : Option ShadowOwner) (active : Option Scene) : Part := { playing with loader := { playing.loader with
      activeSong := some { song1 with sections := [sec] }, activeScene := active, owner := owner } }
    let nine := { scene3 with number := 9 }
    let ready (p : Part) : Part := { p with loader := { p.loader with shadowScene := some nine, ready := true } }
    ((sys running).part.mailFree ∧ running.engine = .running ∧ running.timeline.clock = .idle) ∧
      ((sys playing).part.mailFree ∧ playing.timeline.clock = .playing) ∧
      playing.sectionAt playing.pointer.startSection = some ramped ∧ ramped.scene = none ∧ playing.loader.owner = none ∧
      (∀ o ∈ [none, some (.lookahead 9), some (.lookahead 4), some .refreshScene, some (.refreshSong true),
          some (.cue 5)], ∀ active ∈ [none, some nine],
        (scened o active).sectionAt 0 = some sec ∧ sec.scene = some 9 ∧ (scened o active).loader.owner = o ∧
          (scened o active).loader.ready = false ∧ (scened o active).loader.late = none) ∧
      (let p := ready (scened (some (.lookahead 9)) none)
       p.loader.ready = true ∧ p.loader.shadowScene = some nine ∧ nine.number = 9 ∧ p.loader.shadowSong = none ∧
        p.loader.activeScene.map (·.number) ≠ some 9 ∧ p.voices.batchFits nine.setup = true) := by
  unfold Part.mailFree; decide

theorem witness_FrameCountCountsFrames :
    (∃ t, exec (.frameEvent inOrder) (sys playing) = .next t) ∧
      (∃ t, exec .engineBecomesRunning (sys (loaded 0)) = .next t ∧ t.part.engine = .running ∧
        (sys (loaded 0)).part.engine ≠ .running) ∧
      (∃ t, exec .tapPinRise (sys playing) = .next t ∧ isReset .tapPinRise = false) :=
  ⟨⟨_, rfl⟩, ⟨_, rfl, by decide +kernel, by decide⟩, ⟨_, rfl, rfl⟩⟩

theorem witness_QuietFrameOnlyCounts :
    (running.quiet = true ∧ running.clockRuns = false) ∧
      (State.reset.part.quiet = true ∧ State.reset.part.clockRuns = false ∧ State.reset.part.engine ≠ .running) := by
  decide

theorem witness_RenderedMixValue :
    let m : Mix := ⟨⟨0, 0, 0, 0⟩, 255, false, ⟨some 1, 0, 127, true⟩⟩
    ({ m with mute := true }).mute = true ∧ m.mute = false ∧ m.cursor.running = true ∧ m.cursor.sound = some 1 := by
  decide

/-- A frame without a fine tick, one whose tick is 1, one whose tick is 40, with a Start byte owed and not, and one whose tick
240 is a Sub click's at 4 to the beat. -/
theorem witness_FrameAccumulatesTempo :
    let p : Part := { playing with timeline := { playing.timeline with acc := 11999999 } }
    let sec : SongSection := { ramped with subdivision := 4 }
    let q : Part := { playing with
      timeline := { playing.timeline with acc := 71999999 }
      loader := { playing.loader with activeSong := some { song1 with sections := [sec] } } }
    (playing.quiet = true ∧ playing.clockRuns = true ∧ playing.timeline.startPending = false ∧
      0 + 12000 < playing.timeline.rate.d ∧ (0 + 12000) / playing.timeline.rate.t = 0 / playing.timeline.rate.t) ∧
      (p.quiet = true ∧ p.clockRuns = true ∧ p.timeline.startByte = .none ∧
        (11999999 + 12000) / p.timeline.rate.t = 40 ∧ 11999999 / p.timeline.rate.t = 39 ∧ p.engine = .running ∧
        p.currentSection = some ramped ∧ 40 % (960 / ramped.subdivision) ≠ 0) ∧
      (40 % 40 = 0 ∧ 240 % 40 = 0 ∧ 1 % 40 ≠ 0) ∧
      ((299999 + 12000) / p.timeline.rate.t = 1 ∧ 299999 / p.timeline.rate.t = 0) ∧
      (∀ x ∈ [StartByte.none, .nextPulse, .atLanding, .pulseAndLanding],
        ({ p with timeline := { p.timeline with startByte := x } }).quiet = true) ∧
      (q.quiet = true ∧ q.currentSection = some sec ∧ q.pointer.phase = .song ∧
        (71999999 + 12000) / q.timeline.rate.t = 240 ∧ 71999999 / q.timeline.rate.t = 239 ∧
        240 % (960 / sec.subdivision) = 0) ∧
      q.loader.activeSong = some { song1 with sections := [sec] } ∧ song1.clickSound.get .sub = 0 ∧
      q.isRefreshing (.click 0) = false ∧ (q.click.sounds[(0 : Fin 4)]).length = 0 := by decide

/-- The accumulator just below the boundary, at each place the pointer can be at: inside the bar, at a bar's end, at the
section's end with the vamp flag, without it before a section and in the last one with and without a loop, with the leave
mark; in the count-in inside a bar, before a bar and at its end; and with an entry pending. -/
theorem witness_BeatBoundaryAdvances :
    let p : Part := { playing with timeline := { playing.timeline with acc := 287988000 } }
    let q : Part := { p with timeline := { p.timeline with plan := some ⟨12000, 13000, 2, 0, false⟩ } }
    let c : Part := { p with timeline := { p.timeline with clock := .countIn } }
    let at' (r : SongPointer) : Part := { p with pointer := r }
    let start := p.pointer
    let last : SongPointer := { start with bar := 2, beat := 4 }
    let count : SongPointer := { start with phase := .countIn, barsPlayed := 0 }
    (∀ r ∈ [start, { start with beat := 4 }, last, { last with vamp := true }, { last with leave := true, bar := 1 },
        { last with sectionIndex := 1 }, count, { count with beat := 4 },
        { start with entry := some ⟨1, .jump⟩ }, { start with entry := some ⟨0, .segue⟩ }],
      (at' r).quiet = true ∧ (at' r).clockRuns = true ∧ (at' r).timeline.startPending = false ∧ (at' r).cues.arms = [] ∧
        (at' r).currentSection = some ramped ∧ r.loaded = true ∧
        (at' r).timeline.rate.d ≤ (at' r).timeline.acc + (at' r).timeline.tempo) ∧
      (p.loader.owner = none ∧ p.loader.late = none ∧ p.loader.held = none ∧ p.engine = .running) ∧
      start.beat + 1 ≤ ramped.beats ∧ ramped.beats < last.beat + 1 ∧ start.bar + 1 ≤ ramped.bars ∧
      ramped.bars < last.bar + 1 ∧ start.vamp = false ∧ start.leave = false ∧ p.sectionAt 1 = some ramped ∧
      (song1.sections.length = 1 + 1 ∧ song1.loopLast = false ∧ ({ song1 with loopLast := true }).loopLast = true) ∧
      (c.quiet = true ∧ c.clockRuns = true ∧ c.countInBars = 1 ∧ c.countInBars < count.countInBar + 1 ∧
        ({ c with loader := { c.loader with activeSong := some { song1 with countIn := 2 } } }).countInBars = 2) ∧
      count.sectionIndex = count.startSection ∧ p.timeline.plan = none ∧
      q.timeline.plan = some ⟨12000, 13000, 2, 0, false⟩ := by decide

/-- BeatBoundaryAdvances and StartFramePlacesThePointer, the announcement: a waiting cue while the cue unit executes nothing;
the click of each case of R46 and R47; the loader's at a Beat or Bar and at a Section, in each case of R122. -/
theorem witness_BoundariesAreAnnounced :
    let wait (a : ArmedCue) (b : Boundary) : ArmedCue := { a with boundary := b, wait := b, due := false }
    let p := withArm playing (wait (armed (.tapFollow true)) .bar)
    let l := playing.loader
    let late : LateSwitch := ⟨0, 3, .sectionEntry, false, false, some 2⟩
    let sec : SongSection := { ramped with scene := some 9 }
    let into (l : Loader) (song : Song) : Part := { playing with loader := { l with activeSong := some song } }
    let scened := { song1 with sections := [sec, sec] }
    let ready : Loader :=
      { l with activeScene := none, shadowScene := some scene3, owner := some (.lookahead 3), ready := true }
    (p.quiet = true ∧ p.clockRuns = true ∧ p.cues.arms ≠ [] ∧ ({ inOrder with cues := none }).cues = none) ∧
      inOrder.loader = .beforeClick ∧ ({ inOrder with loader := .afterRender }).loader ≠ .beforeClick ∧
      ([Boundary.now, .beat, .bar, .newSection].map fun b => ((wait (armed (.tapFollow true)) b).heard .bar).due) =
        [false, true, true, false] ∧
      ({ wait (armed (.sectionJump 1)) .newSection with working := true }.heard .newSection =
        { wait (armed (.sectionJump 1)) .newSection with working := true, missed := 1, wait := .bar }) ∧
      ((wait (armed (.sectionJump 1)) .newSection).heard .newSection =
        { wait (armed (.sectionJump 1)) .newSection with due := true, atBoundary := true }) ∧
      (song1.clickSound.get .downbeat = 0 ∧
        ({ song1.clickSound with downbeat := 4 }).get .downbeat = 4 ∧ playing.isRefreshing (.click 0) = false ∧
        (playing.click.sounds[(0 : Fin 4)]).length = 0 ∧
        ({ playing with watch := { playing.watch with residents := { ResidentSet.reset with
          clicks := (Vector.replicate 4 none).set 0 (some (resident .refreshing)) } } }).isRefreshing (.click 0) = true ∧
        ({ playing.click with sounds := playing.click.sounds.set 0 ⟨[1, 2], 2⟩ }.sounds[(0 : Fin 4)]).length ≠ 0) ∧
      (l.late = none ∧ l.trigger = none ∧ l.owner = none ∧ l.held = none) ∧
      (({ l with late := some late }).late = some late ∧ ({ l with late := some late }).ready = false) ∧
      (ready.ready = true ∧ ready.owner = some (.lookahead late.scene) ∧ ready.shadowScene = some scene3 ∧
        scene3.number = late.scene ∧ ready.shadowSong = none ∧ ready.trigger = none ∧
        playing.voices.batchFits scene3.setup = true ∧
        (withVoice playing { openPort with queue := List.replicate 64 [0xF8] }).voices.batchFits scene3.setup = false) ∧
      ((into l song1).sectionAt 0 = some ramped ∧ ramped.scene = none ∧ (into l scened).sectionAt 0 = some sec ∧
        sec.scene = some 9 ∧ l.activeScene.map (·.number) = some 3 ∧ ready.activeScene.map (·.number) = none ∧
        (into { l with activeScene := some { scene3 with number := 9 } } scened).loader.activeScene.map (·.number) =
          some 9) ∧
      (∀ o ∈ [ShadowOwner.lookahead 9, .lookahead 4, .refreshScene, .refreshSong false, .cue 5],
        ({ l with owner := some o }).owner = some o ∧ ({ l with owner := some o }).late = none) ∧
      (∀ x ∈ [HeldCause.entry 0 9 .sectionEntry (some 1), .entry 1 4 .sectionEntry none, .cue 5],
        (holding playing x 3).loader.held = some ⟨x, 3⟩) ∧
      (∀ x ∈ [Trigger.toEnd, .toSection 0], ({ l with trigger := some x }).trigger = some x) := by decide

/-- Into the count-in, and into bar 1. -/
theorem witness_StartFramePlacesThePointer :
    let p : Part := { playing with timeline := { playing.timeline with startPending := true } }
    let c : Part := { p with timeline := { p.timeline with clock := .countIn } }
    (∀ q ∈ [p, c], q.quiet = true ∧ q.clockRuns = true ∧ q.timeline.startPending = true ∧ q.cues.arms = [] ∧
        q.sectionAt q.pointer.startSection = some ramped ∧ q.engine = .running ∧ q.pointer.loaded = true ∧
        q.loader.owner = none ∧ q.loader.late = none ∧ q.loader.held = none) ∧
      c.timeline.clock = .countIn ∧ p.timeline.clock ≠ .countIn := by decide

theorem witness_TickIndexRisesByOne :
    (0 < SampleRate.d .khz44 ∧ 30000 ≤ 30000 ∧ 0 + 30000 < SampleRate.d .khz44) ∧
      (SampleRate.d .khz44 - 1 < SampleRate.d .khz44 ∧ SampleRate.d .khz44 ≤ SampleRate.d .khz44 - 1 + 30000) := by
  decide

theorem witness_ExternalClockCommands :
    let p : Part := { running with timeline := { Timeline.reset with source := .external } }
    (p.engine = .running ∧ p.timeline.source = .external) ∧ running.timeline.source = .internal ∧
      Part.reset.engine ≠ .running := by decide

/-- No tap yet; a tap in the same frame; one a frame too late; and two with a result, below and above 30000. -/
theorem witness_TapMeasuresTheInterval :
    let tapped (last frame : Word) : Part :=
      { running with timeline := { Timeline.reset with lastTap := some last, frame := frame } }
    Part.reset.engine ≠ .running ∧ running.engine = .running ∧ running.timeline.lastTap = none ∧
      ((tapped 7 7).timeline.frame - 7).toNat = 0 ∧
      3 * (tapped 0 144001).timeline.rate.hz < ((tapped 0 144001).timeline.frame - 0).toNat ∧
      ((tapped 0 144000).timeline.frame - 0).toNat ≤ 3 * (tapped 0 144000).timeline.rate.hz ∧
      (2 * SampleRate.d .khz48 * 1 + 144000) / (2 * 144000) ≤ 30000 ∧
      30000 < (2 * SampleRate.d .khz48 * 1 + 1) / (2 * 1) := by decide

theorem witness_SettleEndRefreshes :
    let e := resident (.settling 0)
    let free := withScene staged (.settling 0) .live
    let song : Part := { staged with watch := { Watch.reset with
      residents := { ResidentSet.reset with activeSong := some e } } }
    let click : Part := { staged with watch := { Watch.reset with
      residents := { ResidentSet.reset with clicks := (Vector.replicate 4 none).set 3 (some e) } } }
    e.state = .settling 0 ∧ free.watch.residents.activeScene = some e ∧ free.loader.owner = none ∧
      song.watch.residents.activeSong = some e ∧ click.watch.residents.clicks[(3 : Fin 4)] = some e ∧
      ({ staged.loader with owner := some (.lookahead 3) }).owner ≠ none ∧
      staged.resident .activeScene = none := by decide

theorem witness_SettleEndRefetchesShadow :
    let e := resident (.settling 0)
    let r : ResidentSet := { ResidentSet.reset with shadowScene := some e, shadowSong := some e }
    let f : ShadowFetch := ⟨.sceneRecord, false, false, 0, 3, none, false, 0x2000, [], 0⟩
    let a := armed (.songLoad 1 0 false)
    let l : Loader := { staged.loader with owner := some (.cue 5) }
    e.state = .settling 0 ∧ r.shadowScene = some e ∧ r.shadowSong = some e ∧ l.fetch = none ∧
      ({ l with fetch := some f }).fetch = some f ∧ l.owner = some (.cue 5) ∧ (withArm staged a).cues.arms = [a] ∧
      a.slot = 5 ∧ a.cue = .songLoad 1 0 false := by decide

/-- No hold; a section's, on time and late; a SectionJump's, and a SongLoad's with a scene and with Keep; with every pedal Up,
and with one Down whose destination joins. -/
theorem witness_HoldExpiryForcesTheSwitch :
    let jump := armed (.sectionJump 1)
    let load := armed (.songLoad 127 1 true)
    let section_ (announced : Option Nat) : Part := holding { staged with
      loader := { staged.loader with shadowScene := some scene3 } } (.entry 15 3 .park announced) 0
    (staged.loader.held = none ∧ (holding staged (.cue 5) 1).loader.held = some ⟨.cue 5, 1⟩) ∧
      (∀ announced ∈ [none, some 2],
        (section_ announced).loader.held = some ⟨.entry 15 3 .park announced, 0⟩ ∧
          (section_ announced).loader.shadowScene = some scene3 ∧ (section_ announced).loader.shadowSong = none ∧
          (section_ announced).loader.late = none ∧ (section_ announced).loader.trigger = none) ∧
      (∀ x ∈ [(jump, some scene3, none), (load, some scene3, some song1), (load, none, some song1)],
        let p := holding (switching x.1 x.2.1 x.2.2) (.cue x.1.slot) 0
        p.loader.held = some ⟨.cue x.1.slot, 0⟩ ∧ p.cues.arms = [x.1] ∧ p.cues.writes = [] ∧ p.loader.late = none ∧
          p.loader.shadowScene = x.2.1 ∧ p.carryDowns x.2.1 = []) ∧
      (holding (switching jump (some scene3) none) (.cue 5) 0).cueFits jump (some scene3) ∧
      (holding (switching load (some scene3) (some song1)) (.cue 5) 0).cueFits load (some scene3) ∧
      (holding (switching load none (some song1)) (.cue 5) 0).cueFits load none ∧
      (pedalDown (section_ none)).carryDowns (some scene3) = [(0, [0xB0, 64, 127])] ∧
      (pedalDown (section_ none)).voices.roomFor ((pedalDown (section_ none)).voices.reserve + 1) :=
  ⟨by decide, by decide, by decide, .inl ⟨1, { ramped with scene := some 3 }, by unfold Part.jumpFits; decide⟩,
    .inr ⟨127, 1, true, song1, ramped, by unfold Part.songFits; decide⟩,
    .inr ⟨127, 1, true, song1, ramped, by unfold Part.songFits; decide⟩, by decide, by unfold Voices.roomFor; decide⟩

theorem witness_StatusBytesSetTheParser :
    Part.reset.players[(0 : Fin 4)].enabled = false ∧ staged.players[(0 : Fin 4)].enabled = true ∧
      0xF8 ≤ (0xFF : Byte).toNat ∧ (0x80 ≤ (0x80 : Byte).toNat ∧ (0xEF : Byte).toNat < 0xF0) ∧
      (0xF1 ≤ (0xF1 : Byte).toNat ∧ (0xF7 : Byte).toNat ≤ 0xF7) := by decide

theorem witness_DataBytesWithoutEvent :
    let q := waiting 0xA0 60
    q.enabled = true ∧ (0x7F : Byte).toNat < 0x80 ∧ ({ q with parser := .skipping }).parser = .skipping ∧
      0 < ({ q with skip := 2 }).skip ∧ ({ q with running := none }).running = none ∧
      (q.parser ≠ .skipping ∧ q.skip = 0 ∧ q.running = some 0xA0 ∧ q.expected = 2 ∧ q.held = some 60 ∧
        (0xA0 : Byte).toNat / 16 = 10) ∧
      (({ q with held := none }).held = none) ∧
      (({ q with expected := 1 }).expected = 1 ∧ (0xC0 : Byte).toNat / 16 = 12) ∧
      ({ q with filter := .only 3 }).filter.keeps 0xA0 = false ∧ Part.reset.loader.activeScene = none := by decide

/-- A tap controller at level Low and at High, with values on each side of 64. -/
theorem witness_TapControllerGivesTaps :
    let q : PlayerPort := { waiting (BitVec.ofNat 8 (0xB0 + (0 : Fin 16).val)) 80 with tapController := some 80 }
    q.awaits (BitVec.ofNat 8 (0xB0 + (0 : Fin 16).val)) 80 ∧ q.tapController = some (80 : Byte).toNat ∧
      (63 : Byte).toNat < 64 ∧ 64 ≤ (64 : Byte).toNat ∧ q.tapHigh = false ∧ ({ q with tapHigh := true }).tapHigh = true := by
  unfold PlayerPort.awaits; decide

/-- A press, a release, and values on the pedal's own side; a set with a destination UpOwed and one Held; with room, with no
port above the reserve, and with every port full. -/
theorem witness_PedalValuesReachTheFanOut :
    let q := waiting (BitVec.ofNat 8 (0xB0 + (15 : Fin 16).val)) 64
    let p := withPlayer staged q
    q.awaits (BitVec.ofNat 8 (0xB0 + (15 : Fin 16).val)) 64 ∧ q.tapController ≠ some 64 ∧ p.engine = .running ∧
      p.loader.activeScene = some scene3 ∧
      (q.pedal = .up ∧ 64 ≤ (64 : Byte).toNat ∧ (64 : Byte).toNat < 0x80 ∧ p.tracker.fan[(0 : Fin 4)] = []) ∧
      (((scene3.layers.filter fun l => l.sources.getLsbD 0 && l.passSustain).map Layer.dest).eraseDups = [octave.dest] ∧
        p.voices.roomFor (p.voices.reserve + 1)) ∧
      (({ q with pedal := .down }).pedal = .down ∧ (63 : Byte).toNat < 64) ∧ (63 : Byte).toNat < 64 ∧
      (let fan : List FanEntry := [⟨⟨7, 1⟩, true⟩, ⟨⟨6, 2⟩, false⟩]
       let ports (n : Nat) : Voices :=
         { p.voices with ports := Vector.replicate 8 { openPort with queue := List.replicate n [0xF8] } }
       let x : Part := { p with tracker := { Tracker.reset with
         fan := (Vector.replicate 4 []).set 0 fan, upOwed := (Vector.replicate 8 []).set 7 [⟨0, ⟨7, 1⟩⟩] } }
       x.tracker.fan[(0 : Fin 4)] = fan ∧ (fan.filter fun f => !f.upOwed).map (·.dest) = [⟨6, 2⟩] ∧
        (∀ v : Fin 8, ((ports 56).ports[v]).enabled = true ∧
          64 ≤ ((ports 56).ports[v]).queue.length + (ports 56).reserve) ∧
        (∀ v : Fin 8, ((ports 64).ports[v]).enabled = true ∧ 64 ≤ ((ports 64).ports[v]).queue.length) ∧
        x.voices.roomFor 1) := by
  unfold PlayerPort.awaits Voices.roomFor; decide

/-- Every compare on a key and on a velocity, the velocity tests of value 1, and the layers of each combine. -/
theorem witness_ZoneCombinesTwoTests :
    octave.combine = .and ∧ ({ octave with combine := .or }).combine = .or ∧ octave.testA.compare = .any ∧
      octave.testB.compare = .any ∧ (∀ m ∈ [octave], m.listens 1 = true → m.zonePasses 60 100 = false) ∧
      ({ octave with sources := 0 }).sources = 0 ∧
      ([Compare.any, .equal, .below, .atOrAbove].map fun c =>
          ((⟨.key, c, 60⟩ : ZoneTest).passes 60 100, (⟨.velocity, c, 101⟩ : ZoneTest).passes 60 100,
            (⟨.velocity, c, 1⟩ : ZoneTest).passes 60 1)) =
        [(true, true, true), (true, false, true), (false, true, false), (true, false, true)] := by decide

theorem witness_OutputVelocityIsScaledAndClamped :
    octave.gain = 64 ∧ ({ octave with gain := 0 }).gain = 0 ∧
      (let l : Layer := { octave with gain := 255, offset := -64 }; l.gain = 255 ∧ -64 ≤ l.offset) ∧
      (octave.route 0 60 100).isSome = true := by decide

theorem witness_RoutedNotesAreMerged :
    octave.route 0 115 1 = some { dest := octave.dest, key := 127, velocity := 1 } ∧ octave.route 0 116 1 = none ∧
      octave.sources.getLsbD (0 : Fin 4).val = true ∧ octave.zonePasses 115 1 = true ∧ octave.zonePasses 116 1 = true ∧
      ((115 : Nat) : Int) + octave.transpose = 127 ∧ ((116 : Nat) : Int) + octave.transpose = 128 := by
  decide

theorem witness_PassedMessagesAreOffered :
    let status (high : Nat) := BitVec.ofNat 8 (high + (15 : Fin 16).val)
    let p := staged
    let passing (gives : Layer → Bool) : List Dest :=
      ((scene3.layers.filter fun l => l.sources.getLsbD 0 && gives l).map Layer.dest).eraseDups
    p.engine = .running ∧ p.loader.activeScene = some scene3 ∧ (127 : Byte).toNat < 0x80 ∧
      (waiting (status 0xB0) 1).awaits (status 0xB0) 1 ∧
      (waiting (status 0xB0) 1).tapController ≠ some (1 : Byte).toNat ∧ (1 : Byte) ≠ 64 ∧
      (waiting (status 0xE0) 0).awaits (status 0xE0) 0 ∧
      (let q : PlayerPort := { waiting (status 0xD0) 0 with expected := 1 }
       q.enabled = true ∧ q.parser ≠ .skipping ∧ q.skip = 0 ∧ q.running = some (status 0xD0) ∧
        q.filter.keeps (status 0xD0) = true) ∧
      (passing (fun l => l.passList.contains 1) = [octave.dest] ∧ passing (fun l => l.passBend) = [octave.dest] ∧
        passing (fun l => l.passPressure) = [octave.dest] ∧ p.voices.roomFor (p.voices.reserve + 1)) := by
  unfold PlayerPort.awaits Voices.roomFor; decide

/-- A key's first note with room; the ports full; a full table with a Sounding entry behind an Owed one, and with none; and
the note struck again. -/
theorem witness_NoteOnEntersTheTable :
    let e (state : HeldState) (key : Nat) : HeldEntry := ⟨0, key, state, [⟨{ voice := 0, channel := 0 }, 72, false⟩]⟩
    let p := withPlayer staged (waiting (BitVec.ofNat 8 (0x90 + (0 : Fin 16).val)) 60)
    let holds (table : List HeldEntry) : Part := { p with tracker := { Tracker.reset with table := table } }
    let full := withVoice p { openPort with queue := List.replicate 56 [0xF8] }
    let owed := List.replicate 127 (e (.owed 64) 60)
    let notes := routeNote scene3.layers 0 60 127
    (p.players[(0 : Fin 4)].awaits (BitVec.ofNat 8 (0x90 + (0 : Fin 16).val)) 60 ∧ 1 ≤ (1 : Byte).toNat ∧
      (127 : Byte).toNat < 0x80 ∧ p.engine = .running ∧ p.loader.activeScene = some scene3) ∧ p.tracker.table = [] ∧
      p.tracker.table.length < 128 ∧ p.voices.roomFor (p.voices.reserve + (1 + notes.length)) ∧ notes ≠ [] ∧
      (∀ n ∈ notes, (full.voices.ports[n.dest.voice]).enabled = true ∧
        64 ≤ (full.voices.ports[n.dest.voice]).queue.length + full.voices.reserve) ∧
      ((holds (owed ++ [e .sounding 61])).tracker.table.length = 128 ∧ (e .sounding 61).key ≠ (60 : Byte).toNat ∧
        ∀ f ∈ owed, f.state ≠ .sounding) ∧
      ((holds (owed ++ [e (.owed 1) 60])).tracker.table.length = 128 ∧
        ∀ f ∈ owed ++ [e (.owed 1) 60], f.state ≠ .sounding) ∧
      ((holds [e .sounding 60]).tracker.table = [] ++ e .sounding 60 :: [] ∧ (e .sounding 60).key = (60 : Byte).toNat ∧
        (holds [e .sounding 60]).tracker.table.length ≤ 128 ∧ (e .sounding 60).dests.length = 1) := by
  unfold PlayerPort.awaits Voices.roomFor; decide +kernel

/-- A release with room, one with the port full, and one of a key that does not sound. -/
theorem witness_NoteOffReleasesTheEntry :
    let e : HeldEntry := ⟨0, 60, .sounding, [⟨{ voice := 0, channel := 0 }, 72, false⟩]⟩
    let p : Part := { withPlayer staged (waiting 0x80 60) with tracker := { Tracker.reset with table := [e] } }
    let full := withVoice p { openPort with queue := List.replicate 64 [0xF8] }
    p.players[(0 : Fin 4)].awaits 0x80 60 ∧ (0x80 : Byte).toNat / 16 = 8 ∧ (0x90 : Byte).toNat / 16 = 9 ∧
      p.engine = .running ∧ p.loader.activeScene = some scene3 ∧ p.tracker.table = [] ++ e :: [] ∧
      (e.player = 0 ∧ e.key = (60 : Byte).toNat ∧ e.state = .sounding) ∧ p.voices.roomFor e.dests.length ∧
      (e.dests ≠ [] ∧ ∀ d ∈ e.dests, d.delivered = false ∧ (full.voices.ports[d.dest.voice]).enabled = true ∧
        Config.queueSize ≤ (full.voices.ports[d.dest.voice]).queue.length) ∧ staged.tracker.table = [] := by
  unfold PlayerPort.awaits Voices.roomFor; decide

/-- Nine free entries admit an opening message under a reserve of 8, eight do not. -/
theorem witness_AdmissionFollowsTheClass :
    let held (n : Nat) : VoicePort := { openPort with queue := List.replicate n [0xC0, 5] }
    VoicePort.reset.enabled = false ∧ (held 55).enabled = true ∧ Voices.reset.reserve < 64 - (held 55).queue.length ∧
      ¬Voices.reset.reserve < 64 - (held 56).queue.length ∧ 1 ≤ 64 - (held 63).queue.length ∧
      ¬1 ≤ 64 - (held 64).queue.length ∧
      (openPort.tx = .idle ∧ openPort.slot = [] ∧ openPort.queue = [] ∧ openPort.sent = none) ∧
      ({ held 1 with tx := .sending 0xC0 .queue }).tx ≠ .idle := by decide

theorem witness_BatchLeavesTheReserve : staged.voices.batchFits scene3.setup = true := by decide

theorem witness_RealTimeSlotTakesRequests :
    VoicePort.reset.enabled = false ∧ ({ openPort with clockOut := false }).clockOut = false ∧
      (openPort.enabled = true ∧ openPort.clockOut = true ∧ openPort.slot = [] ∧ openPort.tx = .idle) ∧
      ({ openPort with slot := [.start] }).slot = [.start] ∧
      ({ openPort with slot := [.start, .clock] }).slot = [.start, .clock] ∧ RtByte.stop ≠ .clock := by decide

/-- An Idle port, a real-time byte, a message part sent, one sent whole, and one that lets an owed note-off in; while Stopping,
a last byte with nothing left behind it, and one with an entry still owed. -/
theorem witness_ByteBoundaryChoosesTheNextByte :
    let drained : Part := { staged with engine := .stopping }
    let e : HeldEntry := ⟨0, 60, .owed 64, [⟨{ voice := 0, channel := 0 }, 72, false⟩]⟩
    let port : VoicePort := { openPort with queue := [[0xC0, 5]], tx := .sending 0xC0 .queue, sent := some 0 }
    (drained.engine = .stopping ∧ drained.allSent ∧
        ¬({ drained with tracker := { Tracker.reset with table := [e] } }).allSent) ∧
      staged.engine ≠ .stopping ∧ staged.loader.held = none ∧ staged.tracker.upOwed[(0 : Fin 8)] = [] ∧
      openPort.tx = .idle ∧ ({ openPort with tx := .sending 0xF8 .slot }).tx = .sending 0xF8 .slot ∧
      (port.tx = .sending 0xC0 .queue ∧ port.queue = [0xC0, 5] :: [] ∧ port.sent.getD 0 + 1 < 2) ∧
      2 ≤ ({ port with sent := some 1 }).sent.getD 0 + 1 ∧ staged.tracker.table = [] ∧
      ({ Tracker.reset with table := [e] }).table = [e] ∧ e.state = .owed 64 ∧ port.enabled = true := by
  unfold Part.allSent; decide

/-- ByteBoundaryChoosesTheNextByte, a freed entry: sustain-ups owed besides; a held section switch and a held cue's whose
batch names the port and fits the ports after the offers, one that does not fit, and one that does not name the port. -/
theorem witness_FreedEntryServesTheHold :
    let jump := armed (.sectionJump 1)
    let ups := (Vector.replicate 8 []).set 0 [(⟨0, octave.dest⟩ : UpOwed)]
    let port (rest : List Message) : VoicePort :=
      { openPort with queue := [0xC0, 5] :: rest, tx := .sending 5 .queue, sent := some 1 }
    let entry : Part := { staged with loader := { staged.loader with shadowScene := some scene3 } }
    let p := withVoice (holding entry (.entry 15 3 .park (some 2)) 7) (port [])
    let q := withVoice (holding (switching jump (some scene3) none) (.cue 5) 7) (port [])
    (staged.tracker.upOwed[(0 : Fin 8)] = [] ∧ ({ Tracker.reset with upOwed := ups }).upOwed[(0 : Fin 8)] ≠ []) ∧
      (∀ x ∈ [p, q], x.engine ≠ .stopping ∧ (x.voices.ports[(0 : Fin 8)]).tx = .sending 5 .queue ∧
        (x.voices.ports[(0 : Fin 8)]).queue = [0xC0, 5] :: [] ∧ (x.voices.ports[(0 : Fin 8)]).enabled = true ∧
        x.loader.shadowScene = some scene3 ∧ x.loader.shadowSong = none ∧ x.loader.trigger = none ∧
        x.loader.late = none) ∧
      p.loader.held = some ⟨.entry 15 3 .park (some 2), 7⟩ ∧
      (q.loader.held = some ⟨.cue jump.slot, 7⟩ ∧ q.cues.arms = [jump] ∧ q.cues.writes = []) ∧
      (∃ m ∈ scene3.setup, m.voice = 0) ∧ (¬∃ m ∈ scene3.setup, m.voice = 1) ∧
      (withVoice p { port [] with queue := [], sent := none }).voices.batchFits scene3.setup = true ∧
      (withVoice p { port [] with queue := List.replicate 63 [0xF8], sent := none }).voices.batchFits scene3.setup =
        false ∧
      q.cueFits jump (some scene3) :=
  ⟨by decide, by decide, by decide, by decide, by decide, by decide, by decide, by decide,
    .inl ⟨1, { ramped with scene := some 3 }, by unfold Part.jumpFits; decide⟩⟩

/-- Tables whose windows are valid, under each policy. -/
theorem witness_EffectiveKindIsTheStrictest :
    let r : RegionTable := { RegionTable.reset with
      windows := (Vector.replicate 4 none).set 0 (some ⟨0x3FF00, 8, .live⟩) }
    (∀ i : Fin 4, (r.windows[i]).all (fun w => decide (8 ≤ w.sizeLog ∧ w.base % 2 ^ w.sizeLog = 0)) = true) ∧
      r.policy = .normal ∧ r.regionKind 0x3FFFF = .live ∧ r.regionKind 0x3FEFF = .openWrite ∧
      ({ r with policy := .hold }).policy = .hold ∧ ({ r with policy := .freeze }).policy = .freeze := by decide

theorem witness_HostAccessesReadAndStore :
    let p := withScene running .current .openWrite
    (sys p).mem.wf = true ∧ (sys p).hostFree ∧ Part.reset.engine ≠ .running ∧
      (0x200 ≤ 2 * (0x1FFFF : BitVec 17).toNat ∧ p.layout.cueBoard + 1024 ≤ 2 * (0x1FFFF : BitVec 17).toNat ∧
        p.touched 0x3FFFE = []) ∧
      (p.touched 0x2000 ≠ [] ∧ p.watch.region.effective 0x2000 = .openWrite) := by
  unfold State.hostFree; decide +kernel

/-- The directory's last halfword, a record under each kind, active and shadow, Current and already Stale, with the shadow
not ready, ready for a section, held, and ready for a cue. -/
theorem witness_WatchDecidesHostWrites :
    let p := withScene running .current .guarded
    let shadow (kind : RegionKind) (l : Loader) : Part :=
      watched kind { ResidentSet.reset with shadowScene := some (resident .current) } l
    let l : Loader := { running.loader with shadowScene := some scene3, ready := true }
    (sys p).mem.wf = true ∧ (sys p).hostFree ∧ p.engine = .running ∧ 2 * (0xFF : BitVec 17).toNat < 0x200 ∧
      (0x200 ≤ 2 * (0x101F : BitVec 17).toNat ∧ p.layout.cueBoard + 1024 ≤ 2 * (0x101F : BitVec 17).toNat ∧
        ∀ c, p.notice.config = some c → 2 * (0x101F : BitVec 17).toNat ≠ c.base + 4 ∧
          2 * (0x101F : BitVec 17).toNat ≠ c.base + 6) ∧
      p.touched 0x203E = [.activeScene] ∧ p.touched 0x2040 = [] ∧ p.watch.region.effective 0x203E = .guarded ∧
      p.resident .activeScene = some (resident .current) ∧
      (withScene running .current .live).watch.region.effective 0x203E = .live ∧
      (withScene running .stale .staged).watch.region.effective 0x203E = .staged ∧
      (resident .current).state ≠ .refreshing ∧ (resident .current).state ≠ .stale ∧
      (resident .stale).state ≠ .refreshing ∧
      (∀ kind ∈ [RegionKind.live, .staged],
        (shadow kind l).touched 0x203E = [.shadowScene] ∧ (shadow kind l).watch.region.effective 0x203E = kind ∧
          (shadow kind l).resident .shadowScene = some (resident .current)) ∧
      (l.ready = true ∧ running.loader.ready = false ∧ ({ l with owner := some (.cue 5) }).owner = some (.cue 5) ∧
        ({ l with owner := some (.lookahead 3) }).owner = some (.lookahead 3) ∧ running.cues.writes = []) ∧
      ∀ x ∈ [HeldCause.cue 5, .entry 1 3 .sectionEntry none], (holding (shadow .live l) x 3).loader.held = some ⟨x, 3⟩ := by
  refine ⟨by decide, by unfold State.hostFree; decide, by decide, by decide, ⟨by decide, by decide, ?_⟩, ?_⟩
  · intro c h; cases h; decide
  · decide +kernel

/-- WatchDecidesHostWrites, records under fetch: a click sound's, a lookahead's, a SongLoad's at its song and at its scene,
and a song's and a scene's refresh, at the first restart and at the fourth. -/
theorem witness_RestartsUnderFetch :
    let r := resident .refreshing
    let f (stage : FetchStage) (load indexed : Bool) (count : Nat) : ShadowFetch :=
      ⟨stage, load, indexed, 1, 3, if load then some 0 else none, false, 0x2000, [1, 0, 0, 0], count⟩
    let under (o : ShadowOwner) (g : ShadowFetch) (set : ResidentSet) : Part :=
      watched .live set { running.loader with owner := some o, fetch := some g }
    let e (count : Nat) : Resident := { r with kind := .click, refetch := count }
    let sound (count : Nat) : Part := watched .staged
      { ResidentSet.reset with clicks := (Vector.replicate 4 none).set 3 (some (e count)) }
      { running.loader with clickFetches := (Vector.replicate 4 none).set 3 (some ⟨.refresh, 0x2000, 32, 16, 5⟩) }
    let other : Resident := { r with base := 0x3000 }
    let load := armed (.songLoad 1 0 false)
    let songUnder (count : Nat) := withArm (under (.cue 5) (f .songRecord true true count)
      { ResidentSet.reset with shadowSong := some r }) load
    let sceneUnder (count : Nat) := withArm (under (.cue 5) (f .sceneRecord true true count)
      { ResidentSet.reset with shadowSong := some other, shadowScene := some r }) load
    (∀ count ∈ [0, 2, 3], (sound count).touched 0x203E = [.click 3] ∧
      (sound count).watch.residents.clicks[(3 : Fin 4)] = some (e count) ∧
      (sound count).loader.clickFetches[(3 : Fin 4)] = some ⟨.refresh, 0x2000, 32, 16, 5⟩ ∧
      (sound count).watch.region.effective 0x203E = .staged) ∧
      (∀ count ∈ [2, 3],
        let ahead := under (.lookahead 3) (f .sceneRecord false true count)
          { ResidentSet.reset with shadowScene := some r }
        let song := under (.refreshSong true) (f .songRecord false false count)
          { ResidentSet.reset with activeSong := some r, shadowSong := some r }
        let scene := under .refreshScene (f .sceneRecord false false count)
          { ResidentSet.reset with activeScene := some r, shadowScene := some r }
        (∀ p ∈ [ahead, song, scene, songUnder count, sceneUnder count],
          p.watch.region.effective 0x203E = .live ∧ p.loader.trigger = none ∧ p.loader.late = none ∧
            p.cues.writes = [] ∧ ∀ role ∈ p.touched 0x203E, p.isRefreshing role = true) ∧
          (ahead.touched 0x203E = [.shadowScene] ∧ ahead.isRefreshing .activeScene = false) ∧
          song.touched 0x203E = [.activeSong, .shadowSong] ∧ scene.touched 0x203E = [.activeScene, .shadowScene] ∧
          (songUnder count).touched 0x203E = [.shadowSong] ∧ (sceneUnder count).touched 0x203E = [.shadowScene] ∧
          (songUnder count).cues.arms.find? (fun b => b.slot == load.slot) = some load ∧
          (songUnder count).loader.owner = some (.cue load.slot)) := by decide +kernel

/-- The last byte of the directory, and the last byte of a guarded record. -/
theorem witness_GuardedBytesAreUnchanged :
    let p := withScene running .current .guarded
    let s : State := { sys p with pending := [.hostWrite 0x101F 5] }
    p.engine = .running ∧ s.hostFree ∧ p.areasInside ∧ ¬p.ownArea 0x1FF ∧ ¬p.ownArea 0x203F ∧
      p.touched (0x203F - 0x203F % 2) ≠ [] ∧ p.watch.region.effective (0x203F - 0x203F % 2) = .guarded ∧
      (∀ interval, s.pending.head? ≠ some (.powerOnReset interval)) ∧ completes s := by
  refine ⟨rfl, by unfold State.hostFree; decide, ⟨rfl, by decide, fun c h => by cases h; decide⟩, ?_, ?_,
    by decide +kernel, by decide +kernel, nofun, ⟨_, rfl⟩⟩
  · rintro (h | ⟨c, h, hc⟩)
    · exact absurd h (by decide)
    · cases h; exact absurd hc (by decide)
  · rintro (h | ⟨c, h, hc⟩)
    · exact absurd h (by decide)
    · cases h; exact absurd hc (by decide)

theorem witness_StepKeepsMemoryForm :
    State.reset.mem.wf = true ∧ State.reset.part.areasKept ∧ completes { State.reset with pending := [.hostWrite 0 5] } :=
  ⟨rfl, ⟨⟨rfl, by decide, nofun⟩, nofun⟩, ⟨_, rfl⟩⟩

theorem witness_StepKeepsTheBounds :
    State.reset.part.queuesBounded ∧ State.reset.part.tableBounded ∧ State.reset.part.acceptedBounded ∧
      completes { State.reset with pending := [.byteBoundary 7] } :=
  ⟨by unfold Part.queuesBounded; decide, Nat.zero_le _, Nat.zero_le _, ⟨_, rfl⟩⟩

/-- No requester; the first, second and third of the rotation; the host past its limit; Starting's first word; the
journal's head and an entry's first word. -/
theorem witness_EngineGrantsTakeTurns :
    let none' := running
    let heads : Part := { running with notice := { running.notice with headPending := true } }
    let reads : Part := { turnOf { Part.reset with engine := .starting, starting := .reading [] } .sceneLoader with tdm := Vector.replicate 8 0 }
    let entry : Part := { running with notice := { running.notice with accepted := [⟨.clockFallback, running.stamp⟩] } }
    (∀ r ∈ [Requester.cueUnit, .sceneLoader, .noticeUnit], none'.accessOf r = none) ∧
      (heads.accessOf .noticeUnit).isSome = true ∧ heads.accessOf .cueUnit = none ∧
      (reads.starting = .reading [] ∧ reads.arbiter.rotation = .sceneLoader ∧ ([] : List Byte).length + 4 < 512) ∧
      (entry.notice.headPending = false ∧ entry.notice.wordsDone < 4 ∧
        (turnOf entry .noticeUnit).arbiter.rotation = .noticeUnit) ∧
      (let s : State := sys { running with arbiter := ⟨.cueUnit, 8, 8⟩ }
       ¬s.hostFree ∧ 0 < s.part.arbiter.hostRunLimit ∧ ∃ t, exec .engineWordAccess s = .next t) := by
  refine ⟨by decide, by decide, by decide, by decide, by decide, by unfold State.hostFree; decide, by decide, ⟨_, rfl⟩⟩

/-- The state byte and the last halfword of the last slot; host-owned, posted and armed; an armed cue between others whose switch
is held and that owns the shadow, with an entry waiting for it. -/
theorem witness_BoardWritesPostAndWithdraw :
    let s := sys running
    let p := withArm running (armed (.tapFollow true))
    s.mem.wf = true ∧ s.hostFree ∧ running.engine = .running ∧
      2 * (0x3F0 : BitVec 17).toNat = running.layout.cueBoard + 32 * (31 : Fin 32).val + 0 ∧
      2 * (0x3FF : BitVec 17).toNat = running.layout.cueBoard + 32 * (31 : Fin 32).val + 30 ∧
      (halfwordBytes .leastFirst 7).1 = 7 ∧ (halfwordBytes .leastFirst 1).1 = 1 ∧
      running.watch.owners[(31 : Fin 32)] = .host ∧
      (posted.watch.owners[(0 : Fin 32)] ≠ .host ∧ posted.cues.arms = [] ∧ posted.cues.writes = []) ∧
      (p.watch.owners[(5 : Fin 32)] ≠ .host ∧ p.cues.arms = [armed (.tapFollow true)] ∧ p.heldSlot = none ∧
        p.loader.owner ≠ some (.cue 5)) ∧
      (let jump := armed (.sectionJump 1)
       let other (slot : Fin 32) := { armed (.tapFollow true) with slot := slot }
       let q := holding (switching jump (some scene3) none) (.cue 5) 3
       let x : Part := { q with
         cues := { CueUnit.reset with arms := [other 6] ++ jump :: [other 7], writes := [⟨6, [.state .waiting], false, false⟩] }
         loader := { q.loader with late := some ⟨0, 9, .park, true, true, none⟩ } }
       (∀ w ∈ x.cues.writes, w.slot ≠ 5) ∧ x.cues.arms = [other 6] ++ jump :: [other 7] ∧ jump.slot = 5 ∧
        (∀ b ∈ [other 6], b.slot ≠ 5) ∧ x.loader.held = some ⟨.cue 5, 3⟩ ∧ x.loader.owner = some (.cue 5) ∧
        x.loader.late = some ⟨0, 9, .park, true, true, none⟩ ∧ q.loader.late = none ∧
        (x.sectionAt x.pointer.startSection).isSome = true) := by
  unfold State.hostFree; decide

/-- A posted slot to take, none to take, and the last word of slots of each outcome: the kinds without a meaning, a TapFollow,
each parameter outside its range, each state that is not ready, and a target the song does not have (R138 to R140). -/
theorem witness_TakeReadsDecideTheCue :
    let slot := cueSlot 6 0 [1]
    let p := taking posted slot
    (posted.cues.posted = 0 :: [] ∧ posted.cues.take = none ∧ posted.cues.writes = []) ∧ running.cues.posted = [] ∧
      p.cues.take = some { slot := 0, bytes := slot } ∧ p.cues.posted = 0 :: [] ∧ p.arbiter.rotation = .cueUnit ∧
      (0 : Fin 32) ∉ ([] : List (Fin 32)) ∧ slot.length = 28 ∧ p.cues.arms = [] ∧ p.loader.held = none ∧
      ({ p with timeline := playing.timeline }).clockRuns = true ∧
      ([0, 12, 15, 16, 6].map fun kind => takenAs running (cueSlot kind 0 [1])) =
        [some .blank, some .reserved, some .reserved, some .unknown, some .ok] ∧
      (∀ bytes ∈ [cueSlot 6 4 [1], cueSlot 1 0 [128], cueSlot 1 0 [0, 16], cueSlot 2 0 [16], cueSlot 3 0 [2],
          cueSlot 3 0 [1, 2], cueSlot 4 0 [4], cueSlot 6 0 [2], cueSlot 7 0 [8], cueSlot 7 0 [0, 128],
          cueSlot 7 0 [0, 0, 128], cueSlot 7 0 [0, 0, 0, 128], cueSlot 7 0 [0, 0, 0, 0, 128], cueSlot 8 0 [4, 0, 1],
          cueSlot 8 0 [0, 0, 0, 0], cueSlot 8 0 [0, 0, 1, 8], cueSlot 8 0 [0, 0, 1, 0, 2],
          cueSlot 8 0 [0, 0, 3, 0, 0xFC, 0xFF, 3], cueSlot 10 0 [0, 0, 0, 0, 2], cueSlot 10 0 [0, 0, 0, 0, 0xC4, 0xFF, 3],
          cueSlot 11 0 [2]], bytes.length = 28 ∧ takenAs running bytes = some .badParam) ∧
      (∀ bytes ∈ [cueSlot 2 0 [0], cueSlot 3 0 [0], cueSlot 4 0 [0], cueSlot 4 0 [1], cueSlot 4 0 [2], cueSlot 4 0 [3],
          cueSlot 9 0 []], takenAs running bytes = some .notReady) ∧
      takenAs { playing with loader := { playing.loader with owner := some (.lookahead 3) } } (cueSlot 9 0 []) =
        some .notReady ∧
      (playing.pointer.loaded = true ∧ playing.sectionCount = 2 ∧ takenAs playing (cueSlot 2 0 [2]) = some .badParam) := by
  decide +kernel

/-- TakeReadsDecideTheCue, the arm list: full with and without a scene-changing cue (R140); a TapFollow behind seven others;
and a scene-changing cue before a SongLoad, and before jumps with a fetch and without one (R142). -/
theorem witness_ArmedCuesAreSuperseded :
    let other (slot : Fin 32) : ArmedCue := { armed (.tapFollow true) with slot := slot, due := false, wait := .bar }
    let old := armed (.sectionJump 1)
    let seven := [other 1, other 2, other 3, other 4, other 6, other 7, other 8]
    let p (arms : List ArmedCue) (owner : Option ShadowOwner) (sections : List SongSection) : Part :=
      { playing with
        cues := { playing.cues with arms := arms }
        loader := { playing.loader with activeSong := some { song1 with sections := sections }, owner := owner } }
    let sec : SongSection := { ramped with scene := some 9 }
    let q := p (seven ++ [old]) (some (.cue 5)) [ramped, sec]
    takenAs (p (seven ++ [other 9]) none [ramped]) (cueSlot 1 0 [0]) = some .armFull ∧
      takenAs (p (seven ++ [old]) none [ramped]) (cueSlot 6 1 [1]) = some .armFull ∧
      (seven.length < 8 ∧ (∀ b ∈ seven ++ [old], b.slot ≠ 0) ∧ playing.clockRuns = true) ∧
      ((seven ++ [old]).filter (·.cue.sceneChanging) = [old] ∧ (seven ++ [old]).length = 8) ∧
      (q.loader.owner = some (.cue old.slot) ∧ q.pointer.loaded = true ∧ q.sectionAt 1 = some sec ∧
        sec.scene = some 9 ∧ q.loader.activeScene.map (·.number) ≠ some 9 ∧ q.sectionAt 0 = some ramped ∧
        ramped.scene = none ∧ q.loader.trigger = none ∧ q.loader.late = none ∧ Boundary.bar ≠ .now) ∧
      [cueSlot 1 0 [127, 15, 1], cueSlot 2 3 [1], cueSlot 2 2 [0]].map (takenAs q) =
        [some .superseded, some .superseded, some .superseded] := by decide +kernel

/-- TakeReadsDecideTheCue, arming: a slot of every kind with its parameters inside their ranges is armed, or executed where it
is due and ready; a first SongLoad and SectionJump, with the shadow free and with a lookahead, a refresh or no cue owning it; and
a Remap, whose read begins. The armed list's length after the act is what is compared. -/
theorem witness_CuesAreArmed :
    let song := { song1 with sections := [ramped, { ramped with scene := some 9 }] }
    let p (owner : Option ShadowOwner) : Part := { playing with
      loader := { playing.loader with activeSong := some song, owner := owner } }
    let arms (p : Part) (bytes : List Byte) := (after .takeReadComplete (sys (taking p bytes))).cues.arms.length
    let old := armed (.sectionJump 1)
    let held : Part := { p none with cues := { CueUnit.reset with arms := [old] } }
    (∀ bytes ∈ [cueSlot 1 2 [127, 15, 1], cueSlot 2 3 [1], cueSlot 2 1 [0], cueSlot 3 1 [0], cueSlot 3 1 [1, 1],
        cueSlot 4 1 [1], cueSlot 4 1 [2], cueSlot 5 1 [0xFF, 0xFF, 0xFF, 0xFF, 1], cueSlot 6 1 [1],
        cueSlot 7 1 [7, 127, 127, 127, 127, 255, 1], cueSlot 8 1 [3, 0, 0, 8, 0, 0xF0, 3], cueSlot 9 1 [],
        cueSlot 10 1 [0, 0, 0, 0, 0xC0, 0xFF, 3], cueSlot 11 1 [1]], bytes.length = 28 ∧ arms (p none) bytes = 1) ∧
      (arms (p none) (cueSlot 6 0 [1]) = 0 ∧ arms (p none) (cueSlot 10 0 []) = 1 ∧
        arms { p none with timeline := { playing.timeline with clock := .parked } } (cueSlot 1 3 [1, 1]) = 1) ∧
      (∀ o ∈ [ShadowOwner.lookahead 9, .refreshSong false, .refreshScene],
        (p (some o)).loader.owner = some o ∧ arms (p (some o)) (cueSlot 2 2 [1]) = 1) ∧
      ((p none).sectionAt 0 = some ramped ∧ ramped.scene = none ∧ (p none).cues.arms = [] ∧
        held.cues.arms.filter (·.cue.sceneChanging) = [old] ∧ held.loader.owner ≠ some (.cue 5) ∧
        (∀ b ∈ held.cues.arms, b.slot ≠ 0) ∧ arms held (cueSlot 2 2 [0]) = 1) ∧
      (resident .current).state ≠ .stale ∧ (resident .stale).state = .stale ∧
      (holding (p (some (.lookahead 9))) (.entry 0 9 .sectionEntry none) 3).loader.held =
        some ⟨.entry 0 9 .sectionEntry none, 3⟩ := by
  decide +kernel

/-- One due cue behind one that waits, for each kind; nothing due; and a due cue behind a held one. -/
theorem witness_CuesTakeEffect :
    let waits : ArmedCue := { armed (.vampSet) with slot := 6, due := false, wait := .bar }
    let p (cue : Cue) : Part := { withArm playing (armed cue) with
      cues := { CueUnit.reset with arms := [waits] ++ armed cue :: [{ armed .vampSet with slot := 7 }] } }
    let jump := armed (.sectionJump 1)
    (∀ b ∈ running.cues.arms, b.due = false ∨ b.working = true) ∧
      ((holding (withArm playing jump) (.cue 5) 3).cues.arms = [] ++ jump :: [] ∧
        (holding (withArm playing jump) (.cue 5) 3).loader.held = some ⟨.cue jump.slot, 3⟩) ∧
      (∀ cue ∈ [Cue.tapFollow false, .tempoSet 65535 65535 true, .mixSet 7 ⟨127, 0, 0, 0⟩ 255 true,
          .clickSoundLoad 3 0x3FFFC 1, .clockSelect .internal, .clockSelect .external, .vampSet, .vampRelease false,
          .vampRelease true, .transport .start, .transport .pause, .transport .resume, .transport .stop, .sectionJump 15,
          .sceneRefresh, .remap 0x3000],
        (p cue).cues.arms = [waits] ++ armed cue :: [{ armed .vampSet with slot := 7 }] ∧ waits.due = false ∧
          (armed cue).due = true ∧ (armed cue).working = false ∧
          (p cue).loader.held = none ∧ (p cue).cues.writes = []) ∧
      (let w : WriteItem := ⟨5, [.state .waiting], false, false⟩; w.slot = jump.slot ∧ w.result = false) ∧
      playing.clockRuns = true ∧ running.clockRuns = false ∧
      (running.timeline.source = .internal ∧ running.timeline.monitor = .absent) ∧
      ({ Timeline.reset with monitor := .present }).monitor = .present ∧
      (playing.inLastBar = false ∧ playing.loader.trigger = none) ∧ running.isStale .activeSong = false ∧
      running.isStale .activeScene = false ∧
      ({ armed (.remap 0x3000) with table := some RegionTable.reset }).table = some RegionTable.reset ∧
      (∀ role ∈ allRoles, running.resident role = none) := by decide

/-- CuesTakeEffect, Vamp Set in a bar that is the last, by the leave mark too; Vamp Release: no trigger given; one given for a section without a scene, for one whose scene is to be
fetched, for the song's end, and while a section switch is late. -/
theorem witness_VampRelease :
    let p := playing
    let scened : Part := { p with loader := { p.loader with
      activeSong := some { song1 with sections := [ramped, { ramped with scene := some 9 }] } } }
    (p.pointer.phase = .song ∧ p.timeline.clock ≠ .idle ∧ p.timeline.clock ≠ .parked) ∧ p.pointer.vamp = false ∧
      p.loader.trigger = none ∧ p.pointer.sectionIndex + 1 < p.sectionCount ∧ p.sceneOf 1 = none ∧
      scened.sceneOf 1 = some 9 ∧ scened.loader.activeScene.map (·.number) ≠ some 9 ∧
      (scened.loader.owner = none ∧ scened.loader.late = none ∧ scened.loader.held = none) ∧
      ¬({ p with pointer := { p.pointer with sectionIndex := 1 } }).pointer.sectionIndex + 1 < p.sectionCount ∧
      ({ p.loader with late := some ⟨1, 3, .sectionEntry, false, false, some 0⟩ }).late ≠ none ∧
      (let marked : Part := { p with pointer := { p.pointer with leave := true } }
       marked.inLastBar = true ∧ marked.pointer.phase = .song ∧ marked.sceneOf marked.pointer.sectionIndex = none ∧
         ({ p.pointer with bar := ramped.bars }).bar = ramped.bars) := by decide

/-- CuesTakeEffect, Transport: the clock states that fit and those that do not, the start section with and without a scene
to fetch, and an override with Keep. -/
theorem witness_TransportCues :
    let p := playing
    let scened : Part := { p with loader := { p.loader with
      activeSong := some { song1 with sections := [{ ramped with scene := some 9 }] } } }
    (p.clockRuns = true ∧ p.loader.late = none ∧ p.timeline.startPending = false) ∧
      ({ p.timeline with clock := .paused }).clock = .paused ∧ ({ p.timeline with clock := .parked }).clock = .parked ∧
      (p.sectionAt p.pointer.startSection = some ramped ∧ p.loader.owner = none ∧ ramped.scene = none) ∧
      (scened.sectionAt 0 = some { ramped with scene := some 9 } ∧
        scened.loader.activeScene.map (·.number) ≠ some 9) ∧
      ({ p.timeline with plan := some ⟨12000, 13000, 2, 0, true⟩ }).plan = some ⟨12000, 13000, 2, 0, true⟩ ∧
      TransportAction.start.fits .playing = false ∧ TransportAction.pause.fits .paused = false ∧
      TransportAction.resume.fits .parked = false ∧ TransportAction.stop.fits .idle = false := by decide

/-- A jump due on a Section announcement that finds, behind a Pause of that boundary, that it needs a fetch is late by one
boundary and due at once; one due at once has missed none (R125, R126). -/
theorem test_late_jump_behind_pause :
    let scened : Part := { playing with
      timeline := { playing.timeline with clock := .paused }
      loader := { playing.loader with activeSong := some { song1 with sections := [ramped, { ramped with scene := some 9 }] } } }
    let jump := { armed (.sectionJump 1) with boundary := .newSection, wait := .newSection }
    let after (a : ArmedCue) := ((withArm scened a).executeJump a 1).cues.arms.map fun b => (b.due, b.working, b.missed, b.wait)
    after { jump with atBoundary := true } = [(true, true, 1, .bar)] ∧
      after jump = [(true, true, 0, .newSection)] := by decide

/-- CuesTakeEffect, SectionJump: a section no longer present; one without a scene while Parked, in the count-in, with no
beat open and with the beat open; and one whose scene is to be fetched, due at once and on an announcement, a Section wait too, while the clock runs and not. -/
theorem witness_SectionJumpCues :
    let p := playing
    let at' (clock : ClockState) (beatOpen : Bool) : Part :=
      { p with timeline := { p.timeline with clock := clock, beatOpen := beatOpen } }
    let scened : Part := { p with loader := { p.loader with
      activeSong := some { song1 with sections := [ramped, { ramped with scene := some 9 }] } } }
    p.loader.owner ≠ some (.cue (armed (.sectionJump 1)).slot) ∧ p.sectionCount ≤ 2 ∧
      (p.sectionAt 1 = some ramped ∧ ramped.scene = none ∧ p.loader.trigger = none ∧ 1 < ramped.bars) ∧
      ((at' .parked true).landsAtOnce = false ∧ (at' .countIn true).landsAtOnce = false ∧
        (at' .paused false).landsAtOnce = false ∧ (at' .playing true).landsAtOnce = true) ∧
      (p.loader.owner = none ∧ p.loader.late = none ∧ p.loader.held = none) ∧
      (scened.sectionAt 1 = some { ramped with scene := some 9 } ∧
        scened.loader.activeScene.map (·.number) ≠ some 9) ∧
      (armed (.sectionJump 1)).atBoundary = false ∧
      (let late := { armed (.sectionJump 1) with boundary := .newSection, wait := .newSection, atBoundary := true }
       late.atBoundary = true ∧ late.wait = .newSection ∧ late.due = true) ∧
      (p.clockRuns = true ∧ (at' .paused false).clockRuns = false) := by decide

/-- CuesTakeEffect, SceneRefresh: a Stale song and scene, a Stale scene alone, and the shadow owned. -/
theorem witness_SceneRefreshCues :
    let e := resident .stale
    let p : Part := { playing with watch := { Watch.reset with
      residents := { ResidentSet.reset with activeSong := some e, activeScene := some e } } }
    let q : Part := { playing with watch := { Watch.reset with
      residents := { ResidentSet.reset with activeScene := some e } } }
    (p.isStale .activeSong = true ∧ p.watch.residents.activeSong = some e ∧ e.state = .stale) ∧
      (q.isStale .activeSong = false ∧ q.isStale .activeScene = true ∧ q.watch.residents.activeScene = some e) ∧
      p.loader.owner = none ∧ ({ p.loader with owner := some (.lookahead 3) }).owner ≠ none := by decide

/-- A table of zeros is valid, one with a page of kind 4 is not. -/
theorem witness_RemapReadChecksTheTable :
    let a : ArmedCue := { armed (.remap 0x3000) with working := true, read := some (List.replicate 60 0) }
    let p := withArm running a
    p.engine = .running ∧ p.arbiter.rotation = .cueUnit ∧ p.cues.take = none ∧ p.cues.writes = [] ∧ p.cues.arms = [a] ∧
      a.cue = .remap 0x3000 ∧ (List.replicate 60 (0 : Byte)).length = 60 ∧
      parseRegion .leastFirst (List.replicate 60 0 ++ State.reset.mem.readWord (0x3000 + 60)) ≠ none ∧
      parseRegion .leastFirst (4 :: List.replicate 59 0 ++ State.reset.mem.readWord (0x3000 + 60)) = none := by
  decide +kernel

/-- The last word of a sound of two samples, in a load and in a refresh in place, of a lookahead's scene and of a SongLoad's; of a SongLoad's song whose start
section asks for a scene, and of one that keeps it. -/
theorem witness_FetchesComplete :
    let e : Resident := ⟨.click, 3, 0x3000, 4, .refreshing, 0⟩
    let f : ClickFetch := ⟨.load, 0x3000, 2, 1, 0⟩
    let sound : Part := turnOf { running with
      loader := { Loader.reset with clickFetches := (Vector.replicate 4 none).set 3 (some f) }
      watch := { Watch.reset with residents := { ResidentSet.reset with
        clicks := (Vector.replicate 4 none).set 3 (some e) } } } .sceneLoader
    let fetching (o : ShadowOwner) (g : ShadowFetch) (set : ResidentSet) : Part := turnOf { running with
      loader := { Loader.reset with fetch := some g, owner := some o }
      watch := { Watch.reset with residents := set } } .sceneLoader
    let r := resident .refreshing
    let read := 1 :: List.replicate 19 (0 : Byte)
    let g : ShadowFetch := ⟨.sceneRecord, false, true, 0, 3, none, false, 0x2000, read, 0⟩
    let scene (o : ShadowOwner) := fetching o g { ResidentSet.reset with shadowScene := some r }
    let song (flags : Byte) : List Byte := 1 :: List.replicate 15 0 ++ [2, 4, 1, 0, 0, 0, 0, 0, 9, flags, 0, 0]
    let h (flags : Byte) : ShadowFetch := ⟨.songRecord, true, true, 1, 0, some 0, false, 0x2000, song flags, 0⟩
    (sound.loader.nextTurn = some 4 ∧ FetchUnit.ofTurn 4 = .click 3 ∧ f.done + 1 = f.words ∧
      (f.kind ≠ .starting ∧ f.kind ≠ .refresh ∧ ({ f with kind := .refresh }).kind ≠ .starting) ∧
      sound.watch.residents.clicks[(3 : Fin 4)] = some e ∧ f.length % 2 = 0 ∧ sound.starting = .none) ∧
      FetchUnit.ofTurn 0 = .shadow ∧
      (∀ p ∈ [scene (.lookahead 3), scene (.cue 5)],
        p.loader.nextTurn = some 0 ∧ p.loader.fetch = some g ∧ g.also = false ∧ p.loader.late = none ∧
          p.loader.ready = false ∧ p.watch.residents.shadowSong = none ∧ p.watch.residents.shadowScene = some r ∧
          p.cues.writes = []) ∧
      (let bytes := read ++ State.reset.mem.readWord (g.base + read.length)
       g.stage = .sceneRecord ∧ sceneCheck g.base bytes = none ∧
        bytes.length = 8 + 16 * (bytes.getD 0 0).toNat + 4 * (bytes.getD 1 0).toNat) ∧
      (∀ x ∈ [((0 : Byte), some 9), (1, none)],
        let bytes := song x.1 ++ State.reset.mem.readWord (0x2000 + (song x.1).length)
        let p := fetching (.cue 5) (h x.1) { ResidentSet.reset with shadowSong := some r }
        p.loader.nextTurn = some 0 ∧ songCheck 0x2000 (some 0) bytes = none ∧
          bytes.length = 16 + 16 * (bytes.getD 0 0).toNat ∧
          (parseSong .leastFirst 1 bytes).sections[0]?.map (·.scene) = some x.2) := by
  decide +kernel

/-- FetchesComplete, a refresh: the last word of a scene's; of a song's, with a Stale scene next and without, and with the
section of the pointer gone. -/
theorem witness_RefreshesComplete :
    let r := resident .refreshing
    let refreshing (o : ShadowOwner) (g : ShadowFetch) (set : ResidentSet) : Part := turnOf { playing with
      loader := { playing.loader with fetch := some g, owner := some o }
      watch := { Watch.reset with residents := set } } .sceneLoader
    let scene : ShadowFetch :=
      ⟨.sceneRecord, false, false, 0, 3, none, false, 0x2000, 1 :: List.replicate 19 (0 : Byte), 0⟩
    let song : ShadowFetch := ⟨.songRecord, false, false, 1, 0, none, false, 0x2000,
      1 :: List.replicate 15 (0 : Byte) ++ [2, 4, 1, 0, 0, 0, 0, 0, 9, 0, 0, 0], 0⟩
    let p := refreshing .refreshScene scene { ResidentSet.reset with activeScene := some r, shadowScene := some r }
    let q (next : Bool) (stale : Option Resident) := refreshing (.refreshSong next) song
      { ResidentSet.reset with activeSong := some r, shadowSong := some r, activeScene := stale }
    let bytes := song.bytes ++ State.reset.mem.readWord (0x2000 + song.bytes.length)
    (p.loader.nextTurn = some 0 ∧ p.watch.residents.shadowScene = some r ∧ r.state = .refreshing ∧
      p.watch.residents.shadowSong = none ∧ p.loader.late = none) ∧
      (∀ x ∈ [q true (some (resident .stale)), q true none, q false none],
        x.loader.nextTurn = some 0 ∧ x.watch.residents.shadowSong = some r ∧ x.watch.residents.shadowScene = none ∧
          x.loader.late = none) ∧
      (songCheck 0x2000 none bytes = none ∧ bytes.length = 32 ∧
        (parseSong .leastFirst 1 bytes).sections.length = 1 ∧
        playing.pointer.sectionIndex < 1 ∧ 1 ≤ ({ playing.pointer with sectionIndex := 1 }).sectionIndex) := by
  decide +kernel

/-- FetchesComplete, a fetch that fails: the word of each condition of R116 and its outcome, and each owner. -/
theorem witness_FetchesFail :
    let songs : List (List Byte × CueOutcome) :=
      [([0, 0, 0, 0], .badSong), ([17, 0, 0, 0], .badSong), ([1, 0, 0, 0], .badParam),
        (1 :: List.replicate 15 0 ++ [2, 4, 5, 0], .badSong)]
    let scenes : List (List Byte) :=
      [[0, 0, 0, 0], [9, 0, 0, 0], [1, 33, 0, 0], [1, 1] ++ List.replicate 22 0 ++ [0, 3, 0, 0],
        [1, 32] ++ List.replicate 22 0 ++ (List.replicate 17 [0, 1, 0, 0]).flatten]
    (songs.map fun x => songCheck 0x2000 (some 1) x.1) = songs.map (fun x => some x.2) ∧
      songCheck 0x3FFF0 (some 0) [1, 0, 0, 0] = some .badSong ∧
      (scenes.map (sceneCheck 0x2000)) = scenes.map (fun _ => some .badScene) ∧
      (State.reset.mem.readWord 0x800 = [0, 0, 0, 0]) ∧
      (∀ o ∈ [ShadowOwner.cue 5, .lookahead 3, .refreshSong false, .refreshScene],
        ({ running.loader with owner := some o }).owner = some o ∧ ({ running.loader with owner := some o }).late = none) ∧
      ((withArm running (armed (.songLoad 1 0 false))).cues.arms.find? (fun b => b.slot == 5) =
        some (armed (.songLoad 1 0 false))) ∧
      (withScene running .refreshing .live).watch.residents.activeScene = some (resident .refreshing) ∧
      (resident .refreshing).state ≠ .stale := by decide +kernel

/-- No switch; a switch whose batch has room, with every pedal Up and with one Down; and one whose batch has none. -/
theorem witness_SectionSwitchIsMadeOrHeld :
    let l : Loader := { staged.loader with
      shadowScene := some scene3, owner := some (.lookahead 3), ready := true
      late := some ⟨1, 3, .sectionEntry, false, true, some 2⟩ }
    let full := withVoice staged { openPort with queue := List.replicate 64 [0xF8] }
    (running.loader.late = none ∧ running.cues.arms = []) ∧ l.ready = true ∧ l.owner = some (.lookahead scene3.number) ∧
      l.shadowScene = some scene3 ∧ l.shadowSong = none ∧ l.trigger = none ∧ staged.voices.batchFits scene3.setup = true ∧
      full.voices.batchFits scene3.setup = false ∧ staged.carryDowns (some scene3) = [] ∧
      (pedalDown staged).carryDowns (some scene3) = [(0, [0xB0, 64, 127])] ∧
      staged.voices.roomFor (staged.voices.reserve + (scene3.setup.length + 1)) ∧ staged.clockRuns = false := by
  unfold Voices.roomFor; decide

/-- SectionSwitchIsMadeOrHeld, a cue's switch: a SectionJump and a SongLoad, with a scene and with Keep, in time and late,
with room and without; while Idle, Parked and Playing with the beat open and not. -/
theorem witness_CueSwitches :
    let jump := armed (.sectionJump 1)
    let load := { armed (.songLoad 127 1 true) with missed := 255 }
    let full := withVoice staged { openPort with queue := List.replicate 64 [0xF8] }
    (∀ q ∈ [switching jump (some scene3) none, switching load (some scene3) (some song1), switching load none (some song1)],
      q.loader.late = none ∧ q.loader.held = none ∧ q.loader.owner = some (.cue 5) ∧ q.cues.writes = [] ∧
        q.loader.trigger = none) ∧
      ((switching jump (some scene3) none).cues.arms = [jump] ∧ jump.slot = 5 ∧ jump.cue.sceneChanging = true ∧
        1 < (switching jump (some scene3) none).sectionCount ∧
        (pedalDown (switching jump (some scene3) none)).carryDowns (some scene3) ≠ []) ∧
      (load.due = true ∧ load.working = false ∧ load.cue.sceneChanging = true ∧ 0 < load.missed) ∧
      staged.voices.batchFits scene3.setup = true ∧ full.voices.batchFits scene3.setup = false ∧
      staged.voices.batchFits [] = true ∧ staged.timeline.clock = .idle ∧
      (playing.timeline.clock = .playing ∧ playing.timeline.beatOpen = true ∧
        ({ playing.timeline with beatOpen := false }).beatOpen = false) ∧
      (switching jump (some scene3) none).cueFits jump (some scene3) ∧
      (switching load (some scene3) (some song1)).cueFits load (some scene3) ∧
      (switching load none (some song1)).cueFits load none :=
  ⟨by decide, by decide, by decide, by decide, by decide, by decide, by decide, by decide,
    .inl ⟨1, { ramped with scene := some 3 }, by unfold Part.jumpFits; decide⟩,
    .inr ⟨127, 1, true, song1, ramped, by unfold Part.songFits; decide⟩,
    .inr ⟨127, 1, true, song1, ramped, by unfold Part.songFits; decide⟩⟩

/-- A result and a journal entry finished, Running, and Stopping with nothing left and with an entry left; a Gap let in, and one
for which there is no room. -/
theorem witness_FinishedWritesAreReported :
    let item : WriteItem := ⟨31, [.state .done], true, true⟩
    let p : Part := { running with cues := { CueUnit.reset with writes := [item] } }
    let q : Part := turnOf { running with notice := { running.notice with
      accepted := [⟨.clockFallback, running.stamp⟩], wordsDone := 4 } } .noticeUnit
    (p.arbiter.rotation = .cueUnit ∧ p.cues.take = none ∧ p.cues.writes = item :: [] ∧ item.words = [.state .done] ∧
      item.result = true) ∧
      (q.arbiter.rotation = .noticeUnit ∧ q.notice.config = some { base := 0x1000, size := 64, threshold := 1 } ∧
        q.notice.headPending = false ∧ q.notice.accepted = [⟨.clockFallback, running.stamp⟩] ∧ q.notice.wordsDone = 4 ∧
        q.notice.unwritten = 0) ∧
      (∀ x ∈ [p, q], x.engine = .running ∧ ({ x with engine := .stopping }).engine = .stopping) ∧
      (({ running with engine := .stopping }).allSent ∧ ¬q.allSent) ∧
      (let left (n : Nat) (m : Word) : Notice := { q.notice with written := m, accepted := [], unwritten := n }
       0 < (left 3 63).unwritten ∧ ((left 3 63).written - (left 3 63).taken).toNat + 0 < 64 ∧
        ¬((left 3 64).written - (left 3 64).taken).toNat + 0 < 64) := by
  unfold Part.allSent; decide

/-- Room and none; both halves of the taken-count word; an unwritten count with room and without. -/
theorem witness_JournalRoomFollowsTheCounts :
    let c : JournalConfig := { base := 0x1000, size := 64, threshold := 1 }
    let n := running.notice
    let lost : Notice := { n with written := 64, unwritten := 3, overflow := true }
    (sys running).mem.wf = true ∧ (sys running).hostFree ∧ n.config = some c ∧
      ((n.written - n.taken).toNat + n.accepted.length < c.size ∧ n.accepted.length < 16) ∧
      ¬((lost.written - lost.taken).toNat + lost.accepted.length < c.size) ∧ 0 < lost.unwritten ∧
      2 * (0x802 : BitVec 17).toNat = c.base + 4 ∧ 2 * (0x803 : BitVec 17).toNat = c.base + 6 ∧
      running.layout.cueBoard + 1024 ≤ 2 * (0x802 : BitVec 17).toNat := by
  unfold State.hostFree; decide

end Sys2Proof.Tests
end

section
/-! PROOFS. The layer router: the zone of a layer (R68, R69) and the output velocity (R71). -/

namespace Sys2Proof.Machine

/-! ### The zone tests and the zone (R68, R69) -/

section Zone

variable {key velocity : Nat}

theorem ZoneTest.passes_of_any {t : ZoneTest} (h : t.compare = .any) : t.passes key velocity = true := by
  rw [ZoneTest.passes_iff, h]
  trivial

/-- The note of R68 on the velocity tests of value 1: a note-on has a velocity of at least 1. -/
theorem ZoneTest.passes_velocity_one {t : ZoneTest} (hs : t.subject = .velocity) (hv : t.value = 1)
    (h1 : 1 ≤ velocity) :
    (t.compare = .below → t.passes key velocity = false) ∧
      (t.compare = .atOrAbove → t.passes key velocity = true) := by
  constructor <;> intro hc
  · rw [Bool.eq_false_iff, ne_eq, ZoneTest.passes_iff, hc, hs, hv]
    exact Nat.not_lt.mpr h1
  · rw [ZoneTest.passes_iff, hc, hs, hv]
    exact h1

variable {l : Layer}

theorem Layer.zonePasses_iff_of_and (h : l.combine = .and) :
    l.zonePasses key velocity = true ↔ l.testA.passes key velocity = true ∧ l.testB.passes key velocity = true := by
  simp [Layer.zonePasses, h]

theorem Layer.zonePasses_iff_of_or (h : l.combine = .or) :
    l.zonePasses key velocity = true ↔ l.testA.passes key velocity = true ∨ l.testB.passes key velocity = true := by
  simp [Layer.zonePasses, h]

theorem Layer.zonePasses_of_both (ha : l.testA.passes key velocity = true) (hb : l.testB.passes key velocity = true) :
    l.zonePasses key velocity = true := by
  cases h : l.combine with
  | and => exact (zonePasses_iff_of_and h).mpr ⟨ha, hb⟩
  | or => exact (zonePasses_iff_of_or h).mpr (.inl ha)

end Zone

/-! ### What a layer gives (R68 to R72) -/

section Route

variable {l : Layer} {player : Fin 4} {key velocity : Nat}

theorem Layer.route_eq_some_iff {n : RoutedNote} :
    l.route player key velocity = some n ↔
      l.listens player = true ∧ l.zonePasses key velocity = true ∧
        ∃ out, l.outputKey key = some out ∧
          n = { dest := l.dest, key := out, velocity := l.outputVelocity velocity } := by
  simp [Layer.route, and_assoc, eq_comm (a := n)]

theorem Layer.route_eq_none_of_zone_fails (h : l.listens player = true → l.zonePasses key velocity = false) :
    l.route player key velocity = none := by
  refine Option.eq_none_iff_forall_ne_some.mpr fun n hn => ?_
  obtain ⟨hlistens, hzone, -⟩ := route_eq_some_iff.mp hn
  exact absurd hzone (Bool.eq_false_iff.mp (h hlistens))

theorem Layer.listens_of_sources_empty (h : l.sources = 0) : l.listens player = false := by
  rw [Layer.listens, h]
  exact BitVec.getLsbD_zero

theorem routeNote_eq_nil {layers : List Layer} (h : ∀ m ∈ layers, m.route player key velocity = none) :
    routeNote layers player key velocity = [] := by
  rw [routeNote, List.filterMap_eq_nil_iff.mpr h]
  rfl

end Route

/-- Settles O36, from the compares of the tests and the two combines. -/
theorem zoneCombinesTwoTests : Obligations.ZoneCombinesTwoTests := by
  intro l player key velocity layers a b zone
  refine ⟨fun t => ⟨t.passes_iff key velocity, ZoneTest.passes_velocity_one⟩, rfl, fun hempty => ?empty,
    Layer.zonePasses_iff_of_and, Layer.zonePasses_iff_of_or, fun hA hB => ?bothAny,
    fun hA => ⟨fun hor => ?anyAOr, fun hand => ?anyAAnd⟩, fun hB => ⟨fun hor => ?anyBOr, fun hand => ?anyBAnd⟩,
    ?route, fun hfails => ?outside⟩
  case empty =>
    exact Layer.route_eq_none_of_zone_fails fun hlistens =>
      absurd hlistens (Bool.eq_false_iff.mp (Layer.listens_of_sources_empty hempty))
  case bothAny => exact Layer.zonePasses_of_both (ZoneTest.passes_of_any hA) (ZoneTest.passes_of_any hB)
  case anyAOr => exact (Layer.zonePasses_iff_of_or hor).mpr (.inl (ZoneTest.passes_of_any hA))
  case anyAAnd => exact (Layer.zonePasses_iff_of_and hand).trans (and_iff_right (ZoneTest.passes_of_any hA))
  case anyBOr => exact (Layer.zonePasses_iff_of_or hor).mpr (.inr (ZoneTest.passes_of_any hB))
  case anyBAnd => exact (Layer.zonePasses_iff_of_and hand).trans (and_iff_left (ZoneTest.passes_of_any hB))
  case route => simp only [Layer.route, Bool.and_eq_true, zone]
  case outside => exact routeNote_eq_nil fun m hm => Layer.route_eq_none_of_zone_fails (hfails m hm)

/-! ### The output velocity (R71) -/

section Velocity

variable (l : Layer) (v : Nat)

theorem Layer.outputVelocity_eq :
    (l.outputVelocity v : Int) = max 1 (min (((v * l.gain + 32) / 64 : Nat) + l.offset) 127) :=
  Int.toNat_of_nonneg (by omega)

/-- The model's clamp as the three cases of R71: below 1, above 127, and inside the range. -/
theorem max_one_min_eq_clamp (x : Int) : max 1 (min x 127) = if x < 1 then 1 else if 127 < x then 127 else x := by
  split
  · omega
  · split <;> omega

theorem Layer.one_le_outputVelocity : 1 ≤ l.outputVelocity v := by
  have hvalue := l.outputVelocity_eq v
  omega

theorem Layer.outputVelocity_le : l.outputVelocity v ≤ 127 := by
  have hvalue := l.outputVelocity_eq v
  omega

theorem Layer.outputVelocity_eq_max (h : 127 ≤ (((v * l.gain + 32) / 64 : Nat) : Int) + l.offset) :
    l.outputVelocity v = 127 := by
  have hvalue := l.outputVelocity_eq v
  omega

variable {v}

theorem scaledVelocity_le {gain : Nat} (hv : v ≤ 127) (hg : gain ≤ 255) : (v * gain + 32) / 64 ≤ 506 := by
  have hproduct : v * gain ≤ 127 * 255 := Nat.mul_le_mul hv hg
  omega

end Velocity

/-- Settles O37, from the clamp and the scaled velocity at the gains that R71 names. -/
theorem outputVelocityIsScaledAndClamped : Obligations.OutputVelocityIsScaledAndClamped := by
  intro l v scaled clamp
  have hclamp : (l.outputVelocity v : Int) = clamp (scaled + l.offset) :=
    (l.outputVelocity_eq v).trans (max_one_min_eq_clamp _)
  refine ⟨hclamp, Nat.one_le_iff_ne_zero.mp (l.one_le_outputVelocity v), l.outputVelocity_le v, fun hunit => ?unit,
    fun hzero => ?zero, scaledVelocity_le, fun hv hgain hoffset => ?largest, fun player key n hn => ?routed⟩
  case unit =>
    simp only [scaled, hunit]
    omega
  case zero =>
    have hscaled : scaled = 0 := by simp [scaled, hzero]
    refine ⟨hscaled, ?_⟩
    rw [hclamp, hscaled, Int.natCast_zero, zero_add]
  case largest =>
    have hscaled : scaled = 506 := by simp [scaled, hv, hgain]
    refine ⟨hscaled, l.outputVelocity_eq_max v ?_⟩
    change 127 ≤ (scaled : Int) + l.offset
    omega
  case routed =>
    obtain ⟨-, -, out, -, rfl⟩ := Layer.route_eq_some_iff.mp hn
    rfl

end Sys2Proof.Machine
end

section
/-! PROOFS. One step, the engine states and the invariants of a step (6.1, 7.1, 10.1, 10.2, 11.2). -/

namespace Sys2Proof.Machine

/-! ### One step, and what every command keeps around the part (11.1, 11.2) -/

/-- Settles O1: a step takes the front command off the queue. -/
theorem stepRunsFrontCommand : Obligations.StepRunsFrontCommand := by
  intro c s
  refine ⟨rfl, fun hempty => ?_⟩
  rw [step, hempty]

theorem step_cases {s t : State} (h : step s = .next t) :
    t = s ∨ ∃ c rest, s.pending = c :: rest ∧ exec c { s with pending := rest } = .next t := by
  unfold step at h
  split at h
  · exact .inl (Host.Outcome.next.inj h).symm
  · next c rest hpending => exact .inr ⟨c, rest, hpending, h⟩

/-- A command goes on to a state with a property where the state that its equation names has it. -/
theorem holds_next {P : State → Prop} {a t : State} (hP : P a)
    (h : (.next a : Host.Outcome State Fault Refusal) = .next t) : P t :=
  Host.Outcome.next.inj h ▸ hP

section Completes

variable {c : Instr} {s : State}

/-- The command completes and keeps what O2 says it keeps. -/
def Completes (c : Instr) (s : State) : Prop :=
  ∃ t, exec c s = .next t ∧ t.pending = s.pending ∧
    ((∀ interval, c ≠ .powerOnReset interval) → t.order = s.order ∧ t.freeCount = s.freeCount ∧
      ((∀ address, c ≠ .hostRead address) → c ≠ .mailOutRead → t.hostData = s.hostData)) ∧
    (reachesMemory c = false → t.mem = s.mem)

theorem completes_of_part {p : Part} (h : exec c s = .next { s with part := p }) : Completes c s :=
  ⟨_, h, rfl, fun _ => ⟨rfl, rfl, fun _ _ => rfl⟩, fun _ => rfl⟩

theorem completes_of_keeps {t : State} (hc : reachesMemory c = true) (h : exec c s = .next t)
    (hkeeps : t.pending = s.pending ∧ t.order = s.order ∧ t.hostData = s.hostData ∧ t.freeCount = s.freeCount) :
    Completes c s := by
  obtain ⟨hpending, horder, hdata, hfree⟩ := hkeeps
  exact ⟨t, h, hpending, fun _ => ⟨horder, hfree, fun _ _ => hdata⟩, fun hnot => absurd hc (by simp [hnot])⟩

theorem completes_of_writeRegister {number : Nat} {value : Halfword}
    (h : exec c s = .next (s.writeRegister number value)) : Completes c s := by
  obtain ⟨p, hp⟩ := writeRegister_part s number value
  exact completes_of_part (hp ▸ h)

theorem completes_of_writeControl {value : Halfword} (h : exec c s = .next (s.writeControl value)) :
    Completes c s := by
  obtain ⟨p, hp⟩ := writeControl_part s value
  exact completes_of_part (hp ▸ h)

theorem hostWrites_keeps (s : State) (address : BitVec 17) (data : Halfword) :
    (s.hostWrites address data).pending = s.pending ∧ (s.hostWrites address data).order = s.order ∧
      (s.hostWrites address data).hostData = s.hostData ∧ (s.hostWrites address data).freeCount = s.freeCount := by
  simp [State.hostWrites]

theorem hostReads_keeps (s : State) (address : BitVec 17) :
    (s.hostReads address).pending = s.pending ∧ (s.hostReads address).order = s.order ∧
      (s.hostReads address).freeCount = s.freeCount := by
  simp [State.hostReads]

theorem completes_powerOnReset (s : State) (interval : ResetInterval) : Completes (.powerOnReset interval) s :=
  ⟨_, exec_powerOnReset s interval, rfl, fun hnot => absurd rfl (hnot interval), nofun⟩

theorem completes_mailOutRead (s : State) : Completes .mailOutRead s :=
  ⟨_, exec_mailOutRead s, rfl, fun _ => ⟨rfl, rfl, fun _ hnot => absurd rfl hnot⟩, fun _ => rfl⟩

theorem completes_hostRead (s : State) (address : BitVec 17) : Completes (.hostRead address) s := by
  obtain ⟨hpending, horder, hfree⟩ := hostReads_keeps s address
  exact ⟨_, exec_hostRead s address, hpending, fun _ => ⟨horder, hfree, fun hnot => absurd rfl (hnot address)⟩, nofun⟩

end Completes

/-- Settles O2: each command answers by its equation, and the grants and the writes of registers keep what stands
beside the part. -/
theorem everyCommandCompletes : Obligations.EveryCommandCompletes := by
  intro c s
  cases c with
  | powerOnReset interval => exact completes_powerOnReset s interval
  | mailOutRead => exact completes_mailOutRead s
  | hostRead address => exact completes_hostRead s address
  | hostWrite address data => exact completes_of_keeps rfl (exec_hostWrite s address data) (hostWrites_keeps s _ _)
  | engineStart value => exact completes_of_writeControl (exec_engineStart s value)
  | engineStop value => exact completes_of_writeControl (exec_engineStop s value)
  | engineReset value => exact completes_of_writeControl (exec_engineReset s value)
  | registerWriteIgnored register value => exact completes_of_writeRegister (exec_registerWriteIgnored s register value)
  | directoryReadComplete => exact completes_of_keeps rfl (exec_directoryReadComplete s) (grantIf_keeps s _)
  | engineWordAccess => exact completes_of_keeps rfl (exec_engineWordAccess s) (engineGrant_keeps s)
  | takeReadComplete => exact completes_of_keeps rfl (exec_takeReadComplete s) (grantIf_keeps s _)
  | fetchComplete => exact completes_of_keeps rfl (exec_fetchComplete s) (grantIf_keeps s _)
  | remapReadComplete => exact completes_of_keeps rfl (exec_remapReadComplete s) (grantIf_keeps s _)
  | cueResultWritten => exact completes_of_keeps rfl (exec_cueResultWritten s) (grantIf_keeps s _)
  | journalEntryWritten => exact completes_of_keeps rfl (exec_journalEntryWritten s) (grantIf_keeps s _)
  | engineBecomesRunning | stoppingDrainEnd | holdExpiry | clockFallback | tapPinRise | takeReadStart | cueExecute
  | sceneSwitch | externalClockAbsent => exact completes_of_part rfl
  | intStatusWrite _ | intMaskWrite _ | panic _ | halt _ | tap _ | whereAmI _ | frameEvent _ | wordClockEdge _
  | settleEnd _ | framingError _ | byteBoundary _ | mailInWrite _ => exact completes_of_part rfl
  | unknownCommand _ _ | byteArrival _ _ => exact completes_of_part rfl

/-! ### The bounds (6.1, 7.1, 7.6, 11.4) -/

section Bounds

variable {s t : State}

theorem bounded_of_next {a : State} (h : (.next a : Host.Outcome State Fault Refusal) = .next t)
    (ha : a.part.bounded) : t.part.bounded :=
  holds_next (P := fun t => t.part.bounded) ha h

theorem bounded_of_part {f : Part → Part}
    (h : (.next (s.withPart f) : Host.Outcome State Fault Refusal) = .next t) (hf : (f s.part).bounded) :
    t.part.bounded :=
  bounded_of_next h hf

theorem State.hostWrites_bounded (address : BitVec 17) (data : Halfword) (h : s.part.bounded) :
    (s.hostWrites address data).part.bounded :=
  Part.decideWrite_bounded _ _ _ (State.giveWay_bounded h)

theorem State.hostReads_bounded (address : BitVec 17) (h : s.part.bounded) : (s.hostReads address).part.bounded :=
  State.giveWay_bounded h

theorem exec_bounded (c : Instr) (h : s.part.bounded) (hexec : exec c s = .next t) : t.part.bounded := by
  cases c with
  | powerOnReset _ => exact bounded_of_next hexec Part.afterReset_bounded
  | engineStart _ | engineStop _ | engineReset _ => exact bounded_of_next hexec (State.writeControl_bounded _ h)
  | engineBecomesRunning => exact bounded_of_part hexec (Part.becomeRunning_bounded h)
  | stoppingDrainEnd => exact bounded_of_part hexec (Part.drainTest_bounded h)
  | registerWriteIgnored _ _ => exact bounded_of_next hexec (State.writeRegister_bounded _ _ h)
  | intStatusWrite _ | intMaskWrite _ => exact bounded_of_next hexec h
  | mailOutRead => exact bounded_of_next hexec (Part.takeCommand_bounded h)
  | panic _ | halt _ | tap _ | whereAmI _ | mailInWrite _ =>
    exact bounded_of_part hexec (Part.writeMailIn_bounded _ h)
  | unknownCommand _ _ => exact bounded_of_part hexec (Part.writeMailIn_bounded _ h)
  | frameEvent _ => exact bounded_of_part hexec (Part.frame_bounded _ h)
  | wordClockEdge _ => exact bounded_of_part hexec (Part.wordClock_bounded _ h)
  | holdExpiry => exact bounded_of_part hexec (Part.expireHold_bounded h)
  | settleEnd _ => exact bounded_of_part hexec (Part.endSettle_bounded _ h)
  | clockFallback =>
    refine bounded_of_next hexec ?_
    simp only [State.withPart, bounded_ite]
    split
    · exact Part.monitorAbsent_bounded h
    · exact h
  | tapPinRise => exact bounded_of_part hexec (Part.tap_bounded h)
  | byteArrival _ _ => exact bounded_of_part hexec (Part.byteArrives_bounded _ _ h)
  | framingError _ => exact bounded_of_part hexec (Part.framingError_bounded _ h)
  | byteBoundary _ => exact bounded_of_part hexec (Part.byteBoundary_bounded _ h)
  | hostWrite _ _ => exact bounded_of_next hexec (State.hostWrites_bounded _ _ h)
  | hostRead _ => exact bounded_of_next hexec (State.hostReads_bounded _ h)
  | engineWordAccess => exact bounded_of_next hexec (State.engineGrant_bounded h)
  | takeReadStart => exact bounded_of_part hexec (Part.startTake_bounded h)
  | directoryReadComplete | takeReadComplete | fetchComplete | remapReadComplete | cueResultWritten
  | journalEntryWritten => exact bounded_of_next hexec (State.grantIf_bounded _ h)
  | cueExecute => exact bounded_of_part hexec (Part.executeNext_bounded h)
  | sceneSwitch => exact bounded_of_part hexec (Part.makeSwitch_bounded h)
  | externalClockAbsent => exact bounded_of_part hexec (Part.monitorAbsent_bounded h)

end Bounds

/-- Settles O51: every command keeps the three bounds, and a step is a command or nothing. -/
theorem stepKeepsTheBounds : Obligations.StepKeepsTheBounds := by
  intro s t hqueues htable haccepted hstep
  have hbounded : s.part.bounded := s.part.bounded_iff.mpr ⟨hqueues, htable, haccepted⟩
  refine t.part.bounded_iff.mp ?_
  obtain rfl | ⟨c, rest, -, hexec⟩ := step_cases hstep
  · exact hbounded
  · exact exec_bounded c (s := { s with pending := rest }) hbounded hexec

/-! ### How the engine moves (11.2)

Every command leaves the engine state, what Starting has read, the layout and the journal's place alone, or makes one
of the acts of 11.2; the end of the drain may come with either. -/

section Engine

variable {p q r : Part} {s t : State}

/-- What Starting has read, the layout, the journal's place and the frame count stay, and so does the engine but for the
drain's end. -/
structure Steady (p q : Part) : Prop where
  engine : q.engine = p.engine ∨ (p.engine = .stopping ∧ q.engine = .stopped)
  starting : q.starting = p.starting
  layout : q.layout = p.layout
  config : q.notice.config = p.notice.config
  frame : q.timeline.frame = p.timeline.frame

theorem Steady.of_outer (h : q.outer = p.outer) : Steady p q :=
  ⟨.inl (congrArg Outer.engine h), congrArg Outer.starting h, congrArg Outer.layout h, congrArg Outer.config h,
    congrArg Outer.frame h⟩

theorem Steady.refl (p : Part) : Steady p p := .of_outer rfl

theorem Steady.trans (h : Steady p q) (k : Steady q r) : Steady p r where
  starting := k.starting.trans h.starting
  layout := k.layout.trans h.layout
  config := k.config.trans h.config
  frame := k.frame.trans h.frame
  engine := by
    obtain hpq | ⟨hp, hq⟩ := h.engine
    · exact hpq ▸ k.engine
    · obtain hqr | ⟨hq', -⟩ := k.engine
      · exact .inr ⟨hp, hqr.trans hq⟩
      · exact absurd (hq.symm.trans hq') (by decide)

theorem drainTest_steady (p : Part) : Steady p p.drainTest := by
  rw [p.drainTest_rest]
  refine ⟨?_, rfl, rfl, rfl, rfl⟩
  rw [p.drainTest_engine]
  split
  · next h => exact .inr ⟨by simp_all, rfl⟩
  · exact .inl rfl

/-- The commands that may be a frame event (R2). -/
def mayCount (c : Instr) : Prop := (∃ order, c = .frameEvent order) ∨ ∃ order, c = .wordClockEdge order

/-- A frame counted while Running (R3), and nothing else. -/
def Part.counted (p : Part) : Part :=
  { p with timeline := { p.timeline with frame := if p.engine = .running then p.timeline.frame + 1 else p.timeline.frame } }

/-- The acts of 11.2: what a command may make of the part. -/
inductive EngineAct (c : Instr) (p q : Part) : Prop
  | steady (h : Steady p q)
  | resets (hc : isReset c = true) (h : q = p.afterReset)
  | starts (he : p.engine = .stopped) (h : q = p.beginStarting)
  | stops (he : p.engine = .running) (h : q = p.enterStopping)
  | counts (hc : mayCount c) (h : Steady p.counted q)
  | runs (d : Directory) (hc : c = .engineBecomesRunning) (hs : p.starting = .loading d) (h : Steady (p.takeDirectory d) q)
  | reads (x : Part) (read word : List Byte) (order : ByteOrder) (hx : Steady p x) (hs : x.starting = .reading read)
      (h : Steady (x.directoryWord order read word) q)

theorem EngineAct.of_outer {c : Instr} (h : q.outer = p.outer) : EngineAct c p q := .steady (.of_outer h)

/-! ### The acts by command -/

theorem writeRun_act (c : Instr) (p : Part) (run : Bool) : EngineAct c p (p.writeRun run) := by
  unfold Part.writeRun
  split
  · next he => exact .starts he rfl
  · next he => exact .stops he rfl
  · exact .steady (.refl p)

theorem writeControl_act {c : Instr} {value : Halfword} (hc : controlReset value = true → isReset c = true)
    (s : State) : EngineAct c s.part (s.writeControl value).part := by
  unfold State.writeControl
  split
  · next h => exact .resets (hc h) rfl
  · exact writeRun_act c s.part _

theorem becomeRunning_act (p : Part) : EngineAct .engineBecomesRunning p p.becomeRunning := by
  unfold Part.becomeRunning
  split
  · next d hs =>
    split
    · refine .runs d rfl hs (.of_outer ?_)
      dsimp only
      split
      · exact Part.fallBack_outer _
      · rfl
    · exact .steady (.refl p)
  · exact .steady (.refl p)

@[simp] theorem Part.mail_steady (p : Part) (m : Mail) : Steady p { p with mail := m } := ⟨.inl rfl, rfl, rfl, rfl, rfl⟩

theorem Part.mailCommand_outer (p : Part) (code : Nat) : (p.mailCommand code).1.outer = p.outer := by
  unfold Part.mailCommand
  split
  · split
    · exact p.panic_outer .mail
    · rfl
  · dsimp only
    split
    · exact p.haltClock_outer
    · rfl
  · exact p.tap_outer
  · rfl
  · rfl

theorem Part.takeCommand_steady (p : Part) : Steady p p.takeCommand := by
  unfold Part.takeCommand
  split
  · dsimp only
    have hdone := Part.mailCommand_outer { p with mail := { p.mail with inFull := false } } (mailCode p.mail.inValue)
    exact (p.mail_steady _).trans (.trans (.of_outer hdone) ⟨.inl rfl, rfl, rfl, rfl, rfl⟩)
  · exact .refl p

theorem Part.writeMailIn_steady (p : Part) (value : Halfword) : Steady p (p.writeMailIn value) := by
  unfold Part.writeMailIn
  split
  · exact .refl p
  · exact .trans (p.mail_steady _) (Part.takeCommand_steady _)

theorem Part.readMailOut_steady (p : Part) : Steady p p.readMailOut :=
  .trans (p.mail_steady _) (Part.takeCommand_steady _)

theorem writeRegister_act (s : State) (register : BitVec 3) (value : Halfword) :
    EngineAct (.registerWriteIgnored register value) s.part (s.writeRegister register.toNat value).part := by
  unfold State.writeRegister
  split
  · next hone =>
    refine writeControl_act (fun hreset => ?_) s
    have : register = 1 := BitVec.eq_of_toNat_eq hone
    simp [isReset, this, hreset]
  · exact .of_outer rfl
  · exact .of_outer rfl
  · exact .steady (Part.writeMailIn_steady _ _)
  · exact .of_outer rfl

theorem Part.takeOverdue_steady (p : Part) : Steady p p.takeOverdue := by
  refine .trans (.of_outer ?_) (drainTest_steady _)
  rw [Part.executeDue_outer, Part.expireHold_outer]
  exact foldl_outer _ Part.endSettle_outer _ _

theorem Steady.counted (h : Steady p q) : Steady p.counted q.counted where
  engine := h.engine
  starting := h.starting
  layout := h.layout
  config := h.config
  frame := by
    have hrunning : q.engine = .running ↔ p.engine = .running := by
      obtain hsame | ⟨hp, hq⟩ := h.engine
      · rw [hsame]
      · simp [hp, hq]
    simp only [Part.counted, hrunning, h.frame]

theorem Part.countFrame_steady (p : Part) : Steady p.counted p.tickCountdowns.countFrame :=
  ⟨.inl rfl, rfl, rfl, rfl, rfl⟩

theorem Part.frame_counted (p : Part) (order : FrameOrder) : Steady p.counted (p.frame order) := by
  have hblocks : (p.frame order).outer = p.takeOverdue.tickCountdowns.countFrame.outer := by
    unfold Part.frame
    rw [Part.blocksAct_outer, Part.timelineAct_outer]
  exact p.takeOverdue_steady.counted.trans ((Part.countFrame_steady _).trans (.of_outer hblocks))

theorem Part.frame_act (p : Part) (order : FrameOrder) : EngineAct (.frameEvent order) p (p.frame order) :=
  .counts (.inl ⟨order, rfl⟩) (p.frame_counted order)

theorem Part.wordClock_act (p : Part) (order : FrameOrder) :
    EngineAct (.wordClockEdge order) p (p.wordClock order) := by
  unfold Part.wordClock
  split
  · exact .counts (.inr ⟨order, rfl⟩) (p.frame_counted order)
  · exact .of_outer (p.setMonitor_outer _)

theorem Part.byteBoundary_steady (p : Part) (voice : Fin 8) : Steady p (p.byteBoundary voice) := by
  refine .trans (.of_outer ?_) (drainTest_steady _)
  simp

/-! ### Grants -/

theorem nextGrant_accessOf {requester : Requester} {access : EngineAccess}
    (h : p.nextGrant = some (requester, access)) : p.accessOf requester = some access := by
  unfold Part.nextGrant at h
  simp only at h
  split at h
  · next hfirst => grind
  · split at h
    · grind
    · grind [Option.map_eq_some_iff]

/-- What the state holds for an access that it is about to make. -/
def Part.holdsFor (p : Part) : EngineAccess → Prop
  | .directoryWord read => p.starting = .reading read
  | .headWord c => p.notice.config = some c
  | .entryWord c _ => p.notice.config = some c ∧ p.notice.wordsDone < 4
  | .countWord c => p.notice.config = some c
  | _ => True

theorem cueAccess_holds {access : EngineAccess} (h : p.cueAccess = some access) : p.holdsFor access := by
  unfold Part.cueAccess at h
  split at h
  · obtain rfl := Option.some.inj h
    trivial
  · split at h
    · nomatch h
    · obtain rfl := Option.some.inj h
      trivial
  · obtain ⟨⟨a, read, address⟩, -, rfl⟩ := Option.map_eq_some_iff.mp h
    trivial

theorem loaderAccess_holds {access : EngineAccess} (h : p.loaderAccess = some access) : p.holdsFor access := by
  unfold Part.loaderAccess at h
  split at h
  · next read hread =>
    obtain rfl := Option.some.inj h
    exact hread
  · split at h
    · nomatch h
    · split at h
      · obtain ⟨f, -, rfl⟩ := Option.map_eq_some_iff.mp h
        trivial
      · obtain ⟨f, -, rfl⟩ := Option.map_eq_some_iff.mp h
        trivial

theorem noticeAccess_holds {access : EngineAccess} (h : p.noticeAccess = some access) : p.holdsFor access := by
  unfold Part.noticeAccess at h
  split at h
  · nomatch h
  · next c hc =>
    split at h
    · obtain rfl := Option.some.inj h
      exact hc
    · split at h
      · nomatch h
      · split at h
        · next hwords =>
          obtain rfl := Option.some.inj h
          exact ⟨hc, hwords⟩
        · obtain rfl := Option.some.inj h
          exact hc

theorem nextGrant_holds {requester : Requester} {access : EngineAccess}
    (h : p.nextGrant = some (requester, access)) : p.holdsFor access := by
  have haccess := nextGrant_accessOf h
  cases requester with
  | cueUnit => exact cueAccess_holds haccess
  | sceneLoader => exact loaderAccess_holds haccess
  | noticeUnit => exact noticeAccess_holds haccess

theorem Notice.acceptGap_config (n : Notice) (stamp : Stamp) : (n.acceptGap stamp).config = n.config := by
  unfold Notice.acceptGap
  split <;> rfl

theorem Part.countWritten_steady (p : Part) (c : JournalConfig) : Steady p (p.countWritten c) := by
  unfold Part.countWritten
  dsimp only
  split
  · exact ⟨.inl rfl, rfl, rfl, Notice.acceptGap_config _ _, rfl⟩
  · exact ⟨.inl rfl, rfl, rfl, Notice.acceptGap_config _ _, rfl⟩

/-- A word access keeps the engine but for a word of the directory. -/
theorem accessEffect_steady (order : ByteOrder) (word : List Byte) {access : EngineAccess}
    (h : ∀ read, access ≠ .directoryWord read) : Steady p (p.accessEffect order word access) := by
  cases access with
  | takeWord t => exact .of_outer (p.takeWord_outer order t word)
  | slotWord item w rest => exact .of_outer (p.slotWritten_outer item rest)
  | remapWord a read address => exact .of_outer (p.remapWord_outer order a read word)
  | directoryWord read => exact absurd rfl (h read)
  | shadowWord turn f => exact .of_outer (((p.passTurn turn).shadowWord_outer order f word).trans (p.passTurn_outer turn))
  | clickWord turn sound f =>
    exact .of_outer (((p.passTurn turn).clickWord_outer order sound f word).trans (p.passTurn_outer turn))
  | headWord c => exact ⟨.inl rfl, rfl, rfl, rfl, rfl⟩
  | entryWord c entry => exact ⟨.inl rfl, rfl, rfl, rfl, rfl⟩
  | countWord c => exact p.countWritten_steady c

theorem Part.markGrant_steady (p : Part) (r : Requester) : Steady p (p.markGrant r) := ⟨.inl rfl, rfl, rfl, rfl, rfl⟩

/-- A grant of an engine requester is steady, or a word of the directory. -/
theorem engineGrant_act (c : Instr) (s : State) {r : Part} (hr : Steady s.engineGrant.part r) :
    EngineAct c s.part r := by
  unfold State.engineGrant at hr
  split at hr
  · exact .steady hr
  · next requester access hgrant =>
    have hdrain := (drainTest_steady _).trans hr
    by_cases hread : ∃ read, access = .directoryWord read
    · obtain ⟨read, rfl⟩ := hread
      exact .reads (s.part.markGrant requester) read _ s.order (s.part.markGrant_steady requester)
        (nextGrant_holds hgrant) hdrain
    · exact .steady (((s.part.markGrant_steady requester).trans
        (accessEffect_steady _ _ fun read h => hread ⟨read, h⟩)).trans hdrain)

theorem grantIf_act (c : Instr) (s : State) (wanted : State → EngineAccess → Bool) :
    EngineAct c s.part (s.grantIf wanted).part := by
  obtain h | h := grantIf_cases s wanted
  · rw [h]
    exact engineGrant_act c s (.refl _)
  · rw [h]
    exact .steady (.refl _)

theorem giveWay_act (c : Instr) (s : State) (hr : Steady s.giveWay.part r) : EngineAct c s.part r := by
  obtain h | h := giveWay_cases s
  · exact engineGrant_act c s (h ▸ hr)
  · exact .steady (h ▸ hr)

theorem Part.writeBoard_outer (p : Part) (slot : Fin 32) (state : Option Nat) :
    (p.writeBoard slot state).1.outer = p.outer := by
  unfold Part.writeBoard
  split
  · split
    · exact p.post_outer slot
    · split
      · exact p.journal_outer _
      · rfl
  · split
    · exact p.withdraw_outer slot
    · exact p.raise_outer _

theorem Part.writeRecords_outer (p : Part) (address : Nat) : (p.writeRecords address).1.outer = p.outer := by
  unfold Part.writeRecords
  dsimp only
  split
  · rfl
  · split
    · rfl
    · exact p.guardRefuse_outer _ _ _
    · exact p.edit_outer _ _

theorem Part.decideWrite_steady (p : Part) (order : ByteOrder) (address : Nat) (bytes : List Byte) :
    Steady p (p.decideWrite order address bytes).1 := by
  unfold Part.decideWrite
  dsimp only
  split
  · exact .refl p
  · split
    · exact .of_outer (p.guardRefuse_outer _ _ _)
    · split
      · exact .of_outer (p.writeBoard_outer _ _)
      · split
        · exact ⟨.inl rfl, rfl, rfl, Notice.acceptGap_config _ _, rfl⟩
        · exact .of_outer (p.writeRecords_outer _)

theorem Part.markHost_steady (p : Part) : Steady p p.markHost := ⟨.inl rfl, rfl, rfl, rfl, rfl⟩

theorem EngineAct.of_next {c : Instr} {a : State} (h : exec c s = .next t)
    (ha : exec c s = .next a) (hact : EngineAct c s.part a.part) : EngineAct c s.part t.part :=
  Host.Outcome.next.inj (ha.symm.trans h) ▸ hact

theorem EngineAct.of_withPart {c : Instr} {f : Part → Part} (h : exec c s = .next t)
    (ha : exec c s = .next (s.withPart f)) (hact : EngineAct c s.part (f s.part)) : EngineAct c s.part t.part :=
  .of_next h ha hact

theorem EngineAct.of_part {c : Instr} {f : Part → Part} (h : exec c s = .next t)
    (ha : exec c s = .next (s.withPart f)) (hf : Steady s.part (f s.part)) : EngineAct c s.part t.part :=
  .of_next h ha (.steady hf)

/-- What each command makes of the engine (11.2). -/
theorem exec_act (c : Instr) (h : exec c s = .next t) : EngineAct c s.part t.part := by
  cases c with
  | powerOnReset interval => exact .of_next h (exec_powerOnReset s interval) (.resets rfl rfl)
  | engineStart value => exact .of_next h (exec_engineStart s value) (writeControl_act id s)
  | engineStop value => exact .of_next h (exec_engineStop s value) (writeControl_act id s)
  | engineReset value => exact .of_next h (exec_engineReset s value) (writeControl_act id s)
  | registerWriteIgnored register value =>
    exact .of_next h (exec_registerWriteIgnored s register value) (writeRegister_act s register value)
  | engineBecomesRunning => exact .of_next h (exec_engineBecomesRunning s) (becomeRunning_act _)
  | directoryReadComplete => exact .of_next h (exec_directoryReadComplete s) (grantIf_act _ s _)
  | takeReadComplete => exact .of_next h (exec_takeReadComplete s) (grantIf_act _ s _)
  | fetchComplete => exact .of_next h (exec_fetchComplete s) (grantIf_act _ s _)
  | remapReadComplete => exact .of_next h (exec_remapReadComplete s) (grantIf_act _ s _)
  | cueResultWritten => exact .of_next h (exec_cueResultWritten s) (grantIf_act _ s _)
  | journalEntryWritten => exact .of_next h (exec_journalEntryWritten s) (grantIf_act _ s _)
  | engineWordAccess => exact .of_next h (exec_engineWordAccess s) (engineGrant_act _ s (.refl _))
  | hostWrite address data =>
    exact .of_next h (exec_hostWrite s address data)
      (giveWay_act _ s ((Part.markHost_steady _).trans (Part.decideWrite_steady _ _ _ _)))
  | hostRead address => exact .of_next h (exec_hostRead s address) (giveWay_act _ s (Part.markHost_steady _))
  | stoppingDrainEnd => exact .of_part h (exec_stoppingDrainEnd s) (drainTest_steady _)
  | intStatusWrite value => exact .of_part h (exec_intStatusWrite s value) (.of_outer rfl)
  | intMaskWrite value => exact .of_part h (exec_intMaskWrite s value) (.of_outer rfl)
  | mailOutRead => exact .of_next h (exec_mailOutRead s) (.steady (Part.readMailOut_steady _))
  | panic _ => exact .of_part h (exec_panic s _) (Part.writeMailIn_steady _ _)
  | halt _ => exact .of_part h (exec_halt s _) (Part.writeMailIn_steady _ _)
  | tap _ => exact .of_part h (exec_tap s _) (Part.writeMailIn_steady _ _)
  | whereAmI _ => exact .of_part h (exec_whereAmI s _) (Part.writeMailIn_steady _ _)
  | unknownCommand _ _ => exact .of_part h (exec_unknownCommand s _ _) (Part.writeMailIn_steady _ _)
  | mailInWrite _ => exact .of_part h (exec_mailInWrite s _) (Part.writeMailIn_steady _ _)
  | frameEvent order => exact .of_withPart h (exec_frameEvent s order) (Part.frame_act _ _)
  | wordClockEdge order => exact .of_withPart h (exec_wordClockEdge s order) (Part.wordClock_act _ _)
  | holdExpiry => exact .of_part h (exec_holdExpiry s) (.of_outer (Part.expireHold_outer _))
  | settleEnd role => exact .of_part h (exec_settleEnd s role) (.of_outer (Part.endSettle_outer _ role))
  | clockFallback =>
    refine .of_part h (exec_clockFallback s) (.of_outer ?_)
    simp
  | tapPinRise => exact .of_part h (exec_tapPinRise s) (.of_outer (Part.tap_outer _))
  | byteArrival i b => exact .of_part h (exec_byteArrival s i b) (.of_outer (Part.byteArrives_outer _ i b))
  | framingError i => exact .of_part h (exec_framingError s i) (.of_outer (Part.framingError_outer _ i))
  | byteBoundary i => exact .of_part h (exec_byteBoundary s i) (Part.byteBoundary_steady _ i)
  | takeReadStart => exact .of_part h (exec_takeReadStart s) (.of_outer (Part.startTake_outer _))
  | cueExecute => exact .of_part h (exec_cueExecute s) (.of_outer (Part.executeNext_outer _))
  | sceneSwitch => exact .of_part h (exec_sceneSwitch s) (.of_outer (Part.makeSwitch_outer _))
  | externalClockAbsent => exact .of_part h (exec_externalClockAbsent s) (.of_outer (Part.monitorAbsent_outer _))

/-! ### The engine's arrows (11.2) -/

/-- What Starting has read is kept only while Starting, and the engine stays or takes one arrow. -/
def Part.follows (p q : Part) : Prop := q.startingKept ∧ engineArrow p.engine q.engine

theorem Steady.startingKept (h : Steady p q) (hkept : p.startingKept) : q.startingKept := by
  intro hne
  rw [h.starting] at hne
  have hengine := hkept hne
  obtain hsame | ⟨hstopping, -⟩ := h.engine
  · exact hsame.trans hengine
  · exact absurd (hengine.symm.trans hstopping) (by decide)

theorem Steady.arrow (h : Steady p q) : engineArrow p.engine q.engine := by
  obtain hsame | hstopped := h.engine
  · exact .inl hsame.symm
  · exact .inr (.inr (.inr (.inr hstopped)))

theorem follows_of_steady (h : p.follows q) (hq : q.engine ≠ .stopping) (k : Steady q r) : p.follows r := by
  obtain ⟨hkept, harrow⟩ := h
  obtain hsame | ⟨hstopping, -⟩ := k.engine
  · exact ⟨k.startingKept hkept, hsame ▸ harrow⟩
  · exact absurd hstopping hq

theorem follows_enterStopping (hkept : p.startingKept) (hp : p.engine = .running) (h : q = p.enterStopping) :
    p.follows q := by
  have hstopping := p.enterStopping_kept
  rw [← h] at hstopping
  obtain ⟨hengine, -, hstarting, -⟩ := hstopping
  have hnone : p.starting = .none := by
    by_contra hne
    exact absurd (hp.symm.trans (hkept hne)) (by decide)
  exact ⟨fun hne => absurd (hstarting.trans hnone) hne, .inr (.inr (.inr (.inl ⟨hp, hengine⟩)))⟩

theorem follows_beginStarting (hp : p.engine = .stopped) : p.follows p.beginStarting :=
  ⟨fun _ => rfl, .inr (.inl ⟨hp, rfl⟩)⟩

theorem directoryWord_engine (order : ByteOrder) (read word : List Byte) :
    (p.directoryWord order read word).engine = p.engine ∨
      ((p.directoryWord order read word).engine = .stopped ∧ (p.directoryWord order read word).starting = .none) := by
  unfold Part.directoryWord
  split
  · exact .inl rfl
  · unfold Part.directoryDone
    split
    · exact .inl rfl
    · exact .inr ⟨rfl, rfl⟩

theorem follows_directoryWord (order : ByteOrder) (read word : List Byte) (hengine : p.engine = .starting) :
    p.follows (p.directoryWord order read word) ∧ (p.directoryWord order read word).engine ≠ .stopping := by
  obtain hsame | ⟨hstopped, hnone⟩ := directoryWord_engine (p := p) order read word
  · exact ⟨⟨fun _ => hsame.trans hengine, .inl hsame.symm⟩, by rw [hsame, hengine]; decide⟩
  · exact ⟨⟨fun hne => absurd hnone hne, .inr (.inr (.inl ⟨hengine, .inr hstopped⟩))⟩, by rw [hstopped]; decide⟩

/-- A reset may leave any state; every other command follows the arrows. -/
theorem EngineAct.follows {c : Instr} (h : EngineAct c p q) (hkept : p.startingKept) :
    q.startingKept ∧ (isReset c = false → engineArrow p.engine q.engine) := by
  have keep (k : p.follows q) : q.startingKept ∧ (isReset c = false → engineArrow p.engine q.engine) :=
    ⟨k.1, fun _ => k.2⟩
  cases h with
  | steady h => exact keep ⟨h.startingKept hkept, h.arrow⟩
  | resets hc h =>
    rw [h]
    exact ⟨fun hne => absurd rfl hne, fun hnot => absurd hc (by simp [hnot])⟩
  | starts he h =>
    exact keep (h ▸ follows_beginStarting he)
  | stops he h =>
    exact keep (follows_enterStopping hkept he h)
  | counts hc h => exact keep ⟨Steady.startingKept h hkept, Steady.arrow (p := p.counted) h⟩
  | runs d hc hs h =>
    have hengine : p.engine = .starting := hkept (by rw [hs]; nofun)
    have hruns : p.follows (p.takeDirectory d) := ⟨fun hne => absurd rfl hne, .inr (.inr (.inl ⟨hengine, .inl rfl⟩))⟩
    exact keep (follows_of_steady hruns nofun h)
  | reads x read word order hx hs h =>
    have hengine : x.engine = .starting := hx.startingKept hkept (by rw [hs]; nofun)
    have hp : p.engine = .starting := hkept (by rw [← hx.starting, hs]; nofun)
    obtain ⟨hreads, hne⟩ := follows_directoryWord (p := x) order read word hengine
    obtain ⟨hq, harrow⟩ := follows_of_steady hreads hne h
    exact keep ⟨hq, hp ▸ hengine ▸ harrow⟩

end Engine

/-- Settles O12: each command makes one of the acts of 11.2, and each act follows the arrows. -/
theorem engineFollowsItsArrows : Obligations.EngineFollowsItsArrows := by
  intro s t hkept hstep
  obtain rfl | ⟨c, rest, hpending, hexec⟩ := step_cases hstep
  · exact ⟨hkept, fun _ => .inl rfl⟩
  · obtain ⟨ht, harrow⟩ := (exec_act c hexec).follows hkept
    exact ⟨ht, fun hc => harrow (hc c (by rw [hpending]; rfl))⟩

/-! ### What the checks of the directory tell (10.1, 10.2) -/

section Checks

variable {order : ByteOrder} {bytes : List Byte}

theorem directoryError_none_iff :
    directoryError order bytes = .none ↔
      fieldAt order bytes 0 4 = 0x53583234 ∧ fieldAt order bytes 4 2 = 1 ∧ (rateOf (numAt bytes 6)).isSome = true ∧
        areasOk order bytes = true ∧ regionValid order (dirRegion bytes) = true := by
  unfold directoryError
  rw [← Option.not_isNone]
  grind

/-- The areas' check, for the number of entries that the size code names. -/
theorem areasOk_iff :
    areasOk order bytes = true ↔ ∃ entries, journalEntries (numAt bytes 0x0B) = some entries ∧
      dirCueBoard order bytes % 1024 = 0 ∧ dirJournal order bytes % 16 = 0 ∧ dirSongIndex order bytes % 4 = 0 ∧
      dirSceneIndex order bytes % 4 = 0 ∧
      (∀ a ∈ dirAreas order bytes entries, a.base + a.size ≤ Config.ramBytes) ∧
      areasApart (dirAreas order bytes entries) = true ∧ ∀ n, n < 4 → (dirSound order bytes n).ok = true := by
  unfold areasOk
  split
  · next h => simp [h]
  · next entries h => simp [h, fitsRam, and_assoc]

theorem journalEntries_pos {code entries : Nat} (h : journalEntries code = some entries) : 0 < entries := by
  unfold journalEntries at h
  split at h <;> simp_all <;> omega

end Checks

/-! ### Memory's form and the part's own areas (10.1, 10.2) -/

section Areas

variable {p q : Part} {s t : State}

theorem Steady.areasInside (h : Steady p q) (hp : p.areasInside) : q.areasInside := by
  unfold Part.areasInside
  rw [h.layout, h.config]
  exact hp

theorem Steady.areasKept (h : Steady p q) (hp : p.areasKept) : q.areasKept :=
  ⟨h.areasInside hp.1, fun d hd => hp.2 d (h.starting ▸ hd)⟩

/-- The directory whose checks have passed puts the cue board and the journal inside memory. -/
theorem parseDirectory_areasInside (p : Part) {order : ByteOrder} {bytes : List Byte}
    (h : directoryError order bytes = .none) :
    Part.areasInside { p with
      layout := (parseDirectory order bytes).layout
      notice := { p.notice with config := some (parseDirectory order bytes).journal } } := by
  obtain ⟨-, -, -, hareas, -⟩ := directoryError_none_iff.mp h
  obtain ⟨entries, hentries, hboard, hjournal, -, -, hfits, -⟩ := areasOk_iff.mp hareas
  refine ⟨hboard, hfits ⟨dirCueBoard order bytes, 1024⟩ (by simp [dirAreas]), fun c hc => ?_⟩
  obtain rfl := Option.some.inj hc
  have hsize : (parseDirectory order bytes).journal.size = entries := by simp [parseDirectory, hentries]
  refine ⟨hjournal, hsize ▸ journalEntries_pos hentries, ?_⟩
  have hfit := hfits ⟨dirJournal order bytes, 16 + 16 * entries⟩ (by simp [dirAreas])
  rw [hsize, Nat.add_assoc]
  exact hfit

theorem directoryWord_areasKept (order : ByteOrder) (read word : List Byte) (h : p.areasKept) :
    (p.directoryWord order read word).areasKept := by
  unfold Part.directoryWord
  split
  · exact ⟨h.1, nofun⟩
  · unfold Part.directoryDone
    split
    · next herror =>
      refine ⟨h.1, fun d hd => ?_⟩
      obtain rfl := Starting.loading.inj hd
      exact parseDirectory_areasInside p herror
    · exact ⟨h.1, nofun⟩

theorem reset_areasInside : Part.reset.areasInside := ⟨rfl, by decide, nofun⟩

theorem afterReset_areasKept (p : Part) : p.afterReset.areasKept := ⟨reset_areasInside, nofun⟩

theorem EngineAct.areasKept {c : Instr} (h : EngineAct c p q) (hp : p.areasKept) : q.areasKept := by
  cases h with
  | steady h => exact h.areasKept hp
  | resets hc h =>
    rw [h]
    exact afterReset_areasKept p
  | starts he h =>
    rw [h]
    exact ⟨hp.1, nofun⟩
  | stops he h =>
    have hkept := p.enterStopping_kept
    rw [← h] at hkept
    obtain ⟨-, -, hstarting, hlayout, -, -, hconfig, -⟩ := hkept
    refine ⟨?_, fun d hd => ?_⟩
    · unfold Part.areasInside
      rw [hlayout, hconfig]
      exact hp.1
    · exact hp.2 d (hstarting ▸ hd)
  | counts hc h => exact Steady.areasKept h hp
  | runs d hc hs h => exact h.areasKept ⟨hp.2 d hs, nofun⟩
  | reads x read word order hx hs h => exact h.areasKept (directoryWord_areasKept order read word (hx.areasKept hp))

/-! ### Memory's canonical form -/

theorem carryOut_wf (access : EngineAccess) (h : s.mem.wf = true) : (s.carryOut access).mem.wf = true := by
  unfold State.carryOut
  dsimp only
  split
  · exact h
  · exact Memory.writeBytes_wf h _ _

theorem engineGrant_wf (h : s.mem.wf = true) : s.engineGrant.mem.wf = true := by
  unfold State.engineGrant
  split
  · exact h
  · next requester access _ => exact carryOut_wf (s := s.withPart fun p => p.markGrant requester) access h

theorem grantIf_wf (wanted : State → EngineAccess → Bool) (h : s.mem.wf = true) : (s.grantIf wanted).mem.wf = true := by
  obtain hgrant | hgrant := grantIf_cases s wanted
  · rw [hgrant]
    exact engineGrant_wf h
  · rw [hgrant]
    exact h

theorem giveWay_wf (h : s.mem.wf = true) : s.giveWay.mem.wf = true := by
  obtain hgrant | hgrant := giveWay_cases s
  · rw [hgrant]
    exact engineGrant_wf h
  · rw [hgrant]
    exact h

theorem hostWrites_wf (address : BitVec 17) (data : Halfword) (h : s.mem.wf = true) :
    (s.hostWrites address data).mem.wf = true := by
  unfold State.hostWrites
  dsimp only
  split
  · exact Memory.writeBytes_wf (giveWay_wf h) _ _
  · exact giveWay_wf h

theorem exec_mem_of_not_reaches {c : Instr} (hc : reachesMemory c = false) (h : exec c s = .next t) :
    t.mem = s.mem := by
  obtain ⟨t', ht', -, -, hmem⟩ := everyCommandCompletes c s
  exact Host.Outcome.next.inj (ht'.symm.trans h) ▸ hmem hc

theorem wf_of_next {a : State} (h : (.next a : Host.Outcome State Fault Refusal) = .next t) (ha : a.mem.wf = true) :
    t.mem.wf = true :=
  holds_next (P := fun t => t.mem.wf = true) ha h

theorem exec_wf (c : Instr) (h : s.mem.wf = true) (hexec : exec c s = .next t) : t.mem.wf = true := by
  cases c with
  | powerOnReset interval => exact wf_of_next hexec (Memory.ofCells_wf _)
  | hostWrite address data => exact wf_of_next hexec (hostWrites_wf address data h)
  | hostRead address => exact wf_of_next hexec (giveWay_wf h)
  | engineWordAccess => exact wf_of_next hexec (engineGrant_wf h)
  | directoryReadComplete | takeReadComplete | fetchComplete | remapReadComplete | cueResultWritten
  | journalEntryWritten => exact wf_of_next hexec (grantIf_wf _ h)
  | _ => exact exec_mem_of_not_reaches rfl hexec ▸ h

theorem reset_areasKept : State.reset.part.areasKept := ⟨reset_areasInside, nofun⟩

end Areas

/-- Settles O50: a write keeps memory's form, and the areas move only as the checks of Starting allow. -/
theorem stepKeepsMemoryForm : Obligations.StepKeepsMemoryForm := by
  refine ⟨⟨reset_mem_wf, reset_areasKept⟩, fun s t hstep => ?_⟩
  obtain rfl | ⟨c, rest, -, hexec⟩ := step_cases hstep
  · exact ⟨id, id⟩
  · exact ⟨fun h => exec_wf c (s := { s with pending := rest }) h hexec, (exec_act c hexec).areasKept⟩
end Sys2Proof.Machine
end

section
/-! PROOFS. The bytes that no step changes while Running (10.1, 10.4). -/

namespace Sys2Proof.Machine

/-! ### Bytes that only the part writes (10.1, 10.4) -/

section Guarded

variable {p : Part} {s t : State} {a : Nat}

theorem SlotWord.bytes_length (order : ByteOrder) (word : SlotWord) : (word.bytes order).length = 4 := by
  cases word <;> simp [SlotWord.bytes, Stamp.positionBytes, Stamp.frameBytes]

theorem SlotWord.offset_le (word : SlotWord) : word.offset ≤ 28 := by
  cases word <;> simp [SlotWord.offset]

/-- An engine access writes inside the cue board or the journal area, at most a word. -/
theorem accessWrites_inside {order : ByteOrder} {access : EngineAccess} {bytes : List Byte}
    (hfrom : p.holdsFor access) (hareas : p.areasInside) (hbytes : p.accessWrites order access = some bytes) :
    p.accessAddress access + bytes.length ≤ Config.ramBytes ∧
      ∀ b, p.accessAddress access ≤ b → b < p.accessAddress access + bytes.length → p.ownArea b := by
  obtain ⟨-, hboard, hjournal⟩ := hareas
  cases access with
  | takeWord _ | remapWord _ _ _ | directoryWord _ | shadowWord _ _ | clickWord _ _ _ => nomatch hbytes
  | slotWord item word rest =>
    obtain rfl := Option.some.inj hbytes
    have hlength := word.bytes_length order
    have hoffset := word.offset_le
    have hslot := item.slot.isLt
    simp only [Part.accessAddress, hlength, Part.ownArea]
    exact ⟨by omega, fun b hlow hhigh => .inl (by omega)⟩
  | headWord c =>
    obtain rfl := Option.some.inj hbytes
    obtain ⟨-, -, hfits⟩ := hjournal c hfrom
    simp only [Part.accessAddress, fieldBytes_length]
    exact ⟨by omega, fun b hlow hhigh => .inr ⟨c, hfrom, by omega, by omega⟩⟩
  | countWord c =>
    obtain rfl := Option.some.inj hbytes
    obtain ⟨-, -, hfits⟩ := hjournal c hfrom
    simp only [Part.accessAddress, fieldBytes_length]
    exact ⟨by omega, fun b hlow hhigh => .inr ⟨c, hfrom, by omega, by omega⟩⟩
  | entryWord c entry =>
    obtain rfl := Option.some.inj hbytes
    obtain ⟨hc, hwords⟩ := hfrom
    obtain ⟨-, hsize, hfits⟩ := hjournal c hc
    have hplace : p.notice.written.toNat % c.size < c.size := Nat.mod_lt _ hsize
    have hlength := List.length_take_le 4 ((entry.bytes order).drop (4 * p.notice.wordsDone))
    simp only [Part.accessAddress, JournalConfig.place]
    exact ⟨by omega, fun b hlow hhigh => .inr ⟨c, hc, by omega, by omega⟩⟩

theorem carryOut_read_outside {access : EngineAccess} (hfrom : s.part.holdsFor access) (hareas : s.part.areasInside)
    (ha : a < Config.ramBytes) (hown : ¬s.part.ownArea a) : (s.carryOut access).mem.read a = s.mem.read a := by
  unfold State.carryOut
  dsimp only
  split
  · rfl
  · next bytes hbytes =>
    obtain ⟨hfits, hinside⟩ := accessWrites_inside hfrom hareas hbytes
    refine Memory.read_writeBytes_outside ha hfits ?_
    by_contra hin
    exact hown (hinside a (by omega) (by omega))

theorem engineGrant_read_outside (hareas : s.part.areasInside) (ha : a < Config.ramBytes) (hown : ¬s.part.ownArea a) :
    s.engineGrant.mem.read a = s.mem.read a := by
  unfold State.engineGrant
  split
  · rfl
  · next requester access hgrant =>
    have hfrom : s.part.holdsFor access := nextGrant_holds hgrant
    exact carryOut_read_outside (s := s.withPart fun p => p.markGrant requester) hfrom hareas ha hown

theorem grantIf_read_outside (wanted : State → EngineAccess → Bool) (hareas : s.part.areasInside)
    (ha : a < Config.ramBytes) (hown : ¬s.part.ownArea a) : (s.grantIf wanted).mem.read a = s.mem.read a := by
  obtain h | h := grantIf_cases s wanted
  · rw [h]
    exact engineGrant_read_outside hareas ha hown
  · rw [h]

/-! ### The watch refuses the host's write (R161 to R164) -/

theorem takenHalf_ownArea {upper : Bool} (h : p.takenHalf a = some upper) : p.ownArea a := by
  unfold Part.takenHalf at h
  split at h
  · nomatch h
  · next c hc =>
    refine .inr ⟨c, hc, ?_⟩
    split at h
    · omega
    · split at h
      · omega
      · nomatch h

/-- Outside the part's own areas a write into the directory, or into a Guarded resident record, is not made. -/
theorem decideWrite_refused {order : ByteOrder} {bytes : List Byte} (hrun : p.engine = .running) (hown : ¬p.ownArea a)
    (hguard : a < 0x200 ∨ (p.touched a ≠ [] ∧ p.watch.region.effective a = .guarded)) :
    (p.decideWrite order a bytes).2 = false := by
  unfold Part.decideWrite
  simp only [hrun, ne_eq, not_true, if_false]
  split
  · rfl
  · next hdirectory =>
    obtain ⟨htouched, hkind⟩ := hguard.resolve_left hdirectory
    rw [if_neg fun hboard => hown (.inl hboard)]
    split
    · next upper htaken => exact absurd (takenHalf_ownArea htaken) hown
    · simp [Part.writeRecords, htouched, hkind]

theorem even_ownArea (hareas : p.areasInside) (h : p.ownArea (a - a % 2)) : p.ownArea a := by
  obtain ⟨hboard, -, hjournal⟩ := hareas
  obtain ⟨hlow, hhigh⟩ | ⟨c, hc, hlow, hhigh⟩ := h
  · exact .inl (by omega)
  · obtain ⟨hbase, -, -⟩ := hjournal c hc
    exact .inr ⟨c, hc, by omega, by omega⟩

/-- A host write granted at once changes the two bytes of its halfword at most, and none that the watch guards. -/
theorem hostWrites_read_guarded (address : BitVec 17) (data : Halfword) (hrun : s.part.engine = .running)
    (hfree : s.hostFree) (hareas : s.part.areasInside) (ha : a < Config.ramBytes) (hown : ¬s.part.ownArea a)
    (hguard : a < 0x200 ∨
      (s.part.touched (a - a % 2) ≠ [] ∧ s.part.watch.region.effective (a - a % 2) = .guarded)) :
    (s.hostWrites address data).mem.read a = s.mem.read a := by
  unfold State.hostWrites
  rw [giveWay_of_hostFree s hfree]
  dsimp only
  have haddress := address.isLt
  have hram : Config.ramBytes = 2 * 2 ^ 17 := rfl
  split
  · next hperformed =>
    refine Memory.read_writeBytes_outside ha ?_ ?_
    · rw [fieldBytes_length, halfwordAddress]
      omega
    · rw [fieldBytes_length, halfwordAddress]
      by_contra hin
      have heven : 2 * address.toNat = a - a % 2 := by omega
      have hrefused := decideWrite_refused (p := s.part.markHost) (a := a - a % 2) (order := s.order)
        (bytes := fieldBytes s.order 2 data.toNat) hrun (fun h => hown (even_ownArea hareas h))
        (hguard.imp_left (by omega))
      rw [halfwordAddress, heven] at hperformed
      exact absurd hperformed (Bool.eq_false_iff.mp hrefused)
  · rfl

theorem read_of_next {b : State} (h : (.next b : Host.Outcome State Fault Refusal) = .next t)
    (hb : b.mem.read a = s.mem.read a) : t.mem.read a = s.mem.read a :=
  holds_next (P := fun t => t.mem.read a = s.mem.read a) hb h

theorem exec_read_guarded (c : Instr) (hrun : s.part.engine = .running) (hfree : s.hostFree)
    (hareas : s.part.areasInside) (ha : a < Config.ramBytes) (hown : ¬s.part.ownArea a)
    (hguard : a < 0x200 ∨
      (s.part.touched (a - a % 2) ≠ [] ∧ s.part.watch.region.effective (a - a % 2) = .guarded))
    (hreset : ∀ interval, c ≠ .powerOnReset interval) (hexec : exec c s = .next t) :
    t.mem.read a = s.mem.read a := by
  cases c with
  | powerOnReset interval => exact absurd rfl (hreset interval)
  | hostWrite address data =>
    exact read_of_next hexec (hostWrites_read_guarded address data hrun hfree hareas ha hown hguard)
  | hostRead address =>
    refine read_of_next hexec ?_
    unfold State.hostReads
    rw [giveWay_of_hostFree s hfree]
    rfl
  | engineWordAccess => exact read_of_next hexec (engineGrant_read_outside hareas ha hown)
  | directoryReadComplete | takeReadComplete | fetchComplete | remapReadComplete | cueResultWritten
  | journalEntryWritten => exact read_of_next hexec (grantIf_read_outside _ hareas ha hown)
  | _ => exact exec_mem_of_not_reaches rfl hexec ▸ rfl

end Guarded

/-- Settles O49: the engine writes inside the part's own areas, and the watch refuses the host. -/
theorem guardedBytesAreUnchanged : Obligations.GuardedBytesAreUnchanged := by
  intro s t a hrun hfree hareas ha hown hguard hreset hstep
  obtain rfl | ⟨c, rest, hpending, hexec⟩ := step_cases hstep
  · rfl
  · exact exec_read_guarded (s := { s with pending := rest }) c hrun hfree hareas ha hown hguard
      (fun interval hc => hreset interval (by rw [hpending, hc]; rfl)) hexec

end Sys2Proof.Machine
end

section
/-! PROOFS. The resets, the register window and the mailboxes (11.1 to 11.5). -/

namespace Sys2Proof.Machine

/-! ### The resets (R174, R178) -/

section Resets

variable {p : Part} {s : State}

theorem afterReset_port (p : Part) (v : Fin 8) :
    p.afterReset.voices.ports[v] = { VoicePort.reset with tx := cutByte (p.voices.ports[v]).tx } := by
  simp only [Part.afterReset, Fin.getElem_fin, Vector.getElem_ofFn, VoicePort.afterReset]
  cases p.voices.ports[v.val].tx <;> rfl

theorem afterReset_isResetOf (p : Part) : p.afterReset.isResetOf p := ⟨rfl, rfl, afterReset_port p⟩

theorem afterReset_readRegister_pos (p : Part) {n : Nat} (h : 0 < n) : p.afterReset.readRegister n = 0 := by
  unfold Part.readRegister
  split
  · omega
  all_goals rfl

theorem afterReset_irq (p : Part) : p.afterReset.irqAsserted = false := by
  change Interrupts.asserted ⟨0, 0⟩ = false
  decide

/-- A register read made while RESETn is low leaves 0 on the data lines (R173). -/
theorem drive_foldl (accesses : List LowAccess) (data : Halfword) :
    ((∃ register, .read register ∈ accesses) → accesses.foldl LowAccess.drive data = 0) ∧
      ((¬∃ register, .read register ∈ accesses) → accesses.foldl LowAccess.drive data = data) := by
  induction accesses generalizing data with
  | nil => exact ⟨nofun, fun _ => rfl⟩
  | cons access rest ih =>
    obtain ⟨hread, hnone⟩ := ih (LowAccess.drive data access)
    rw [List.foldl_cons]
    by_cases hrest : ∃ register, .read register ∈ rest
    · exact ⟨fun _ => hread hrest, fun h => absurd (hrest.imp fun _ hmem => List.mem_cons_of_mem _ hmem) h⟩
    · rw [hnone hrest]
      cases access with
      | read register => exact ⟨fun _ => rfl, fun h => absurd ⟨register, List.mem_cons_self⟩ h⟩
      | write register value =>
        refine ⟨fun ⟨r, hmem⟩ => absurd ⟨r, ?_⟩ hrest, fun _ => rfl⟩
        simpa using hmem

end Resets

/-- Settles O4: both resets leave Part.afterReset, whose window reads as the table of R174. -/
theorem resetsResetThePart : Obligations.ResetsResetThePart := by
  intro s interval value reads
  obtain ⟨hread, hnone⟩ := drive_foldl interval.accesses s.hostData
  refine ⟨⟨s.part.afterReset, _, _, exec_powerOnReset s interval, hread, hnone, afterReset_isResetOf _, rfl,
    fun n => afterReset_readRegister_pos _, afterReset_irq _⟩, fun hvalue => ?_⟩
  refine ⟨s.part.afterReset, ?_, afterReset_isResetOf _, rfl, fun n => afterReset_readRegister_pos _,
    afterReset_irq _⟩
  have hreset : controlReset value = true := hvalue
  rw [exec_engineReset, State.writeControl, if_pos hreset]
  rfl

theorem reset_regionKind (a : Nat) : RegionTable.reset.regionKind a = .openWrite := by
  simp [RegionTable.regionKind, RegionTable.reset, allWindows]

/-- Settles O3: the values are those the reset state is written with. -/
theorem resetValues : Obligations.ResetValues := by
  have hbounded : State.reset.part.bounded :=
    ⟨fun i => by simp [State.reset, Part.reset, Voices.reset, VoicePort.reset_bounded], by decide, by decide⟩
  obtain ⟨hqueues, htable, haccepted⟩ := State.reset.part.bounded_iff.mp hbounded
  refine ⟨rfl, rfl, rfl, rfl, rfl, rfl, rfl, rfl, rfl, rfl, rfl, rfl, rfl, rfl, rfl, rfl, rfl, rfl, rfl, rfl, ?_, ?_,
    rfl, rfl, rfl, rfl, rfl, rfl, ?_, fun a => reset_regionKind a, rfl, rfl, rfl, rfl, rfl, rfl, reset_mem_wf,
    hqueues, htable, haccepted, fun h => absurd rfl h, reset_areasKept⟩ <;> decide

/-! ### Writes of CONTROL and of the registers that ignore them (R173, R175) -/

section Control

variable {value : Halfword} {s : State}

theorem exec_engineStart_of_ok (h : startValueOk value = true) :
    exec (.engineStart value) s = .next (s.withPart fun p => p.writeRun true) := by
  simp only [startValueOk, Bool.and_eq_true, Bool.not_eq_true'] at h
  obtain ⟨hrun, hreset⟩ := h
  simp [State.writeControl, hrun, hreset]

theorem exec_engineStop_of_ok (h : stopValueOk value = true) :
    exec (.engineStop value) s = .next (s.withPart fun p => p.writeRun false) := by
  simp only [stopValueOk, Bool.and_eq_true, Bool.not_eq_true'] at h
  obtain ⟨hrun, hreset⟩ := h
  simp [State.writeControl, hrun, hreset]

/-- A command that maps the part, by what the map makes of it. -/
theorem next_part {f : Part → Part} {q : Part} (h : f s.part = q) :
    (.next (s.withPart f) : Host.Outcome State Fault Refusal) = .next { s with part := q } := by
  rw [State.withPart, h]

theorem withPart_of_eq {f : Part → Part} (h : f s.part = s.part) : s.withPart f = s := by
  rw [State.withPart, h]

theorem writeRegister_ignored {register : BitVec 3} (h : ignoredRegister register = true) :
    s.writeRegister register.toNat value = s := by
  revert h
  unfold ignoredRegister
  rintro h
  have hcases : register = 0 ∨ register = 2 ∨ register = 6 ∨ register = 7 := by simpa [or_assoc] using h
  obtain rfl | rfl | rfl | rfl := hcases <;> rfl

end Control

/-- Settles O5: Stopped goes to Starting by Part.beginStarting. -/
theorem startBeginsStarting : Obligations.StartBeginsStarting := by
  intro value s hvalue hstopped
  rw [exec_engineStart_of_ok hvalue, State.withPart, Part.writeRun_starts _ hstopped]
  rfl

/-- Settles O6: the engine state keeps such a CONTROL write from acting, and the other writes name nothing to change. -/
theorem writesThatChangeNothing : Obligations.WritesThatChangeNothing := by
  intro value register s
  refine ⟨fun hvalue hne => ?start, fun hvalue hne => ?stop, fun hregister => ?ignored, fun hfull => ?full⟩
  case start =>
    rw [exec_engineStart_of_ok hvalue, withPart_of_eq (Part.writeRun_kept _ true (fun _ => hne) nofun)]
  case stop =>
    rw [exec_engineStop_of_ok hvalue, withPart_of_eq (Part.writeRun_kept _ false nofun fun _ => hne)]
  case ignored => rw [exec_registerWriteIgnored, writeRegister_ignored hregister]
  case full => rw [exec_mailInWrite, withPart_of_eq (by rw [Part.writeMailIn, if_pos hfull])]

/-! ### The drain's end (R177) -/

/-- Settles O10, from the drain's test. -/
theorem drainEndsWhenAllIsSent : Obligations.DrainEndsWhenAllIsSent := by
  intro s p portsDrained noneOwed done
  obtain ⟨hends, hstays⟩ := drainTest_drains s.part
  have hdone : done ↔ s.part.engine = .stopping ∧ s.part.allSent := by
    simp only [done, portsDrained, noneOwed, Part.allSent, and_assoc, p]
  rw [exec_stoppingDrainEnd, State.withPart, hdone]
  refine ⟨fun ⟨hstopping, hsent⟩ => by rw [hends hstopping hsent], fun hnot => ?_⟩
  rw [hstays (not_and_or.mp hnot)]

/-! ### The interrupt registers (R185) -/

theorem causeBits_getLsbD (value : Halfword) {i : Nat} (h : i < 5) : (causeBits value).getLsbD i = value.getLsbD i := by
  simp [causeBits, h]

theorem asserted_iff (i : Interrupts) :
    i.asserted = true ↔ ∃ k, k < 5 ∧ i.status.getLsbD k = true ∧ i.mask.getLsbD k = true := by
  rw [Interrupts.asserted, bne_iff_ne, ne_eq, BitVec.eq_of_getLsbD_eq_iff]
  simp

/-- Settles O13: both registers bit by bit, and IRQ by their common bits. -/
theorem interruptRegistersFollowWrites : Obligations.InterruptRegistersFollowWrites := by
  intro value s
  refine ⟨⟨_, exec_intStatusWrite s value, fun i hi => ?_⟩, ⟨_, exec_intMaskWrite s value, fun i hi => ?_⟩,
    asserted_iff s.part.irq⟩
  · rw [BitVec.getLsbD_and, BitVec.getLsbD_not, causeBits_getLsbD value hi]
    simp [hi]
  · exact causeBits_getLsbD value hi

/-! ### The mailboxes (R179, R180) -/

section Mail

variable {p : Part} {code : BitVec 4} {argument : BitVec 12}

/-- A command of the four that the part only answers, with data below 2048. -/
theorem writeMailIn_known {data : Nat} (hfree : p.mailFree) (hknown : knownCode code.toNat = true)
    (hdata : data < 2048)
    (h : (p.stored (code ++ argument)).mailCommand code.toNat = (p.stored (code ++ argument), data)) :
    p.writeMailIn (mailValue code argument) = p.answered (code ++ argument) (code ++ BitVec.ofNat 12 data) := by
  rw [← mailCode_append code argument] at h
  rw [mailValue, writeMailIn_answer p _ data hfree.1 hfree.2 h, mailCode_append, hknown, Bool.not_true,
    replyValue_ok code data hdata]

theorem mailCommand_unknown (h : unknownCode code = true) : p.mailCommand code.toNat = (p, 0) := by
  have hcases : code.toNat = 0 ∨ 5 ≤ code.toNat := by
    simpa [unknownCode, ← BitVec.toNat_inj] using h
  unfold Part.mailCommand
  split
  · omega
  · omega
  · omega
  · omega
  · rfl

theorem writeMailIn_unknown (hfree : p.mailFree) (h : unknownCode code = true) :
    p.writeMailIn (mailValue code argument) = p.answered (code ++ argument) (code ++ 0x800#12) := by
  rw [mailValue, writeMailIn_answer p _ 0 hfree.1 hfree.2 (by rw [mailCode_append, mailCommand_unknown h]),
    mailCode_append, knownCode_of_unknown h, Bool.not_false, replyValue_unknown]

/-- A command that waits is taken, once MAIL_OUT is read, as if it were written then. -/
theorem readMailOut_waiting {value : Halfword} (hin : p.mail.inFull = true) (hvalue : p.mail.inValue = value) :
    p.readMailOut = ({ p with mail := { p.mail with inFull := false, outFull := false } } : Part).writeMailIn value := by
  unfold Part.readMailOut Part.writeMailIn
  rw [if_neg Bool.false_ne_true, ← hvalue, ← hin]

theorem takeCommand_none (h : p.mail.inFull = false ∨ p.mail.outFull = true) : p.takeCommand = p := by
  unfold Part.takeCommand
  rw [if_neg]
  obtain h | h := h <;> simp [h]

theorem mailCommand_panic (h : p.engine = .stopped ∨ p.engine = .starting) : p.mailCommand 1 = (p, 0) := by
  refine if_neg ?_
  obtain h | h := h <;> simp [h]

theorem mailCommand_panics (h : p.engine = .running ∨ p.engine = .stopping) : p.mailCommand 1 = p.panic .mail :=
  if_pos h

theorem mailCommand_halt (h : p.engine ≠ .running) : p.mailCommand 2 = (p, 0) := congrArg (·, 0) (if_neg h)

theorem mailCommand_halts (h : p.engine = .running) : p.mailCommand 2 = (p.haltClock, 0) :=
  congrArg (·, 0) (if_pos h)

theorem tap_not_running (h : p.engine ≠ .running) : p.tap = p := by
  rw [Part.tap, if_pos h]

theorem haltClock_still (h : p.timeline.clock = .idle ∨ p.timeline.clock = .parked) : p.haltClock = p := by
  rw [Part.haltClock, if_neg]
  obtain h | h := h <;> simp [Part.clockRuns, h]

theorem haltClock_parks (hidle : p.timeline.clock ≠ .idle) (hparked : p.timeline.clock ≠ .parked) :
    p.haltClock = p.enterParked := by
  rw [Part.haltClock, if_pos]
  cases h : p.timeline.clock <;> simp_all [Part.clockRuns]

end Mail

/-- Settles O14, from the taking of the command that waits. -/
theorem mailOutReadReturnsTheReply : Obligations.MailOutReadReturnsTheReply := by
  intro s
  refine ⟨fun hin => ?_, fun code argument hin hvalue hcode => ?_⟩
  · rw [exec_mailOutRead, Part.readMailOut, takeCommand_none]
    exact .inl hin
  · rw [exec_mailOutRead, readMailOut_waiting hin hvalue]
    let emptied : Part := { s.part with mail := { s.part.mail with inFull := false, outFull := false } }
    have hfree : emptied.mailFree := ⟨rfl, rfl⟩
    exact congrArg (fun q => Host.Outcome.next { s with hostData := s.part.mail.outValue, part := q })
      (writeMailIn_unknown (p := emptied) hfree hcode)

/-- Settles O15: the write of a command's code is that command. -/
theorem mailInWriteIsStoredOrTaken : Obligations.MailInWriteIsStoredOrTaken := by
  intro argument value s
  refine ⟨fun hin hout => ?_, rfl, rfl, rfl, rfl⟩
  rw [exec_mailInWrite, State.withPart, Part.writeMailIn, if_neg (by simp [hin]), takeCommand_none]
  exact .inr hout

/-- Settles O16, from the reply to each code. -/
theorem mailCommandsAnswered : Obligations.MailCommandsAnswered := by
  intro code argument s hfree bars
  refine ⟨fun hcode => next_part (writeMailIn_unknown hfree hcode), ?whereAmI, fun hengine => ?panic,
    fun hengine => ⟨?halt, ?tap⟩⟩
  case whereAmI => exact next_part (writeMailIn_known (code := 4#4) hfree rfl (by omega) rfl)
  case panic =>
    exact next_part (writeMailIn_known (code := 1#4) hfree rfl (by decide) (mailCommand_panic (p := s.part.stored _) hengine))
  case halt =>
    exact next_part (writeMailIn_known (code := 2#4) hfree rfl (by decide) (mailCommand_halt (p := s.part.stored _) hengine))
  case tap =>
    exact next_part (writeMailIn_known (code := 3#4) hfree rfl (by decide)
      (congrArg (·, 0) (tap_not_running (p := s.part.stored _) hengine)))

/-- Settles O17: the tap does not see the mailbox. -/
theorem tapCommandGivesOneTap : Obligations.TapCommandGivesOneTap := by
  intro argument s hfree
  refine ⟨s.part.tap, exec_tapPinRise s, ?_⟩
  have hcommand : (s.part.stored (3#4 ++ argument)).mailCommand (mailCode (3#4 ++ argument)) =
      ({ s.part.tap with mail := (s.part.stored (3#4 ++ argument)).mail }, 0) := by
    rw [mailCode_append]
    exact congrArg (·, 0) (s.part.tap_mail _)
  have hreply : replyValue (mailCode (3#4 ++ argument)) (!knownCode (mailCode (3#4 ++ argument))) 0 = 3#4 ++ 0#12 := by
    rw [mailCode_append]
    exact replyValue_ok 3#4 0 (by decide)
  refine next_part ((writeMailIn_free _ (3#4 ++ argument) hfree.1 hfree.2).trans ?_)
  rw [hcommand, hreply]
  rfl

end Sys2Proof.Machine
end

section
/-! PROOFS. Panic, Halt and the engine entering Stopping (6.7, 1.6, 11.2). -/

namespace Sys2Proof.Machine

/-! ### What a Panic sends (R96, R97) -/

section Panic

variable {p : Part}

/-- The all-notes-offs of a Panic go to the active scene's destinations, once each. -/
theorem sceneDests_layers (p : Part) :
    sceneDests p.layers =
      match p.loader.activeScene with | none => [] | some sc => (sc.layers.map Layer.dest).eraseDups := by
  rw [sceneDests, mergeDests_eq, Part.layers]
  cases p.loader.activeScene <;> rfl

theorem panic_count (table : List HeldEntry) (voices : Voices) :
    (releaseWhere (fun _ => true) 64 table voices).2.2 = (soundingOf table).length := by
  rw [releaseWhere_count]
  simp [HeldEntry.sounding]

theorem mem_allPlayers (i : Fin 4) : i ∈ allPlayers := by
  revert i
  decide

/-- With room for every message. -/
theorem panic_roomy (source : PanicSource)
    (h : p.voices.roomFor ((soundingOf p.tracker.table).flatMap noteOffsOf ++
      allPlayers.flatMap (upsOf p.tracker) ++
      (sceneDests p.layers).map fun d => (d.voice, controllerMessage d.channel 123 0)).length) :
    ∃ players fan voices, (p.panic source).1 = { p with
        players := players, voices := voices
        tracker := { p.tracker with table := notSoundingOf p.tracker.table, fan := fan }
        notice := p.handed (.panic source (soundingOf p.tracker.table).length
          (notSoundingOf p.tracker.table).length) } ∧
      p.voices.received voices ((soundingOf p.tracker.table).flatMap noteOffsOf ++
        allPlayers.flatMap (upsOf p.tracker) ++
        (sceneDests p.layers).map fun d => (d.voice, controllerMessage d.channel 123 0)) ∧
      ∀ i : Fin 4, fan[i] = (p.tracker.fan[i]).filter fun f => f.upOwed := by
  rw [List.length_append, List.length_append, List.length_map] at h
  obtain ⟨v1, n, hrelease, hv1⟩ := releaseAll_roomy p.tracker.table p.voices (roomFor_less h (by omega))
  have hn : n = (soundingOf p.tracker.table).length := by
    rw [← panic_count p.tracker.table p.voices, hrelease]
  have hroom1 : v1.roomFor ((allPlayers.flatMap (upsOf p.tracker)).length + (sceneDests p.layers).length) :=
    roomFor_received hv1 (by rw [← Nat.add_assoc]; exact h)
  obtain ⟨players, fan, v2, hraise, hv2, hfan⟩ := raiseAll_roomy allPlayers
    { p with voices := v1, tracker := { p.tracker with table := notSoundingOf p.tracker.table } } (by decide)
    (roomFor_less hroom1 (Nat.le_add_right _ _))
  obtain ⟨v3, hoff, hv3⟩ := allNotesOff_roomy (sceneDests p.layers)
    { p with players := players, voices := v2, tracker := { p.tracker with table := notSoundingOf p.tracker.table, fan := fan } }
    (roomFor_received hv2 hroom1)
  refine ⟨players, fan, v3, ?_, received_append (received_append hv1 hv2) hv3, fun i => ?_⟩
  · have howed : (notSoundingOf p.tracker.table).filter (fun e => !e.sounding) = notSoundingOf p.tracker.table :=
      (List.filter_filter ..).trans (List.filter_congr fun e _ => Bool.and_self _)
    unfold Part.panic
    rw [hrelease]
    dsimp only
    rw [hraise, howed, ← hn]
    exact congrArg (fun q : Part => q.journal (.panic source n (notSoundingOf p.tracker.table).length)) hoff
  · rw [hfan i, if_pos (mem_allPlayers i)]

/-- With every port enabled and full. -/
theorem panic_full (source : PanicSource) (h : Voices.allFull p.voices)
    (hdests : ∀ e ∈ soundingOf p.tracker.table, e.dests ≠ [] ∧ ∀ d ∈ e.dests, d.delivered = false) :
    ∃ players fan upOwed, (p.panic source).1 = { p with
        players := players
        tracker :=
          { table := p.tracker.table.map fun e => if e.state = .sounding then { e with state := .owed 64 } else e
            fan := fan, upOwed := upOwed }
        notice := ((sceneDests p.layers).foldl (fun n d =>
            n.handOver { event := .controlDropped d 123, stamp := p.stamp }) p.notice).handOver
          { event := .panic source (soundingOf p.tracker.table).length p.tracker.table.length, stamp := p.stamp } } ∧
      (∀ i : Fin 4, fan[i] = (p.tracker.fan[i]).map fun f => { f with upOwed := true }) ∧
      ∀ v : Fin 8, upOwed[v] = p.tracker.upOwed[v] ++ allPlayers.flatMap fun i =>
        ((heldOf p.tracker.fan[i]).filter fun f => f.dest.voice = v).map fun f => { player := i, dest := f.dest } := by
  obtain ⟨n, hrelease⟩ := releaseAll_full h p.tracker.table hdests
  have hn : n = (soundingOf p.tracker.table).length := by
    rw [← panic_count p.tracker.table p.voices, hrelease]
  let owedTable := p.tracker.table.map fun e => if e.state = .sounding then { e with state := .owed 64 } else e
  have howed : owedTable.filter (fun e => !e.sounding) = owedTable := by
    refine List.filter_eq_self.mpr fun e he => ?_
    obtain ⟨x, -, rfl⟩ := List.mem_map.mp he
    by_cases hx : x.state = .sounding
    · simp [hx, HeldEntry.sounding]
    · simp [hx, HeldEntry.sounding]
  obtain ⟨players, fan, upOwed, hraise, hfan, hups⟩ := raiseAll_full allPlayers
    { p with tracker := { p.tracker with table := owedTable } } (by decide) h
  have hoff := allNotesOff_full (sceneDests p.layers)
    { p with players := players, tracker := { table := owedTable, fan := fan, upOwed := upOwed } } h
  refine ⟨players, fan, upOwed, ?_, fun i => ?_, hups⟩
  · unfold Part.panic
    rw [hrelease]
    dsimp only
    rw [hraise, howed, ← hn]
    have hlength : owedTable.length = p.tracker.table.length := List.length_map _
    rw [← hlength]
    exact congrArg (fun q : Part => q.journal (.panic source n owedTable.length)) hoff
  · rw [hfan i, if_pos (mem_allPlayers i)]

theorem panic_silenced (p : Part) (source : PanicSource) : p.silenced (p.panic source).1 source := by
  obtain ⟨-, -, -, hreserve⟩ := p.panic_spec source
  refine ⟨hreserve, fun hroom => ?roomy, fun hfull hdests => ?full⟩
  case roomy =>
    obtain ⟨players, fan, voices, hpanic, hreceived, hfan⟩ := panic_roomy (p := p) source
      (by rw [sceneDests_layers]; exact hroom)
    rw [sceneDests_layers] at hreceived
    rw [hpanic]
    exact ⟨hreceived, rfl, rfl, hfan, rfl⟩
  case full =>
    obtain ⟨players, fan, upOwed, hpanic, hfan, hups⟩ := panic_full source hfull hdests
    rw [sceneDests_layers] at hpanic
    rw [hpanic]
    exact ⟨rfl, rfl, hfan, hups, rfl⟩

/-- A Panic with the number it releases: what it keeps, what it sets and what it sends. -/
theorem panic_result (p : Part) (source : PanicSource) :
    ∃ q, p.panic source = (q, (p.tracker.table.filter fun e => e.state == .sounding).length) ∧
      q.outer = p.outer ∧ q.rest = p.rest ∧ (∀ e ∈ q.tracker.table, e.state ≠ .sounding) ∧
      (∀ i : Fin 4, q.players[i] = { p.players[i] with pedal := .up } ∧ ∀ f ∈ q.tracker.fan[i], f.upOwed = true) ∧
      p.silenced q source :=
  have ⟨htable, hplayers, hcount, _⟩ := p.panic_spec source
  ⟨(p.panic source).1, Prod.ext rfl hcount, p.panic_outer source, p.panic_rest source, htable, hplayers,
    panic_silenced p source⟩

end Panic

/-! ### The Panic command -/

section PanicCommand

variable {s : State}

/-- A mailbox command that acts on the part: the reply besides. -/
theorem writeMailIn_acts {p q : Part} {code : BitVec 4} {argument : BitVec 12} {data : Nat} (hfree : p.mailFree)
    (hknown : knownCode code.toNat = true) (hdata : data < 2048)
    (h : (p.stored (code ++ argument)).mailCommand code.toNat = (q, data))
    (hin : q.mail.inValue = code ++ argument) (hfull : q.mail.inFull = false) :
    p.writeMailIn (mailValue code argument) = q.answered (code ++ argument) (code ++ BitVec.ofNat 12 data) := by
  rw [mailValue, writeMailIn_free _ _ hfree.1 hfree.2, mailCode_append, h, hknown, Bool.not_true,
    replyValue_ok code data hdata, Part.answered, ← hin, ← hfull]
  rfl

end PanicCommand

/-- Settles O18, from what a Panic keeps and what it sends. -/
theorem panicReleasesEveryNote : Obligations.PanicReleasesEveryNote := by
  intro argument s hfree hbounded hengine old released
  obtain ⟨q, hpanic, houter, hrest, htable, hplayers, hsilenced⟩ :=
    panic_result (s.part.stored (1#4 ++ argument)) .mail
  have hmail : q.mail = (s.part.stored (1#4 ++ argument)).mail := congrArg Outer.mail houter
  have hdata : released < 2048 :=
    Nat.lt_of_le_of_lt (Nat.le_trans (List.length_filter_le _ _) hbounded) (by decide)
  have hcommand : (s.part.stored (1#4 ++ argument)).mailCommand 1 = (q, released) :=
    (mailCommand_panics (p := s.part.stored (1#4 ++ argument)) hengine).trans hpanic
  have hanswer := writeMailIn_acts (code := 1#4) (argument := argument) hfree rfl hdata hcommand
    (congrArg Mail.inValue hmail) (congrArg Mail.inFull hmail)
  have hirq : q.irq = s.part.irq := congrArg Rest.irq hrest
  exact ⟨_, next_part hanswer, htable, fun i => ⟨congrArg PlayerPort.pedal (hplayers i).1, (hplayers i).2⟩, rfl,
    congrArg (fun irq : Interrupts => { irq with status := irq.status ||| 4 }) hirq,
    fun i => (hplayers i).1, congrArg Outer.engine houter, congrArg Outer.startError houter,
    congrArg Outer.starting houter, congrArg Outer.layout houter, congrArg Rest.timeline hrest,
    congrArg Rest.pointer hrest, congrArg Rest.click hrest, congrArg Rest.tdm hrest, congrArg Rest.flags hrest,
    congrArg Rest.loader hrest, congrArg Rest.cues hrest, congrArg Rest.watch hrest, congrArg Outer.arbiter houter,
    silenced_congr hsilenced rfl rfl rfl rfl rfl rfl rfl rfl⟩

end Sys2Proof.Machine
end

section
/-! PROOFS. The engine entering Stopping, the Halt command and the frame count (11.2, 1.6, 1.2). -/

namespace Sys2Proof.Machine

/-! ### Entering Stopping (R176) -/

section Stopping

variable {p : Part}

/-- The clock Idle and the pointer at its reset values, a Stop byte requested where the clock ran (R19, R23). -/
def Part.clockIdled (p : Part) : Part := { p with
  timeline := { p.timeline with
    clock := .idle, pausedFrom := none, startPending := false, acc := 0, beatOpen := true, plan := none
    startByte := .none }
  pointer := SongPointer.reset
  voices := if p.clockRuns && !p.timeline.startPending then p.voices.request .stop else p.voices }

theorem idleClock_clockIdled (p : Part) : p.idleClock = p.clockIdled.setTrigger none := by
  unfold Part.idleClock Part.requestStop Part.clockIdled
  split <;> rfl

/-- The result that Stopping writes to the slot of a cue that it refuses (R153). -/
def Part.stoppedResult (p : Part) (slot : Fin 32) (notify : Bool) : WriteItem where
  slot := slot
  words := [.answer .engineStopped 0 0, .position p.stamp, .positionEnd p.stamp, .frameCount p.stamp, .state .refused]
  result := true
  notice := notify

/-- The results of all the cues that Stopping refuses, the posted ones first. -/
def Part.stoppedResults (p : Part) : List WriteItem :=
  p.cues.posted.map (fun slot => p.stoppedResult slot false) ++ p.cues.arms.map fun a => p.stoppedResult a.slot a.notify

theorem stoppedResults_result {r : WriteItem} (h : r ∈ p.stoppedResults) : r.result = true := by
  rcases List.mem_append.mp h with h | h
  · obtain ⟨_, -, rfl⟩ := List.mem_map.mp h
    rfl
  · obtain ⟨_, -, rfl⟩ := List.mem_map.mp h
    rfl

/-- The write list after every cue is refused: each result takes the place of the writes of its slot still waiting. -/
theorem refuseAll_writes_eq (h : (p.stoppedResults.map (·.slot)).Nodup)
    (hw : ((p.cues.writes.filter fun w => !w.result).map (·.slot)).Nodup) :
    p.refuseAll.cues.writes =
      (p.cues.writes.map fun w => if w.result then w else (p.stoppedResults.find? fun r => r.slot = w.slot).getD w) ++
        p.stoppedResults.filter fun r => !p.cues.writes.any fun w => !w.result && w.slot = r.slot :=
  (refuseAll_writes p).trans (queueWrites_eq p.stoppedResults p.cues.writes (fun _ => stoppedResults_result) h hw)

/-- The drain test in the act that enters Stopping, or in one that sends the last of what was owed (R177). -/
theorem drainTest_engine_of_stopping (h : p.engine = .stopping) :
    (p.allSent → p.drainTest.engine = .stopped) ∧ (¬p.allSent → p.drainTest.engine = .stopping) := by
  obtain ⟨hsent, hkept⟩ := drainTest_drains p
  exact ⟨fun hall => by rw [hsent h hall], fun hall => by rw [hkept (.inr hall), h]⟩

/-- Settles O11, stage by stage: the clock, the cues, the Panic, the stores, the cursors, the drain test. -/
theorem enteringStoppingSilencesThePart : Obligations.EnteringStoppingSilencesThePart := by
  intro value s hvalue hengine idle refused results writes
  obtain ⟨hposted, harms, htake, howners, htracker, hplayers, hvoices, htimeline, hpointer, hclick, htdm, hflags, hregion,
    hclicks, hfetches, htrigger, hlate, hheld, hirq⟩ := (s.part.clockIdled.setTrigger none).refuseAll_spec
  obtain ⟨hnotice, hscene⟩ := refuseAll_quiet (s.part.clockIdled.setTrigger none)
  have hwrites := fun h hw => refuseAll_writes_eq (p := s.part.clockIdled.setTrigger none) h hw
  have houter1 : (s.part.clockIdled.setTrigger none).refuseAll.outer = s.part.outer :=
    Part.refuseAll_outer _
  have hstop : s.part.enterStopping =
      ({ ((s.part.clockIdled.setTrigger none).refuseAll.panic .stopping).1.giveUpStores.endCursors with
        engine := .stopping } : Part).drainTest := by
    unfold Part.enterStopping
    rw [idleClock_clockIdled]
  generalize (s.part.clockIdled.setTrigger none).refuseAll = r at *
  obtain ⟨q, hpanic, houter, hrest, hsilent, hpedals, hsilenced⟩ := panic_result r .stopping
  obtain ⟨gloader, gwatch, gflags, gtimeline, gpointer, gclick, gtdm, gplayers, gtracker, gvoices, gcues, girq, gnotice⟩ :=
    q.giveUpStores_spec
  have gouter : q.giveUpStores.outer = s.part.outer := (q.giveUpStores_outer.trans houter).trans houter1
  rw [hpanic] at hstop
  dsimp only at hstop
  generalize q.giveUpStores = g at *
  obtain ⟨hsent, hunsent⟩ := drainTest_engine_of_stopping (p := { g.endCursors with engine := .stopping }) rfl
  rw [Part.drainTest_rest] at hstop
  generalize ({ g.endCursors with engine := .stopping } : Part).drainTest.engine = e at *
  have hcues : g.cues = r.cues := gcues.trans (congrArg Rest.cues hrest)
  have hwatch : q.watch = r.watch := congrArg Rest.watch hrest
  have hloader : q.loader = r.loader := congrArg Rest.loader hrest
  have hsounds : g.click.sounds = s.part.click.sounds :=
    congrArg ClickGen.sounds ((gclick.trans (congrArg Rest.click hrest)).trans hclick)
  have hstamp : idle.stamp = r.stamp := by
    unfold Part.stamp
    rw [htimeline, hpointer]
    rfl
  exact ⟨_, (exec_engineStop_of_ok hvalue).trans (next_part ((s.part.writeRun_stops hengine).trans hstop)), hsent, hunsent,
    silenced_congr hsilenced hvoices.symm htracker.symm hscene.symm hnotice.symm hstamp gvoices gtracker gnotice,
    fun h hw => (congrArg CueUnit.writes hcues).trans (hwrites h hw),
    gtimeline.trans ((congrArg Rest.timeline hrest).trans htimeline),
    gpointer.trans ((congrArg Rest.pointer hrest).trans hpointer),
    (congrArg CueUnit.posted hcues).trans hposted, (congrArg CueUnit.arms hcues).trans harms,
    (congrArg CueUnit.take hcues).trans htake,
    fun slot => (congrArg (fun w : Watch => w.owners[slot]) gwatch).trans
      ((congrArg (fun w : Watch => w.owners[slot]) hwatch).trans (howners slot)),
    fun e he => hsilent e (gtracker ▸ he),
    fun i => ⟨(congrArg (fun l : Vector PlayerPort 4 => l[i].pedal) gplayers).trans (congrArg PlayerPort.pedal (hpedals i).1),
      fun f hf => (hpedals i).2 f (gtracker ▸ hf)⟩,
    gflags, congrArg Loader.activeSong gloader, congrArg Loader.activeScene gloader, congrArg Loader.shadowSong gloader,
    congrArg Loader.shadowScene gloader, congrArg Loader.owner gloader, congrArg Loader.fetch gloader,
    (congrArg Loader.trigger gloader).trans ((congrArg Loader.trigger hloader).trans htrigger),
    (congrArg Loader.late gloader).trans ((congrArg Loader.late hloader).trans hlate),
    (congrArg Loader.held gloader).trans ((congrArg Loader.held hloader).trans hheld),
    (congrArg Loader.clickFetches gloader).trans ((congrArg Loader.clickFetches hloader).trans hfetches),
    (congrArg Watch.residents gwatch).trans (congrArg (fun c => { ResidentSet.reset with clicks := c })
      ((congrArg (fun w : Watch => w.residents.clicks) hwatch).trans hclicks)),
    fun i => congrArg (fun m : Mix => m.cursor.running) (Vector.getElem_ofFn i.isLt),
    hsounds, (congrArg Watch.region gwatch).trans ((congrArg Watch.region hwatch).trans hregion),
    congrArg Outer.layout gouter, congrArg Outer.mail gouter, girq.trans ((congrArg Rest.irq hrest).trans hirq),
    congrArg Outer.arbiter gouter, congrArg Outer.startError gouter,
    gtdm.trans ((congrArg Rest.tdm hrest).trans htdm)⟩

end Stopping

/-! ### The clock Parked (R17) -/

section Parked

variable {p : Part}

theorem parkTempo_eq (p : Part) :
    ∃ plan tempo, p.parkTempo = { p with timeline := { p.timeline with plan := plan, tempo := tempo } } := by
  unfold Part.parkTempo
  cases p.timeline.plan with
  | none => exact ⟨_, _, rfl⟩
  | some o =>
    cases hkeep : o.keep with
    | false => exact ⟨_, _, if_neg (by simp [hkeep])⟩
    | true => exact ⟨_, _, if_pos hkeep⟩

/-- The clock entering Parked, beside the stores of the scene loader: the tempo and its plan are told by `Part.parks`. -/
theorem enterParked_aside (p : Part) : ∃ plan tempo, p.enterParked.aside = { p.aside with
    timeline := { p.timeline with
      clock := .parked, pausedFrom := none, startPending := false, acc := 0, beatOpen := true, startByte := .none
      plan := plan, tempo := tempo }
    pointer := p.pointer.parked
    cues := if p.clockRuns then { p.cues with arms := p.cues.arms.map fun a => { a with due := true } } else p.cues } := by
  obtain ⟨plan, tempo, htempo⟩ := parkTempo_eq { p.requestStop with
    timeline := { p.requestStop.timeline with
      clock := .parked, pausedFrom := none, startPending := false, acc := 0, beatOpen := true, startByte := .none }
    pointer := p.requestStop.pointer.parked }
  have hstop : p.requestStop = { p with voices := p.requestStop.voices } := by
    unfold Part.requestStop
    split <;> rfl
  refine ⟨plan, tempo, ?_⟩
  unfold Part.enterParked
  dsimp only
  rw [Part.considerPark_aside, htempo, hstop]
  cases p.clockRuns <;> rfl

theorem clockRuns_of (hidle : p.timeline.clock ≠ .idle) (hparked : p.timeline.clock ≠ .parked)
    (hpaused : p.timeline.clock ≠ .paused) : p.clockRuns = true := by
  cases h : p.timeline.clock <;> simp_all [Part.clockRuns]

end Parked

section Halt

/-- Settles O19, from the clock entering Parked. -/
theorem haltParksTheClock : Obligations.HaltParksTheClock := by
  intro argument s hfree hengine
  have hanswer {q : Part} (h : (s.part.stored (2#4 ++ argument)).haltClock = q)
      (hmail : q.mail = (s.part.stored (2#4 ++ argument)).mail) :
      s.part.writeMailIn (mailValue 2#4 argument) = q.answered (2#4 ++ argument) (2#4 ++ 0#12) :=
    writeMailIn_acts (code := 2#4) (argument := argument) hfree rfl (by decide)
      ((mailCommand_halts (p := s.part.stored (2#4 ++ argument)) hengine).trans (congrArg (·, 0) h))
      (congrArg Mail.inValue hmail) (congrArg Mail.inFull hmail)
  refine ⟨fun hclock => ?_, fun hidle hparked => ?_⟩
  · exact next_part (hanswer (q := s.part.stored (2#4 ++ argument)) (haltClock_still hclock) rfl)
  · have houter : (s.part.stored (2#4 ++ argument)).enterParked.outer = (s.part.stored (2#4 ++ argument)).outer :=
      Part.enterParked_outer _
    obtain ⟨plan, tempo, haside⟩ := enterParked_aside (s.part.stored (2#4 ++ argument))
    have hparks := enterParked_parks (s.part.stored (2#4 ++ argument))
    have hnext := hanswer (haltClock_parks hidle hparked) (congrArg Outer.mail houter)
    intro taken
    generalize (s.part.stored (2#4 ++ argument)).enterParked = z at *
    have htimeline := congrArg Aside.timeline haside
    have hcues := congrArg Aside.cues haside
    have hirq : z.irq = s.part.irq := congrArg Aside.irq haside
    refine ⟨_, z, next_part hnext, hparks, rfl, congrArg Timeline.clock htimeline, congrArg Timeline.pausedFrom htimeline,
      congrArg Timeline.startPending htimeline, congrArg Timeline.acc htimeline, congrArg Timeline.beatOpen htimeline,
      congrArg Aside.pointer haside, fun hpaused a ha => ?_, rfl,
      congrArg (fun irq : Interrupts => { irq with status := irq.status ||| 4 }) hirq,
      congrArg Outer.frame houter, congrArg Outer.rate houter, congrArg Outer.engine houter,
      congrArg Outer.startError houter, congrArg Outer.layout houter, congrArg Outer.arbiter houter,
      congrArg Aside.click haside, congrArg Aside.tdm haside, congrArg Aside.players haside, ?_,
      congrArg Aside.owners haside, congrArg Aside.region haside⟩
    · have hruns := clockRuns_of (p := s.part.stored (2#4 ++ argument)) hidle hparked hpaused
      have harms := congrArg CueUnit.arms (hcues.trans (if_pos hruns))
      obtain ⟨b, -, rfl⟩ := List.mem_map.mp (harms ▸ ha)
      rfl
    · refine (congrArg CueUnit.posted hcues).trans ?_
      dsimp only
      split <;> rfl

end Halt

/-! ### The frame count (R3) -/

section FrameCount

variable {p q : Part}

/-- A steady act does not make the engine Running. -/
theorem Steady.not_running (h : Steady p q) (hp : p.engine ≠ .running) : q.engine ≠ .running := by
  obtain hsame | ⟨-, hstopped⟩ := h.engine
  · exact hsame ▸ hp
  · rw [hstopped]
    decide

theorem directoryWord_frame (order : ByteOrder) (read word : List Byte) :
    (p.directoryWord order read word).timeline.frame = p.timeline.frame := by
  unfold Part.directoryWord
  split
  · rfl
  · unfold Part.directoryDone
    split <;> rfl

theorem directoryWord_not_running (order : ByteOrder) (read word : List Byte) (hp : p.engine ≠ .running) :
    (p.directoryWord order read word).engine ≠ .running := by
  obtain hsame | ⟨hstopped, -⟩ := directoryWord_engine (p := p) order read word
  · exact hsame ▸ hp
  · rw [hstopped]
    decide

/-- An engine that becomes Running counts from 0. -/
theorem EngineAct.frame_of_becomes {c : Instr} (h : EngineAct c p q) (hp : p.engine ≠ .running)
    (hq : q.engine = .running) : q.timeline.frame = 0 := by
  cases h with
  | steady h => exact absurd hq (h.not_running hp)
  | counts hc h => exact absurd hq (Steady.not_running (p := p.counted) h hp)
  | resets hc h => exact absurd (h ▸ hq) nofun
  | starts he h => exact absurd (h ▸ hq) nofun
  | stops he h => exact absurd he hp
  | runs d hc hs h => exact h.frame
  | reads x read word order hx hs h =>
    exact absurd hq (h.not_running (directoryWord_not_running order read word (hx.not_running hp)))

theorem EngineAct.frame_kept {c : Instr} (h : EngineAct c p q) (hreset : isReset c = false)
    (hruns : c ≠ .engineBecomesRunning) (hcounts : ¬mayCount c) : q.timeline.frame = p.timeline.frame := by
  cases h with
  | steady h => exact h.frame
  | counts hc h => exact absurd hc hcounts
  | resets hc h => exact absurd hc (by simp [hreset])
  | starts he h => exact h ▸ rfl
  | stops he h =>
    obtain ⟨-, -, -, -, -, -, -, -, hframe⟩ := p.enterStopping_kept
    exact h ▸ hframe
  | runs d hc hs h => exact absurd hc hruns
  | reads x read word order hx hs h => exact (h.frame.trans (directoryWord_frame order read word)).trans hx.frame

theorem Part.frame_frame (p : Part) (order : FrameOrder) : (p.frame order).timeline.frame =
    if p.engine = .running then p.timeline.frame + 1 else p.timeline.frame := by
  have hcounted := p.frame_counted order
  generalize p.frame order = q at *
  exact hcounted.frame

theorem stamp_frame (p : Part) : p.stamp.frame = p.timeline.frame := by
  unfold Part.stamp
  split <;> rfl

end FrameCount

/-- Settles O20, from the acts of each command. -/
theorem frameCountCountsFrames : Obligations.FrameCountCountsFrames := by
  refine ⟨fun order s t h => ?_, fun c s t h hs ht => (exec_act c h).frame_of_becomes hs ht,
    fun c s t h hreset hruns hframe hedge => (exec_act c h).frame_kept hreset hruns ?_, stamp_frame⟩
  · have hnext := Host.Outcome.next.inj ((exec_frameEvent s order).symm.trans h)
    rw [← hnext, State.withPart]
    dsimp only
    rw [Part.frame_frame]
  · rintro (⟨order, rfl⟩ | ⟨order, rfl⟩)
    · exact hframe order rfl
    · exact hedge order rfl

end Sys2Proof.Machine
end

section
/-! PROOFS. Grants of one requester; the directory's checks and the engine becoming Running (10.2, 10.6). -/

namespace Sys2Proof.Machine

/-! ### A grant that is made (R170) -/

section Grants

variable {p : Part} {s : State} {requester : Requester} {access : EngineAccess}

/-- With one requester waiting the rotation does not matter. -/
theorem nextGrant_alone (h : p.accessOf requester = some access)
    (hrest : ∀ r, r ≠ requester → p.accessOf r = none) : p.nextGrant = some (requester, access) := by
  unfold Part.nextGrant
  dsimp only
  cases hrotation : p.arbiter.rotation <;> cases requester <;>
    simp [Requester.next, h, hrest]

theorem engineGrant_of_next (h : s.part.nextGrant = some (requester, access)) :
    s.engineGrant = ((s.withPart fun p => p.markGrant requester).carryOut access).withPart Part.drainTest := by
  unfold State.engineGrant
  rw [h]

/-- A completing access that is the one granted. -/
theorem grantIf_of_next {wanted : State → EngineAccess → Bool} (h : s.part.nextGrant = some (requester, access))
    (hwanted : wanted s access = true) :
    s.grantIf wanted = ((s.withPart fun p => p.markGrant requester).carryOut access).withPart Part.drainTest := by
  rw [← engineGrant_of_next h]
  unfold State.grantIf
  rw [h]
  exact if_pos hwanted

/-- An access that reads: memory stays, and the part acts on the word. -/
theorem carryOut_read {q : Part} (hwrites : (s.part.markGrant requester).accessWrites s.order access = none)
    (heffect : (((s.part.markGrant requester).accessEffect s.order
      (s.mem.readWord (s.part.accessAddress access)) access)).drainTest = q) :
    ((s.withPart fun p => p.markGrant requester).carryOut access).withPart Part.drainTest = { s with part := q } := by
  unfold State.carryOut State.withPart
  dsimp only
  rw [hwrites, ← heffect]
  cases access <;> rfl

end Grants

/-! ### The last word of the directory (R154, R155) -/

section Directory

variable {p : Part} {order : ByteOrder} {bytes : List Byte}

theorem drainTest_of_not_stopping (h : p.engine ≠ .stopping) : p.drainTest = p := (drainTest_drains p).2 (.inl h)

theorem directoryWord_last {read word : List Byte} (h : (read ++ word).length = 512) :
    p.directoryWord order read word =
      if directoryError order (read ++ word) = .none then p.beginLoading (parseDirectory order (read ++ word))
      else p.failStart (directoryError order (read ++ word)) := by
  rw [Part.directoryWord, if_neg (by omega)]
  unfold Part.directoryDone
  cases directoryError order (read ++ word) <;> rfl

end Directory

/-- Settles O7, from the grant of the scene loader alone. -/
theorem directoryReadDecides : Obligations.DirectoryReadDecides := by
  intro s read hengine hstarting hlength hcue hnotice bytes granted fetchOf loading failed
  have hnext : s.part.nextGrant = some (.sceneLoader, .directoryWord read) := by
    refine nextGrant_alone (by simp [Part.accessOf, Part.loaderAccess, hstarting]) fun r hr => ?_
    cases r with
    | cueUnit => exact hcue
    | sceneLoader => exact absurd rfl hr
    | noticeUnit => exact hnotice
  rw [exec_directoryReadComplete, grantIf_of_next hnext (by simp [endsDirectory, hlength])]
  refine congrArg _ (carryOut_read rfl ?_)
  have hword : s.part.accessAddress (.directoryWord read) = 508 := hlength
  rw [hword]
  have hlast := directoryWord_last (p := s.part.markGrant .sceneLoader) (order := s.order) (read := read)
    (word := s.mem.readWord 508) (by rw [List.length_append, hlength]; rfl)
  by_cases h : directoryError s.order bytes = .none
  · rw [if_pos h]
    rw [if_pos h] at hlast
    exact (congrArg Part.drainTest hlast).trans (drainTest_of_not_stopping fun hstop =>
      absurd (hengine.symm.trans hstop) (by decide))
  · rw [if_neg h]
    rw [if_neg h] at hlast
    exact (congrArg Part.drainTest hlast).trans (drainTest_of_not_stopping nofun)

/-! ### The engine becomes Running (R154) -/

section Running

variable {p : Part} {d : Directory}

theorem becomeRunning_of (h : p.starting = .loading d) (hdone : ∀ i : Fin 4, p.loader.clickFetches[i] = none) :
    p.becomeRunning =
      if d.source = .external ∧ p.timeline.monitor = .absent then (p.takeDirectory d).fallBack else p.takeDirectory d := by
  have hclicks : p.loader.clicksDone = true := List.all_eq_true.mpr fun i _ => by simpa using hdone i
  unfold Part.becomeRunning
  rw [h]
  exact if_pos hclicks

end Running

/-- Settles O9, by whether the clock falls back. -/
theorem becomingRunningSetsEveryBlock : Obligations.BecomingRunningSetsEveryBlock := by
  intro s d hloading hdone falls begun origin
  refine ⟨_, next_part (becomeRunning_of hloading hdone), ?_⟩
  by_cases hfalls : falls
  · rw [if_pos hfalls, if_pos hfalls, if_pos hfalls, if_pos hfalls.2]
    rfl
  · have hsource : (if s.part.timeline.monitor = .absent then .internal else d.source) = d.source := by
      by_cases hmonitor : s.part.timeline.monitor = .absent
      · cases h : d.source with
        | external => exact absurd ⟨h, hmonitor⟩ hfalls
        | internal => exact if_pos hmonitor
      · exact if_neg hmonitor
    rw [if_neg hfalls, if_neg hfalls, if_neg hfalls, hsource]
    rfl

/-! ### What the checks of the directory say (R155) -/

section Checks

variable {order : ByteOrder} {bytes : List Byte} {n entries : Nat}

theorem journalEntries_eq_some :
    journalEntries n = some entries ↔
      n = 0 ∧ entries = 64 ∨ n = 1 ∧ entries = 128 ∨ n = 2 ∧ entries = 256 ∨ n = 3 ∧ entries = 512 := by
  unfold journalEntries
  split <;> simp_all [eq_comm]

theorem areasApart_iff (areas : List Area) :
    areasApart areas = true ↔
      (areas.map fun a => (a.base, a.size)).Pairwise fun a b => a.1 + a.2 ≤ b.1 ∨ b.1 + b.2 ≤ a.1 := by
  rw [List.pairwise_map]
  induction areas with
  | nil => simp [areasApart]
  | cons a rest ih => simp [areasApart, Area.apart, ih, List.pairwise_cons]

theorem fitsRam_iff {base length : Nat} : fitsRam base length = true ↔ base + length ≤ Config.ramBytes :=
  decide_eq_true_iff

theorem sound_ok_iff (e : SoundEntry) :
    e.ok = true ↔ (0 < e.length → e.address % 4 = 0 ∧ e.address + 4 * ((e.length + 1) / 2) ≤ Config.ramBytes) := by
  obtain h | h := Nat.eq_zero_or_pos e.length
  · simp [SoundEntry.ok, h]
  · simp only [SoundEntry.ok, soundPlaceOk, soundWords, fitsRam_iff, Bool.or_eq_true, Bool.and_eq_true, beq_iff_eq]
    omega

theorem clampInto_range {low high : Nat} (h : low ≤ high) (n : Nat) :
    low ≤ clampInto low high n ∧ clampInto low high n ≤ high := by
  unfold clampInto
  omega

theorem rateOf_isSome_iff : (rateOf n).isSome = true ↔ n ≤ 2 := by
  unfold rateOf
  split <;> simp_all
  omega

theorem parseRegion_isSome_iff : (parseRegion order bytes).isSome = true ↔ regionValid order bytes = true := by
  unfold parseRegion
  split <;> simp_all

/-- The areas' check, each area as its base and size. -/
theorem areasOk_iff_placed :
    areasOk order bytes = true ↔ ∃ entries, journalEntries (numAt bytes 0x0B) = some entries ∧
      dirCueBoard order bytes % 1024 = 0 ∧ dirJournal order bytes % 16 = 0 ∧ dirSongIndex order bytes % 4 = 0 ∧
      dirSceneIndex order bytes % 4 = 0 ∧
      (∀ a ∈ (dirAreas order bytes entries).map fun a => (a.base, a.size), a.1 + a.2 ≤ Config.ramBytes) ∧
      ((dirAreas order bytes entries).map fun a => (a.base, a.size)).Pairwise
        (fun a b => a.1 + a.2 ≤ b.1 ∨ b.1 + b.2 ≤ a.1) ∧
      ∀ n, n < 4 → 0 < (dirSound order bytes n).length → (dirSound order bytes n).address % 4 = 0 ∧
        (dirSound order bytes n).address + 4 * (((dirSound order bytes n).length + 1) / 2) ≤ Config.ramBytes := by
  rw [areasOk_iff]
  simp only [areasApart_iff, sound_ok_iff, List.forall_mem_map]

/-- The start error by the checks in their order. -/
theorem directoryError_cases (order : ByteOrder) (bytes : List Byte) :
    (fieldAt order bytes 0 4 ≠ 0x53583234 → directoryError order bytes = .badSignature) ∧
    (fieldAt order bytes 0 4 = 0x53583234 →
      (fieldAt order bytes 4 2 ≠ 1 → directoryError order bytes = .badVersion) ∧
      (fieldAt order bytes 4 2 = 1 →
        (2 < numAt bytes 6 → directoryError order bytes = .badRate) ∧
        (numAt bytes 6 ≤ 2 → (¬areasOk order bytes = true → directoryError order bytes = .badArea) ∧
          (areasOk order bytes = true →
            (¬(parseRegion order (dirRegion bytes)).isSome = true → directoryError order bytes = .badMap) ∧
            ((parseRegion order (dirRegion bytes)).isSome = true → directoryError order bytes = .none))))) := by
  have hrate : (rateOf (numAt bytes 6)).isNone = true ↔ 2 < numAt bytes 6 := by
    rw [← Nat.not_le, ← rateOf_isSome_iff, ← Option.not_isSome, Bool.not_eq_true', Bool.not_eq_true]
  rw [parseRegion_isSome_iff]
  unfold directoryError
  simp only [hrate]
  grind

end Checks

/-- Settles O8, from the checks in their order and the clamps of the values. -/
theorem passedDirectoryIsSound : Obligations.PassedDirectoryIsSound := by
  intro order bytes error num field size read placed mapped
  have hsize {entries : Nat} : journalEntries (num 0x0B) = some entries → size = 16 + 16 * entries := fun h => by
    obtain ⟨hn, rfl⟩ | ⟨hn, rfl⟩ | ⟨hn, rfl⟩ | ⟨hn, rfl⟩ := journalEntries_eq_some.mp h <;>
      exact congrArg (16 + 16 * ·) (by rw [hn]; rfl)
  have hread {entries : Nat} (h : journalEntries (num 0x0B) = some entries) :
      (dirAreas order bytes entries).map (fun a => (a.base, a.size)) = read := by
    simp only [read, hsize h]
    rfl
  have hplaced : placed ↔ areasOk order bytes = true := by
    rw [areasOk_iff_placed]
    constructor
    · rintro ⟨hcode, hrest⟩
      obtain ⟨entries, hentries⟩ : ∃ entries, journalEntries (num 0x0B) = some entries := by
        simp only [journalEntries_eq_some]
        grind
      exact ⟨entries, hentries, (hread hentries).symm ▸ hrest⟩
    · rintro ⟨entries, hentries, hrest⟩
      have hcode : num 0x0B ≤ 3 := by
        have hcodes : num 0x0B = 0 ∧ _ ∨ _ := journalEntries_eq_some.mp hentries
        omega
      exact ⟨hcode, hread hentries ▸ hrest⟩
  obtain ⟨hsignature, hversion⟩ := directoryError_cases order bytes
  refine ⟨hsignature, fun hs => ⟨(hversion hs).1, fun hv => ⟨((hversion hs).2 hv).1, fun hr => ?_⟩⟩, fun herror => ?_⟩
  · rw [hplaced]
    exact ((hversion hs).2 hv).2 hr
  · intro d areas
    obtain ⟨-, -, -, hok, -⟩ := directoryError_none_iff.mp herror
    obtain ⟨entries, hentries, hboard, hjournal, hsong, hscene, hinside, hapart, hsounds⟩ := areasOk_iff_placed.mp hok
    have hdsize : d.journal.size = entries := congrArg (·.getD 64) hentries
    have hareas : (dirAreas order bytes entries).map (fun a => (a.base, a.size)) = areas := by
      simp only [areas, hdsize]
      rfl
    rw [hareas] at hinside hapart
    have hvalues := journalEntries_eq_some.mp hentries
    refine ⟨hapart, hinside, hboard, hjournal, hsong, hscene, by omega, fun i hi => ?_, ?_, ?_, ?_, ?_⟩
    · have hsound : d.sounds[i] = dirSound order bytes i.val := Vector.getElem_ofFn i.isLt
      rw [hsound] at hi ⊢
      have hplace := hsounds i.val i.isLt hi
      omega
    · have hthreshold : d.journal.threshold = clampInto 1 d.journal.size (fieldAt order bytes 0x0C 2) := rfl
      rw [hthreshold, clampInto]
      omega
    · exact clampInto_range (by decide) _
    · exact clampInto_range (by decide) _
    · exact Nat.min_le_right _ _

end Sys2Proof.Machine
end

section
/-! PROOFS. Frames between boundaries, the tempo's arithmetic, the external clock and taps (1.2 to 1.5, 1.7, 3.3). -/

namespace Sys2Proof.Machine

/-! ### The accumulator's arithmetic (R6) -/

/-- Settles O26, rate by rate: a tempo is less than a fine tick's units. -/
theorem tickIndexRisesByOne : Obligations.TickIndexRisesByOne := by
  intro rate acc tempo hacc htempo
  cases rate <;> simp only [SampleRate.t, SampleRate.d, SampleRate.hz] at * <;> omega

/-! ### The external clock (R22) -/

section ExternalClock

variable {p : Part}

theorem monitorAbsent_falls (hengine : p.engine = .running) (hsource : p.timeline.source = .external) :
    p.monitorAbsent = { p with
      timeline := { p.timeline with monitor := .absent, source := .internal }
      irq := { p.irq with status := p.irq.status ||| 16 }
      notice := p.handed .clockFallback } := by
  rw [Part.monitorAbsent, if_pos ⟨hengine, hsource⟩]
  rfl

theorem monitorAbsent_stays (h : ¬(p.engine = .running ∧ p.timeline.source = .external)) :
    p.monitorAbsent = p.setMonitor .absent := if_neg h

end ExternalClock

/-- Settles O27, by whether the part is Running on the external clock. -/
theorem externalClockCommands : Obligations.ExternalClockCommands := by
  intro order s p fallen
  refine ⟨fun hengine hsource => ⟨?_, ?_⟩, fun h => ⟨?_, ?_⟩, fun hsource => ?_, fun hsource => ?_⟩
  · exact next_part ((if_pos ⟨hengine, hsource⟩).trans (monitorAbsent_falls hengine hsource))
  · exact next_part (monitorAbsent_falls hengine hsource)
  · refine congrArg _ (withPart_of_eq (if_neg fun hboth => ?_))
    obtain h | h := h
    · exact h hboth.1
    · exact absurd (h.symm.trans hboth.2) (by decide)
  · refine next_part (monitorAbsent_stays fun hboth => ?_)
    obtain h | h := h
    · exact h hboth.1
    · exact absurd (h.symm.trans hboth.2) (by decide)
  · refine next_part (if_neg fun hexternal => ?_)
    exact absurd (hsource.symm.trans hexternal) (by decide)
  · exact next_part (if_pos hsource)

/-! ### Taps (R13, R14) -/

section Taps

variable {p : Part} {last : Word}

theorem tap_first (hengine : p.engine = .running) (h : p.timeline.lastTap = none) :
    p.tap = p.recordTap p.timeline.intervals := by
  unfold Part.tap
  rw [if_neg (not_not.mpr hengine), h]

/-- A tap after another, by the frames between them. -/
theorem tap_next (hengine : p.engine = .running) (h : p.timeline.lastTap = some last) :
    p.tap =
      let i := (p.timeline.frame - last).toNat
      let held := pushInterval p.timeline.intervals i
      if i = 0 then p
      else if 3 * p.timeline.rate.hz < i then p.recordTap []
      else if 30000 < tapTempo p.timeline.rate.d held.length held.sum then p.recordTap []
      else (p.recordTap held).tapResult held.length (tapTempo p.timeline.rate.d held.length held.sum) := by
  unfold Part.tap
  rw [if_neg (not_not.mpr hengine), h]

end Taps

/-- Settles O28, by the frames between two taps. -/
theorem tapMeasuresTheInterval : Obligations.TapMeasuresTheInterval := by
  intro s p recorded
  refine ⟨fun hengine => congrArg _ (withPart_of_eq (tap_not_running hengine)), fun hengine =>
    ⟨fun hlast => next_part (tap_first hengine hlast), fun last hlast => ?_⟩⟩
  intro i held n result
  have htap := tap_next hengine hlast
  refine ⟨fun hi => congrArg _ (withPart_of_eq (htap.trans (if_pos hi))), fun hi =>
    next_part (htap.trans ((if_neg (by omega)).trans (if_pos hi))), fun hpos hi => ?_⟩
  have hmeasured := htap.trans ((if_neg (Nat.pos_iff_ne_zero.mp hpos)).trans (if_neg (Nat.not_lt.mpr hi)))
  refine ⟨fun hresult => next_part (hmeasured.trans (if_pos hresult)), fun hresult => ?_⟩
  intro reported
  have hreported := hmeasured.trans (if_neg (Nat.not_lt.mpr hresult))
  refine ⟨fun hfollow => ?_, fun hfollow => ?_⟩
  · exact next_part (hreported.trans (if_neg (by simpa using hfollow)))
  · exact next_part (hreported.trans (if_pos hfollow))

/-! ### A mix in a frame (R48) -/

section Mixes

variable {m : Mix} {sounds : Vector Sound 4} {sound : Fin 4}

theorem render_silent (h : m.mute = true ∨ m.cursor.running = false) : m.render sounds = (m, 0) := by
  unfold Mix.render
  split
  · rfl
  · exact if_pos (by simpa using h)

theorem render_sounding (hmute : m.mute = false) (hrunning : m.cursor.running = true) (hsound : m.cursor.sound = some sound) :
    m.render sounds =
      ({ m with cursor := { m.cursor with
          position := m.cursor.position + 1, running := m.cursor.position + 1 != (sounds[sound]).length } },
        clickValue ((sounds[sound]).sample m.cursor.position) m.cursor.level m.trim) := by
  unfold Mix.render
  rw [hsound]
  exact if_neg (by simp [hmute, hrunning])

theorem clickValue_eq (sample : Halfword) (level trim : Nat) :
    clickValue sample level trim =
      if sample.toInt * level * trim / 64 < -8388608 then -8388608
      else if 8388607 < sample.toInt * level * trim / 64 then 8388607
      else sample.toInt * level * trim / 64 := by
  unfold clickValue
  omega

end Mixes

/-- Settles O22, by whether the mix sounds. -/
theorem renderedMixValue : Obligations.RenderedMixValue := by
  intro m sounds sound
  refine ⟨render_silent, fun hmute hrunning hsound => ?_⟩
  intro sample exact
  refine ⟨(congrArg Prod.snd (render_sounding hmute hrunning hsound)).trans (clickValue_eq _ _ _), ?_⟩
  rw [render_sounding hmute hrunning hsound]
  have hrunning (n : Nat) : (m.cursor.position + 1 != n) = decide (m.cursor.position + 1 ≠ n) := by
    rw [Bool.eq_iff_iff, bne_iff_ne, decide_eq_true_iff]
  rw [hrunning]

/-! ### Frames without an announcement (R2, R3) -/

section Frames

variable {p : Part} {order : FrameOrder}

theorem tdmSlot_toInt {value : Int} (hlow : -8388608 ≤ value) (hhigh : value ≤ 8388607) :
    (tdmSlot value).toInt = value * 256 := by
  rw [tdmSlot, BitVec.toInt_ofInt, Int.bmod_eq_of_le (by omega) (by omega)]

theorem tdmSlot_low (value : Int) : (tdmSlot value).extractLsb' 0 8 = 0 := by
  apply BitVec.eq_of_toNat_eq
  rw [tdmSlot, BitVec.extractLsb'_toNat, BitVec.toNat_ofInt]
  have hzero : (0 : BitVec 8).toNat = 0 := rfl
  rw [hzero]
  omega

theorem counted_nextCue (h : p.quiet = true) : p.tickCountdowns.countFrame.nextCue = none :=
  (nextCue_congr (p := p) (q := p.tickCountdowns.countFrame) rfl (tick_heldSlot p)).trans (quiet_spec p h).2.1

/-- A frame in which the timeline hands nothing on and nothing is overdue. -/
theorem frame_rendered {q : Part} (h : p.quiet = true) (hact : p.tickCountdowns.countFrame.timelineAct = (q, .nothing))
    (harms : q.cues.arms = p.cues.arms) (hheld : q.loader.held = p.tickCountdowns.loader.held) :
    p.frame order = q.render := by
  have hcue : q.nextCue = p.tickCountdowns.countFrame.nextCue :=
    nextCue_congr harms (by unfold Part.heldSlot; rw [hheld]; rfl)
  rw [frame_quiet p order h, hact]
  exact blocksAct_nothing q order (hcue.trans (counted_nextCue h))

theorem timelineAct_still (h : p.clockRuns = false) : p.timelineAct = (p, .nothing) := by
  rw [Part.timelineAct, h]
  rfl

theorem timelineAct_runs (h : p.clockRuns = true) (hpending : p.timeline.startPending = false) :
    p.timelineAct = p.accumulate := by
  rw [Part.timelineAct, h, hpending]
  rfl

theorem render_running (h : p.engine = .running) : p.render = { p with
    click := { p.click with mixes := Vector.ofFn fun i => ((p.click.mixes[i]).render p.click.sounds).1 }
    tdm := Vector.ofFn fun i => tdmSlot ((p.click.mixes[i]).render p.click.sounds).2 } := if_pos h

theorem render_not_running (h : p.engine ≠ .running) : p.render = { p with tdm := Vector.replicate 8 0 } := if_neg h

end Frames

/-- Settles O21, from the frame rendered. -/
theorem quietFrameOnlyCounts : Obligations.QuietFrameOnlyCounts := by
  intro order s hquiet hclock p r settled slot counted
  have hframe : s.part.frame order = s.part.tickCountdowns.countFrame.render :=
    frame_rendered hquiet (timelineAct_still hclock) rfl rfl
  refine ⟨fun value hlow hhigh => ⟨tdmSlot_toInt hlow hhigh, tdmSlot_low value⟩, fun hengine => ?_, fun hengine => ?_⟩
  · exact next_part (hframe.trans (render_running hengine))
  · exact next_part (hframe.trans (render_not_running hengine))

/-! ### Fine ticks (R6, R20, R45) -/

section Ticks

variable {p x : Part} {order : FrameOrder} {index : Nat}

theorem fineTick_pulsed (h : index % 40 = 0) : x.pulsed (x.fineTick index) x.timeline.startByte := by
  unfold Part.fineTick Part.syncPulse
  dsimp only
  rw [if_pos h]
  cases hbyte : x.timeline.startByte <;>
    simp [Part.pulsed, Part.setPointer, Part.requestRt, Voices.request, StartByte.owesPulse, StartByte.pulsed, hbyte]

theorem fineTick_silent (h : index % 40 ≠ 0) :
    (x.fineTick index).voices = x.voices ∧ (x.fineTick index).timeline.startByte = x.timeline.startByte := by
  rw [Part.fineTick, if_neg h]
  exact ⟨rfl, rfl⟩

theorem pulsed_congr {p q p' q' : Part} {owed : StartByte} (h : p.pulsed q owed) (hp : p'.voices = p.voices)
    (hq : q'.voices = q.voices) (hbyte : q'.timeline.startByte = q.timeline.startByte) : p'.pulsed q' owed := by
  unfold Part.pulsed at *
  rw [hp, hq, hbyte]
  exact h

/-- A Sub tick of the current section, and no other fine tick, is a click event. -/
theorem subClick_of {sec : SongSection} (hsec : x.currentSection = some sec) :
    (x.pointer.phase = .song ∧ index ≠ 0 ∧ index % (960 / sec.subdivision) = 0 →
      x.subClick index = x.clickEvent .sub x.stamp) ∧
    (¬(x.pointer.phase = .song ∧ index ≠ 0 ∧ index % (960 / sec.subdivision) = 0) → x.subClick index = x) := by
  unfold Part.subClick
  rw [hsec]
  cases hphase : x.pointer.phase <;> simp [isSubTick]
  grind

/-- Below a boundary: no new fine tick, or one. -/
theorem accumulate_below (h : x.timeline.acc + x.timeline.tempo < x.timeline.rate.d) :
    x.accumulate =
      if x.timeline.acc / x.timeline.rate.t < (x.timeline.acc + x.timeline.tempo) / x.timeline.rate.t then
        ((x.setAcc (x.timeline.acc + x.timeline.tempo) false).fineTick
            ((x.timeline.acc + x.timeline.tempo) / x.timeline.rate.t),
          .tick ((x.timeline.acc + x.timeline.tempo) / x.timeline.rate.t))
      else (x.setAcc (x.timeline.acc + x.timeline.tempo) false, .nothing) :=
  if_neg (Nat.not_le.mpr h)

/-- A frame that brings a fine tick. -/
theorem frame_tick {y : Part} (h : p.quiet = true)
    (hact : p.tickCountdowns.countFrame.timelineAct = (y, .tick index)) :
    p.frame order = (y.subClick index).render := by
  rw [frame_quiet p order h, hact]
  rfl

end Ticks

/-- Settles O23, by whether the frame brings a fine tick. -/
theorem frameAccumulatesTempo : Obligations.FrameAccumulatesTempo := by
  intro order s hquiet hclock hpending p sum index ticked hbelow
  have hact := (timelineAct_runs (p := p) hclock hpending).trans (accumulate_below (x := p) hbelow)
  refine ⟨fun hsame => ?_, fun hrises => ?_⟩
  · exact next_part (frame_rendered hquiet (hact.trans (if_neg (Nat.not_lt.mpr (Nat.le_of_eq hsame)))) rfl rfl)
  · have hframe : s.part.frame order = (((p.setAcc sum false).fineTick index).subClick index).render :=
      frame_tick hquiet (hact.trans (if_pos hrises))
    obtain ⟨byte, voices, htick⟩ := fineTick_shape (p.setAcc sum false) index
    have hpulsed := fun h => fineTick_pulsed (x := p.setAcc sum false) (index := index) h
    have hsilent := fun h => fineTick_silent (x := p.setAcc sum false) (index := index) h
    rw [htick] at hframe hpulsed hsilent
    obtain ⟨click, tdm, notice, hrendered⟩ := subClick_render_shape { p.setAcc sum false with
      timeline := { (p.setAcc sum false).timeline with startByte := byte }
      pointer := { (p.setAcc sum false).pointer with lastTick := index }
      voices := voices } index
    refine ⟨_, next_part hframe, ?_, fun h => ?_, fun h => ?_, fun sec hengine hsec => ?_⟩
    · rw [hrendered]
      rfl
    · rw [hrendered]
      exact pulsed_congr (hpulsed h) rfl rfl rfl
    · rw [hrendered]
      exact hsilent h
    · intro sub
      obtain ⟨hsub, hother⟩ := subClick_of (index := index) (x := { p.setAcc sum false with
        timeline := { (p.setAcc sum false).timeline with startByte := byte }
        pointer := { (p.setAcc sum false).pointer with lastTick := index }
        voices := voices }) (sec := sec) hsec
      refine ⟨fun h => ?_, fun h => ?_⟩
      · rw [hsub h]
        exact clicked_of p _ .sub _ rfl rfl rfl hengine
      · rw [hother h]
        exact ⟨rendered_render _ hengine, render_notice _⟩

end Sys2Proof.Machine
end

section
/-! PROOFS. Beat boundaries and the start frame (2.3, 2.4, 1.3, 1.4). -/

namespace Sys2Proof.Machine

/-! ### The lookahead trigger and section entries (R30, R40) -/

section Entries

variable {p : Part} {sec : SongSection} {target pass : Nat} {cause : EntryCause} {song : Song}

theorem sectionAt_isSome (p : Part) (i : Nat) : (p.sectionAt i).isSome = true ↔ i < p.sectionCount := by
  unfold Part.sectionAt Part.sectionCount
  cases p.loader.activeSong <;> simp

theorem nextTrigger_eq (p : Part) : p.nextTrigger = p.triggerAt p.pointer := by
  unfold Part.nextTrigger Part.triggerAt
  simp only [sectionAt_isSome] <;> rfl

theorem oneBarSection_eq (h : p.currentSection = some sec) : p.oneBarSection = decide (sec.bars ≤ 1) := by
  rw [Part.oneBarSection, h]

theorem giveTriggerIf_of (condition : Bool) (hphase : p.pointer.phase = .song) (hidle : p.timeline.clock ≠ .idle)
    (hparked : p.timeline.clock ≠ .parked) :
    p.giveTriggerIf condition = { p with loader := { p.loader with
      trigger := if condition then some (p.triggerAt p.pointer) else p.loader.trigger } } := by
  rw [Part.giveTriggerIf, nextTrigger_eq]
  cases condition
  · rfl
  · exact if_pos (by simp [hphase, hidle, hparked])

/-- The pointer at bar 1, beat 1 of a section it enters. -/
def SongPointer.entered (r : SongPointer) (target pass : Nat) : SongPointer :=
  { r with phase := .song, sectionIndex := target, pass := pass, bar := 1, beat := 1, lastTick := 0, leave := false }

theorem enterSection_of (hsec : p.sectionAt target = some sec) (hidle : p.timeline.clock ≠ .idle)
    (hparked : p.timeline.clock ≠ .parked) :
    p.enterSection target pass cause = { p with
      pointer := p.pointer.entered target pass
      loader := { p.loader with
        trigger := if sec.bars ≤ 1 then some (p.triggerAt (p.pointer.entered target pass)) else none }
      notice := p.notice.handOver { event := .sectionEntered cause target pass
                                    stamp := ({ p with pointer := p.pointer.entered target pass } : Part).stamp } } := by
  have hone : ((({ p with pointer := p.pointer.entered target pass } : Part).setTrigger none).journal
      (.sectionEntered cause target pass)).oneBarSection = decide (sec.bars ≤ 1) := by
    exact oneBarSection_eq hsec
  have hgives := giveTriggerIf_of (p := (({ p with pointer := p.pointer.entered target pass } : Part).setTrigger none).journal
    (.sectionEntered cause target pass)) (decide (sec.bars ≤ 1)) rfl hidle hparked
  rw [← hone] at hgives
  refine hgives.trans ?_
  rw [hone]
  by_cases h : sec.bars ≤ 1
  · simp only [h, decide_true, if_true]
    rfl
  · simp only [h, decide_false, if_false]
    rfl

/-- The pointer at Song-phase bar 1 of the start section. -/
def SongPointer.atSong (r : SongPointer) : SongPointer :=
  { r with phase := .song, sectionIndex := r.startSection, pass := 1, bar := 1, beat := 1, lastTick := 0, barsPlayed := 1 }

theorem startSong_of (hsec : p.sectionAt p.pointer.startSection = some sec) :
    p.startSong = { p with
      timeline := { p.timeline with clock := .playing, startByte := .nextPulse }
      pointer := p.pointer.atSong
      loader := { p.loader with
        trigger := if sec.bars ≤ 1 ∨ p.pointer.leave = true then some (p.triggerAt p.pointer.atSong)
          else p.loader.trigger }
      notice := p.notice.handOver { event := .sectionEntered .start p.pointer.startSection 1
                                    stamp := ({ p with pointer := p.pointer.atSong } : Part).stamp } } := by
  have hone : (({ p with
      pointer := p.pointer.atSong
      timeline := { p.timeline with clock := .playing, startByte := .nextPulse } } : Part).journal
      (.sectionEntered .start p.pointer.startSection 1)).oneBarSection = decide (sec.bars ≤ 1) := by
    exact oneBarSection_eq hsec
  have hgives := giveTriggerIf_of (p := ({ p with
      pointer := p.pointer.atSong
      timeline := { p.timeline with clock := .playing, startByte := .nextPulse } } : Part).journal
      (.sectionEntered .start p.pointer.startSection 1)) (decide (sec.bars ≤ 1) || p.pointer.leave) rfl (by nofun) (by nofun)
  rw [← hone] at hgives
  refine hgives.trans ?_
  rw [hone]
  by_cases h : sec.bars ≤ 1 ∨ p.pointer.leave = true
  · rw [if_pos h, if_pos (by simpa using h)]
    rfl
  · rw [if_neg h, if_neg (by simpa using h)]
    rfl

/-- The tempo of a section's first beat. -/
theorem scheduleTempo_first (hphase : p.pointer.phase = .song) (hbar : p.pointer.bar = 1) (hbeat : p.pointer.beat = 1)
    (hsec : p.currentSection = some sec) : p.scheduleTempo = clampTempo sec.startTempo := by
  rw [Part.scheduleTempo, hphase, hsec]
  dsimp only
  rw [hbar, hbeat]
  rw [SongSection.tempoAt, Nat.sub_self, Nat.zero_mul]
  exact rampTempo_zero _ _ _

theorem scheduleTempo_song (hphase : p.pointer.phase = .song) (hsec : p.currentSection = some sec) :
    p.scheduleTempo = rampTempo (clampTempo sec.startTempo) (clampTempo sec.endTempo)
      ((p.pointer.bar - 1) * sec.beats + (p.pointer.beat - 1)) (sec.bars * sec.beats) := by
  rw [Part.scheduleTempo, hphase, hsec]
  rfl

theorem scheduleTempo_countIn (hphase : p.pointer.phase = .countIn)
    (hsec : p.sectionAt p.pointer.startSection = some sec) : p.scheduleTempo = clampTempo sec.startTempo := by
  rw [Part.scheduleTempo, hphase]
  dsimp only
  rw [Part.startTempo, hsec]

end Entries

/-! ### The end of a section (R30, R31) -/

section SectionEnd

variable {p : Part} {sec next : SongSection} {early : Bool} {song : Song}

theorem endSection_next (hnext : p.sectionAt (p.pointer.sectionIndex + 1) = some next) :
    p.endSection false early =
      ((p.setPointer { p.pointer with vamp := false }).enterSection (p.pointer.sectionIndex + 1) 1
        (if early then .early else .advance), .boundary .newSection) := by
  have hcount : p.pointer.sectionIndex + 1 < p.sectionCount := (sectionAt_isSome p _).mp (by rw [hnext]; rfl)
  exact if_pos hcount

theorem endSection_last (hsong : p.loader.activeSong = some song)
    (hlast : song.sections.length = p.pointer.sectionIndex + 1) :
    p.endSection false early =
      if song.loopLast then
        ((p.setPointer { p.pointer with vamp := false }).enterSection p.pointer.sectionIndex (min (p.pointer.pass + 1) 255)
          .loopLast, .boundary .newSection)
      else (p.setPointer { p.pointer with vamp := false }, .songEnd) := by
  have hcount : ¬p.pointer.sectionIndex + 1 < p.sectionCount := by
    simp [Part.sectionCount, hsong, hlast]
  unfold Part.endSection
  dsimp only
  rw [if_neg (by decide), if_neg hcount, hsong]

end SectionEnd

/-! ### The advance (R28, R29, R32) -/

section Advances

variable {p a : Part} {sec : SongSection} {kind : BoundaryKind}

theorem advance_song (hentry : p.pointer.entry = none) (hsec : p.currentSection = some sec)
    (hphase : p.pointer.phase = .song) : p.advance = p.advanceSong sec := by
  rw [Part.advance, hentry, hsec, hphase]

theorem advance_countIn (hentry : p.pointer.entry = none) (hsec : p.currentSection = some sec)
    (hphase : p.pointer.phase = .countIn) : p.advance = p.advanceCountIn sec := by
  rw [Part.advance, hentry, hsec, hphase]

theorem advance_lands {e : PendingEntry} (hentry : p.pointer.entry = some e) :
    p.advance = (p.land e.target e.cause, .boundary .newSection) := by
  rw [Part.advance, hentry]

theorem beatBoundary_of (h : p.advance = (a, .boundary kind)) : p.beatBoundary = a.boundaryTaken kind := by
  rw [Part.beatBoundary, h]

theorem beatBoundary_ends (h : p.advance = (a, .songEnd)) : p.beatBoundary = (a.endSong p.stamp, .nothing) := by
  rw [Part.beatBoundary, h]

/-- With the accumulator at the denominator the frame is a beat boundary (R4). -/
theorem accumulate_boundary (h : p.timeline.rate.d ≤ p.timeline.acc + p.timeline.tempo) :
    p.accumulate = (p.setAcc (p.timeline.acc + p.timeline.tempo - p.timeline.rate.d) true).beatBoundary := if_pos h

theorem stamp_phase (h : p.pointer.loaded = true) : p.stamp.phase = p.pointer.phase := by
  rw [Part.stamp, if_pos h]

end Advances

/-! ### The frame of a boundary (R33) -/

section BoundaryFrame

variable {s : State} {a : Part} {order : FrameOrder} {kind : BoundaryKind} {scheduled : Nat}

/-- A boundary that the timeline has taken: the tempo of its beat, its sync pulse and its announcement. -/
theorem boundary_frame (hquiet : s.part.quiet = true)
    (hact : s.part.tickCountdowns.countFrame.timelineAct = a.boundaryTaken kind)
    (hidle : order.cues = none ∨ a.cues.arms = []) (htick : a.pointer.lastTick = 0)
    (hscheduled : a.scheduleTempo = scheduled) :
    ∃ y q, exec (.frameEvent order) s = .next { s with part := q } ∧
      y = { a with
        timeline := { a.timeline with
          tempo := y.timeline.tempo, plan := y.timeline.plan, startByte := y.timeline.startByte }
        voices := y.voices } ∧
      a.paces y scheduled (kind == .newSection) ∧ a.pulsed y a.timeline.startByte ∧
      y.announced q order kind (boundaryClass y.stamp.phase kind) := by
  have hframe : s.part.frame order = ((a.fixTempo (kind == .newSection)).fineTick 0).blocksAct order
      (.boundary kind ((a.fixTempo (kind == .newSection)).fineTick 0).stamp) := by
    rw [frame_quiet _ _ hquiet, hact]
    rfl
  have hpaces := paces_fixTempo a (kind == .newSection) scheduled hscheduled
  obtain ⟨timeline, hfixed, htimeline⟩ := fixTempo_shape a (kind == .newSection)
  have hannounced := fun h => blocksAct_announced ((a.fixTempo (kind == .newSection)).fineTick 0) order kind h
  rw [hfixed] at hframe hpaces hannounced
  have hpulsed := fineTick_pulsed (x := { a with timeline := timeline }) (index := 0) rfl
  obtain ⟨byte, voices, hticked⟩ := fineTick_shape { a with timeline := timeline } 0
  rw [hticked] at hframe hpulsed hannounced
  have hpointer : { a.pointer with lastTick := 0 } = a.pointer := by rw [← htick]
  have hbyte : timeline.startByte = a.timeline.startByte := by rw [htimeline]
  generalize hy : ({ a with timeline := { timeline with startByte := byte }
                            pointer := { a.pointer with lastTick := 0 }
                            voices := voices } : Part) = y at hframe hpulsed hannounced
  refine ⟨y, _, next_part hframe, ?_, paces_congr hpaces rfl (by rw [← hy]) (by rw [← hy]),
    hbyte ▸ pulsed_congr hpulsed rfl rfl rfl, hannounced (by rw [← hy]; exact hidle)⟩
  rw [← hy]
  dsimp only
  rw [hpointer, htimeline]

/-- The click class of a boundary of a loaded song, by the phase that the pointer has reached. -/
theorem boundaryClass_stamp {y : Part} (h : y.pointer.loaded = true) :
    boundaryClass y.stamp.phase kind = boundaryClass y.pointer.phase kind := by
  rw [stamp_phase h]

end BoundaryFrame

/-! ### The start frame (R27) -/

section StartFrame

variable {p : Part}

/-- A Start that is pending no more. -/
def Part.startTaken (p : Part) : Part := { p with timeline := { p.timeline with startPending := false } }

theorem timelineAct_starts (h : p.clockRuns = true) (hpending : p.timeline.startPending = true) :
    p.timelineAct = p.startTaken.placeAtStart.boundaryTaken .bar := by
  rw [Part.timelineAct, h, hpending]
  rfl

theorem clock_of_runs (h : p.clockRuns = true) : p.timeline.clock = .countIn ∨ p.timeline.clock = .playing := by
  simpa [Part.clockRuns] using h

theorem not_idle_of_runs (h : p.clockRuns = true) : p.timeline.clock ≠ .idle := by
  obtain h | h := clock_of_runs h <;> rw [h] <;> decide

theorem not_parked_of_runs (h : p.clockRuns = true) : p.timeline.clock ≠ .parked := by
  obtain h | h := clock_of_runs h <;> rw [h] <;> decide

/-- The pointer at the first beat of the count-in. -/
def SongPointer.atCountIn (r : SongPointer) : SongPointer :=
  { r with phase := .countIn, sectionIndex := r.startSection, pass := 1, bar := 1, countInBar := 1, beat := 1, lastTick := 0
           barsPlayed := 0 }

theorem placeAtStart_countIn (h : p.timeline.clock = .countIn) :
    p.placeAtStart = { p with pointer := p.pointer.atCountIn } := if_pos h

theorem placeAtStart_song (h : p.timeline.clock ≠ .countIn) : p.placeAtStart = p.startSong := if_neg h

end StartFrame

/-- Settles O25, by whether the song is counted in. -/
theorem startFramePlacesThePointer : Obligations.StartFramePlacesThePointer := by
  intro order s sec hquiet hclock hpending hidle hsec p ptr start counts atCountIn atSong placed
  have hact := timelineAct_starts (p := p) hclock hpending
  by_cases hcounts : counts
  · rw [placeAtStart_countIn (p := p.startTaken) hcounts] at hact
    obtain ⟨y, q, hexec, hy, hpaces, hpulsed, hannounced⟩ := boundary_frame hquiet hact hidle rfl
      (scheduleTempo_countIn (sec := sec) rfl hsec)
    have hpointer : y.pointer = ptr.atCountIn := congrArg Part.pointer hy
    refine ⟨y, q, hexec, ?_, paces_congr hpaces rfl rfl rfl, ?_, _, fun hloaded => ?_, hannounced⟩
    · rw [if_neg (fun h => h.1 hcounts), if_pos hcounts, show placed = atCountIn from if_pos hcounts]
      exact hy
    · rw [if_pos hcounts]
      exact pulsed_congr hpulsed rfl rfl rfl
    · rw [if_pos hcounts, boundaryClass_stamp (by rw [hpointer]; exact hloaded), hpointer]
      rfl
  · have hplaying : p.timeline.clock = .playing := (clock_of_runs (p := p) hclock).resolve_left hcounts
    rw [placeAtStart_song (p := p.startTaken) hcounts, startSong_of (p := p.startTaken) (sec := sec) hsec] at hact
    obtain ⟨y, q, hexec, hy, hpaces, hpulsed, hannounced⟩ := boundary_frame hquiet hact hidle rfl
      (scheduleTempo_first (sec := sec) rfl rfl rfl hsec)
    have hpointer : y.pointer = ptr.atSong := congrArg Part.pointer hy
    refine ⟨y, q, hexec, ?_, paces_congr hpaces rfl rfl rfl, ?_, _, fun hloaded => ?_, hannounced⟩
    · rw [if_neg hcounts, show placed = atSong from if_neg hcounts]
      refine hy.trans ?_
      rw [← hplaying]
      simp only [hcounts, not_false_eq_true, true_and]
      rfl
    · rw [if_neg hcounts]
      exact pulsed_congr hpulsed rfl rfl rfl
    · rw [if_neg hcounts, boundaryClass_stamp (by rw [hpointer]; exact hloaded), hpointer]
      rfl

/-! ### The song's end (R31) -/

section SongEnd

variable {p z : Part} {order : FrameOrder} {sec : SongSection} {song : Song}

theorem endSong_eq {final : Stamp} (h : p.loader.activeSong = some song) :
    p.endSong final = (p.journalAt final (.songEnded song.number)).enterParked := by
  rw [Part.endSong, Part.activeSongNumber, h]
  rfl

/-- With the shadow neither ready nor a cue's, a scene considered makes no switch and journals nothing. -/
theorem considerScene_silent (target : Nat) (cause : SectionCause) (hready : p.loader.ready = false)
    (howner : ∀ slot, p.loader.owner ≠ some (.cue slot)) (hlate : p.loader.late = none) (htrigger : p.loader.trigger = none) :
    (p.considerScene target cause).notice = p.notice ∧ (p.considerScene target cause).voices = p.voices := by
  have hfree : p.freeShadow.notice = p.notice ∧ p.freeShadow.voices = p.voices := by
    rw [freeShadow_untriggered p hlate htrigger]
    exact ⟨rfl, rfl⟩
  have hlate (late : Option LateSwitch) : (p.setLate late).notice = p.notice ∧ (p.setLate late).voices = p.voices :=
    ⟨rfl, rfl⟩
  have hlook (scene : Nat) (late : Option LateSwitch) :
      ((p.lookFor scene).setLate late).notice = p.notice ∧ ((p.lookFor scene).setLate late).voices = p.voices := ⟨rfl, rfl⟩
  unfold Part.considerScene
  cases p.sceneOf target with
  | none =>
    dsimp only
    split
    · exact hfree
    · exact ⟨rfl, rfl⟩
  | some scene =>
    dsimp only
    split
    · split
      · exact hfree
      · exact ⟨rfl, rfl⟩
    · cases howns : p.loader.owner with
      | none => exact hlook _ _
      | some owner =>
        cases owner with
        | lookahead held =>
          dsimp only
          split
          · rw [hready]
            exact hlate _
          · exact hlook _ _
        | refreshSong _ => exact hlate _
        | refreshScene => exact hlate _
        | cue slot => exact absurd howns (howner slot)

theorem considerPark_silent (hready : p.loader.ready = false) (howner : ∀ slot, p.loader.owner ≠ some (.cue slot)) :
    p.considerPark.notice = p.notice ∧ p.considerPark.voices = p.voices := by
  unfold Part.considerPark
  dsimp only
  split
  · exact considerScene_silent (p := ((p.setTrigger none).setLate none).setHeld none) _ _ hready howner rfl rfl
  · exact considerScene_silent (p := (p.setTrigger none).setLate none) _ _ hready howner rfl rfl

theorem requestStop_eq (p : Part) : p.requestStop = { p with voices := p.requestStop.voices } := by
  unfold Part.requestStop
  split <;> rfl

theorem enterParked_silent (hready : p.loader.ready = false) (howner : ∀ slot, p.loader.owner ≠ some (.cue slot)) :
    p.enterParked.notice = p.notice ∧ p.enterParked.voices = p.requestStop.voices := by
  obtain ⟨plan, tempo, htempo⟩ := parkTempo_eq { p.requestStop with
    timeline := { p.requestStop.timeline with
      clock := .parked, pausedFrom := none, startPending := false, acc := 0, beatOpen := true, startByte := .none }
    pointer := p.requestStop.pointer.parked }
  unfold Part.enterParked
  dsimp only
  rw [htempo]
  have hstop := requestStop_eq p
  generalize p.requestStop = q at *
  have hnotice : q.notice = p.notice := by rw [hstop]
  have hloader : q.loader = p.loader := by rw [hstop]
  rw [← hloader] at hready howner
  rw [← hnotice]
  split
  · exact considerPark_silent hready howner
  · exact considerPark_silent hready howner

/-- A frame in which the timeline announces nothing and the cue unit executes nothing. -/
theorem frame_unannounced (hquiet : p.quiet = true) (hact : p.tickCountdowns.countFrame.timelineAct = (z, .nothing))
    (hidle : order.cues = none ∨ z.cues.arms = []) : p.frame order = z.render := by
  have hunannounced (x : Part) (after : Bool) (harms : x.cues = z.cues) : x.cuesUnannounced order after = x := by
    obtain h | h := hidle
    · unfold Part.cuesUnannounced
      rw [h]
      rfl
    · refine cuesUnannounced_idle _ _ _ ?_
      unfold Part.nextCue
      rw [harms, h]
      rfl
  have hcues : z.render.cues = z.cues := by
    obtain ⟨click, tdm, h⟩ := render_shape z
    rw [h]
  rw [frame_quiet p order hquiet, hact]
  show ((z.cuesUnannounced order false).render).cuesUnannounced order true = _
  rw [hunannounced z _ rfl, hunannounced z.render _ hcues]

end SongEnd

theorem entered_song {r : SongPointer} (h : r.phase = .song) (target pass : Nat) :
    r.entered target pass =
      { r with sectionIndex := target, pass := pass, bar := 1, beat := 1, lastTick := 0, leave := false } := by
  rw [SongPointer.entered, ← h]

/-- Settles O24, by the place that the advance takes the pointer to. -/
theorem beatBoundaryAdvances : Obligations.BeatBoundaryAdvances := by
  intro order s sec hquiet hclock hpending hidle hsec hreached p ptr start played standing owed stampAt boundary enters
    within counted ended
  let x : Part := p.setAcc (p.timeline.acc + p.timeline.tempo - p.timeline.rate.d) true
  have hact : p.timelineAct = x.beatBoundary :=
    (timelineAct_runs (p := p) hclock hpending).trans (accumulate_boundary (p := p) hreached)
  have hidleClock : p.timeline.clock ≠ .idle := not_idle_of_runs (p := p) hclock
  have hparked : p.timeline.clock ≠ .parked := not_parked_of_runs (p := p) hclock
  have hboundary {a : Part} {clock r kind cls told scheduled trigger owed}
      (hadvance : x.advance = (a, .boundary kind))
      (ha : a = { p with
        timeline := { p.timeline with
          clock := clock, acc := p.timeline.acc + p.timeline.tempo - p.timeline.rate.d, beatOpen := true
          startByte := owed }
        pointer := r
        loader := { p.loader with trigger := trigger }
        notice := told })
      (htick : r.lastTick = 0) (hloaded : r.loaded = ptr.loaded) (hscheduled : a.scheduleTempo = scheduled)
      (hclass : boundaryClass r.phase kind = cls) : boundary clock r kind cls told scheduled trigger owed := by
    subst ha
    obtain ⟨y, q, hexec, hy, hpaces, hpulsed, hannounced⟩ :=
      boundary_frame hquiet (hact.trans (beatBoundary_of hadvance)) hidle htick hscheduled
    have hpointer : y.pointer = r := congrArg Part.pointer hy
    refine ⟨y, q, hexec, hy, paces_congr hpaces rfl rfl rfl, pulsed_congr hpulsed rfl rfl rfl, _, fun hl => ?_, hannounced⟩
    rw [boundaryClass_stamp (by rw [hpointer, hloaded]; exact hl), hpointer]
    exact hclass
  have henters {r : SongPointer} {byte : StartByte} {target pass : Nat} {cause : EntryCause} {next : SongSection}
      (hnext : p.sectionAt target = some next) (hloaded : r.loaded = ptr.loaded)
      (hadvance : x.advance = (({ x with timeline := { x.timeline with startByte := byte }, pointer := r } : Part).enterSection
        target pass cause, .boundary .newSection)) : enters (r.entered target pass) cause next byte := by
    rw [enterSection_of (p := { x with timeline := { x.timeline with startByte := byte }, pointer := r }) (sec := next)
      hnext hidleClock hparked] at hadvance
    exact hboundary hadvance rfl rfl hloaded (scheduleTempo_first (sec := next) rfl rfl rfl hnext) rfl
  have hentersSong {r : SongPointer} {byte : StartByte} {target pass : Nat} {cause : EntryCause} {next : SongSection}
      (hphase : r.phase = .song) (hnext : p.sectionAt target = some next) (hloaded : r.loaded = ptr.loaded)
      (hadvance : x.advance = (({ x with timeline := { x.timeline with startByte := byte }, pointer := r } : Part).enterSection
        target pass cause, .boundary .newSection)) :
      enters { r with sectionIndex := target, pass := pass, bar := 1, beat := 1, lastTick := 0, leave := false } cause next
        byte :=
    entered_song hphase target pass ▸ henters hnext hloaded hadvance
  let final : SongPointer := { ptr with beat := 1, lastTick := 0, vamp := false, leave := false, barsPlayed := played }
  have hended {song : Song} (hsong : p.loader.activeSong = some song)
      (hadvance : x.advance = ({ x with pointer := final }, .songEnd)) : ended song := by
    let w : Part := ({ x with pointer := final } : Part).journalAt p.stamp (.songEnded song.number)
    have hends : p.timelineAct = (w.enterParked, .nothing) :=
      (hact.trans (beatBoundary_ends hadvance)).trans
        (congrArg (·, FrameNews.nothing) (endSong_eq (p := { x with pointer := final }) hsong))
    obtain ⟨plan, tempo, haside⟩ := enterParked_aside w
    have hparks := enterParked_parks w
    have hsilent := enterParked_silent (p := w)
    have houter : w.enterParked.outer = w.outer := Part.enterParked_outer w
    have hrendered := rendered_render w.enterParked
    generalize w.enterParked = z at *
    have hruns : w.clockRuns = true := hclock
    have hcues : z.cues = { p.cues with arms := p.cues.arms.map fun a => { a with due := true } } :=
      (congrArg Aside.cues haside).trans (if_pos hruns)
    have hidleNow : order.cues = none ∨ z.cues.arms = [] := by
      refine hidle.imp id fun harms => ?_
      rw [hcues]
      exact congrArg (List.map _) harms
    have hframe := frame_unannounced hquiet hends hidleNow
    obtain ⟨click, tdm, hshape⟩ := render_shape z
    have htimeline := congrArg Aside.timeline haside
    have hclick : z.click = p.click := congrArg Aside.click haside
    have hengine : z.engine = p.engine := congrArg Outer.engine houter
    rw [hshape] at hframe hrendered
    refine ⟨z, _, next_part hframe, hparks, rfl, fun hrunning => hrendered (hengine.trans hrunning),
      congrArg Timeline.clock htimeline, congrArg Timeline.pausedFrom htimeline, congrArg Timeline.startPending htimeline,
      congrArg Timeline.acc htimeline, congrArg Timeline.beatOpen htimeline, congrArg Aside.pointer haside, hcues,
      fun hready howner hrunning => ?_⟩
    obtain ⟨hnotice, hvoices⟩ := hsilent hready howner
    have hstop : w.requestStop = w.requestRt .stop :=
      if_pos (Bool.and_eq_true_iff.mpr ⟨hruns, congrArg (!·) hpending⟩)
    refine ⟨hclick ▸ hrendered (hengine.trans hrunning), hnotice, fun v => ?_⟩
    exact (congrArg (fun voices : Voices => voices.ports[v]) (hvoices.trans (congrArg Part.voices hstop))).trans
      (Vector.getElem_ofFn v.isLt)
  have hstartSec (hstart : ptr.sectionIndex = start) : p.sectionAt start = some sec := by
    rw [← hstart]
    exact hsec
  refine ⟨fun hentry hphase => ⟨fun hbeat => ?_, fun hbeat => ?_⟩, fun hentry hphase hstart => ⟨fun hbeat => ?_, fun hbeat =>
    ⟨fun hbar => ?_, fun hbar => ?_⟩⟩, fun e next hentry hnext => ?_⟩
  · refine hboundary (r := { ptr with beat := ptr.beat + 1, lastTick := 0 })
      ((advance_song (p := x) hentry hsec hphase).trans (if_pos hbeat)) rfl rfl rfl ?_ ?_
    · exact scheduleTempo_song (sec := sec) hphase hsec
    · rw [hphase]
      rfl
  · have hbar := (advance_song (p := x) hentry hsec hphase).trans (if_neg (Nat.not_le.mpr hbeat))
    intro here onward
    refine ⟨fun hleave hbars => ?_, fun hleave hbars hvamp => ?_, fun hends => ?_⟩
    · have hgives := giveTriggerIf_of (p := { x with pointer := onward }) (ptr.bar + 1 == sec.bars) hphase hidleClock hparked
      refine hboundary (r := onward) (((hbar.trans (if_neg (Bool.eq_false_iff.mp hleave))).trans (if_pos hbars)).trans
        (congrArg (·, Advance.boundary .bar) hgives)) ?_ rfl rfl ?_ ?_
      · simp only [beq_iff_eq]
        rfl
      · exact scheduleTempo_song (sec := sec) hphase hsec
      · rw [show onward.phase = .song from hphase]
        rfl
    · have hadvance := (hbar.trans (if_neg (Bool.eq_false_iff.mp hleave))).trans (if_neg (Nat.not_le.mpr hbars))
      exact hentersSong (r := { ptr with beat := 1, lastTick := 0, barsPlayed := played }) (target := ptr.sectionIndex)
        (byte := owed) hphase hsec rfl (hadvance.trans (if_pos hvamp))
    · let left : SongPointer := { ptr with beat := 1, lastTick := 0, barsPlayed := played, leave := false }
      have hadvance : x.advance = ({ x with pointer := left } : Part).endSection false ptr.leave := by
        obtain hleave | ⟨hbars, hvamp⟩ := hends
        · rw [hleave]
          exact hbar.trans (if_pos hleave)
        · by_cases hleave : ptr.leave = true
          · rw [hleave]
            exact hbar.trans (if_pos hleave)
          · have hstays : ptr.leave = false := Bool.eq_false_iff.mpr hleave
            have hends := (hbar.trans (if_neg hleave)).trans (if_neg (Nat.not_le.mpr hbars))
            rw [show x.pointer.vamp = false from hvamp] at hends
            have hleft : left = { ptr with beat := 1, lastTick := 0, barsPlayed := played } := by
              simp only [left, hstays]
            rw [hstays, hleft]
            exact hends
      refine ⟨fun next hnext => ?_, fun song hsong hlast => ?_⟩
      · exact hentersSong (r := { left with vamp := false }) (byte := owed) hphase hnext rfl
          (hadvance.trans (endSection_next (p := { x with pointer := left }) hnext))
      · have hlasts := hadvance.trans (endSection_last (p := { x with pointer := left }) hsong hlast)
        refine ⟨fun hloop => ?_, fun hloop => ?_⟩
        · exact hentersSong (r := { left with vamp := false }) (byte := owed) hphase hsec rfl (hlasts.trans (if_pos hloop))
        · exact hended hsong (hlasts.trans (if_neg (Bool.eq_false_iff.mp hloop)))
  · refine hboundary (r := { ptr with beat := ptr.beat + 1, lastTick := 0 })
      ((advance_countIn (p := x) hentry hsec hphase).trans (if_pos hbeat)) rfl rfl rfl ?_ ?_
    · exact scheduleTempo_countIn (sec := sec) hphase (hstartSec hstart)
    · rw [hphase]
      rfl
  · refine hboundary (r := { ptr with beat := 1, lastTick := 0, countInBar := ptr.countInBar + 1 })
      (((advance_countIn (p := x) hentry hsec hphase).trans (if_neg (Nat.not_le.mpr hbeat))).trans (if_pos hbar)) rfl rfl rfl ?_ ?_
    · exact scheduleTempo_countIn (sec := sec) hphase (hstartSec hstart)
    · rw [hphase]
      rfl
  · have hadvance := ((advance_countIn (p := x) hentry hsec hphase).trans (if_neg (Nat.not_le.mpr hbeat))).trans
      ((if_neg (Nat.not_le.mpr hbar)).trans (congrArg (·, Advance.boundary .bar) (startSong_of (p := x) (hstartSec hstart))))
    intro first
    have hfirst : first = ptr.atSong := by
      simp only [first, SongPointer.atSong, show ptr.sectionIndex = ptr.startSection from hstart]
    rw [hfirst]
    exact hboundary hadvance rfl rfl rfl (scheduleTempo_first (sec := sec) rfl rfl rfl (hstartSec hstart)) rfl
  · have hadvance := advance_lands (p := x) hentry
    obtain ⟨target, cause⟩ := e
    cases cause with
    | segue =>
      exact henters (r := { ptr with entry := none, vamp := ptr.vamp && target == ptr.sectionIndex, barsPlayed := 1 })
        (byte := owed.landed) hnext rfl hadvance
    | jump =>
      exact henters (r := { ptr with
        entry := none, vamp := ptr.vamp && target == ptr.sectionIndex, barsPlayed := played })
        (byte := owed.landed) hnext rfl hadvance

end Sys2Proof.Machine
end

section
/-! PROOFS. The player ports: the parser, the tap controller and the pedal (Chapter 4, 6.5). -/

namespace Sys2Proof.Machine

/-! ### The parser (R55 to R59) -/

section Parser

variable {q : PlayerPort} {b status first : Byte}

theorem receive_realTime (h : 0xF8 ≤ b.toNat) : q.receive b = (q, none) := by
  have hclass : classOf b = .realTime := by
    unfold classOf
    rw [if_neg (by omega), if_neg (by omega), if_neg (by omega), if_neg (by omega), if_neg (by omega)]
  rw [PlayerPort.receive, hclass]

theorem receive_status (hlow : 0x80 ≤ b.toNat) (hhigh : b.toNat < 0xF0) :
    q.receive b =
      ({ q with parser := .collecting, running := some b, expected := dataCount b, held := none, skip := 0 }, none) := by
  have hclass : classOf b = .channelStatus := by
    unfold classOf
    rw [if_neg (by omega), if_pos hhigh]
  rw [PlayerPort.receive, hclass]

theorem receive_exclusive (h : b.toNat = 0xF0) : q.receive b = (q.broken .skipping 0, none) := by
  have hclass : classOf b = .exclusive := by
    unfold classOf
    rw [if_neg (by omega), if_neg (by omega), if_pos h]
  rw [PlayerPort.receive, hclass]

/-- The other system bytes: a break, with the data bytes that the byte brings stepped over. -/
theorem receive_system (hlow : 0xF1 ≤ b.toNat) (hhigh : b.toNat ≤ 0xF7) :
    q.receive b = (q.broken .idle (commonSkip b), none) := by
  unfold PlayerPort.receive classOf
  rw [if_neg (by omega), if_neg (by omega), if_neg (by omega)]
  by_cases h : b.toNat < 0xF7
  · rw [if_pos h]
  · have hend : b.toNat = 0xF7 := by omega
    rw [if_neg h, if_pos hend, commonSkip, if_neg (by omega), if_neg (by omega)]

theorem receive_data (h : b.toNat < 0x80) : q.receive b = q.data b := by
  have hclass : classOf b = .data := by
    unfold classOf
    rw [if_pos h]
  rw [PlayerPort.receive, hclass]

theorem data_skipping (h : q.parser = .skipping) : q.data b = (q, none) := by rw [PlayerPort.data, h]

theorem data_listening (h : q.parser ≠ .skipping) :
    q.data b =
      if 0 < q.skip then ({ q with skip := q.skip - 1 }, none)
      else match q.running with
        | none => (q, none)
        | some status => q.takeData status b := by
  unfold PlayerPort.data
  cases hparser : q.parser <;> simp_all <;> rfl

/-- A data byte of the running status. -/
theorem receive_running (hbyte : b.toNat < 0x80) (hparser : q.parser ≠ .skipping) (hskip : q.skip = 0)
    (hrunning : q.running = some status) : q.receive b = q.takeData status b := by
  rw [receive_data hbyte, data_listening hparser, if_neg (by omega), hrunning]

theorem takeData_single (h : q.expected = 1) :
    q.takeData status b = (q.completed, some { status := status, first := b.toNat, second := 0 }) := if_pos h

theorem takeData_held (h : q.expected = 2) (hheld : q.held = none) :
    q.takeData status b = ({ q with parser := .collecting, held := some b }, none) := by
  rw [PlayerPort.takeData, if_neg (by omega), hheld]

theorem takeData_pair (h : q.expected = 2) (hheld : q.held = some first) :
    q.takeData status b = (q.completed, some { status := status, first := first.toNat, second := b.toNat }) := by
  rw [PlayerPort.takeData, if_neg (by omega), hheld]
  rfl

end Parser

/-! ### A byte at a port (R55, R60) -/

section Arrivals

variable {p : Part} {i : Fin 4} {b status first : Byte} {port : PlayerPort} {m : Completed}

theorem withPort_self (p : Part) (i : Fin 4) : p.withPort i p.players[i] = p := by
  have hset : p.players.set i p.players[i] = p.players := Vector.set_getElem_self i.isLt
  rw [Part.withPort, hset]

theorem withPort_get (p : Part) (i : Fin 4) (port : PlayerPort) : (p.withPort i port).players[i] = port :=
  Vector.getElem_set_self i.isLt

theorem byteArrives_disabled (h : (p.players[i]).enabled = false) : p.byteArrives i b = p := by
  rw [Part.byteArrives, h]
  rfl

theorem framingError_disabled (h : (p.players[i]).enabled = false) : p.framingError i = p := by
  rw [Part.framingError, h]
  rfl

theorem framingError_breaks (h : (p.players[i]).enabled = true) :
    p.framingError i = p.withPort i ((p.players[i]).broken .idle 0) := by
  rw [Part.framingError, h]
  rfl

theorem byteArrives_quiet (h : (p.players[i]).enabled = true) (hport : (p.players[i]).receive b = (port, none)) :
    p.byteArrives i b = p.withPort i port := by
  rw [Part.byteArrives, h, hport]
  rfl

theorem byteArrives_same (h : (p.players[i]).enabled = true)
    (hport : (p.players[i]).receive b = (p.players[i], none)) : p.byteArrives i b = p :=
  (byteArrives_quiet h hport).trans (withPort_self p i)

theorem byteArrives_message (h : (p.players[i]).enabled = true) (hport : (p.players[i]).receive b = (port, some m)) :
    p.byteArrives i b = if port.filter.keeps m.status then (p.withPort i port).messageKept i m else p.withPort i port := by
  rw [Part.byteArrives, h, hport]
  rfl

theorem byteArrives_filtered (h : (p.players[i]).enabled = true) (hport : (p.players[i]).receive b = (port, some m))
    (hfilter : port.filter.keeps m.status = false) : p.byteArrives i b = p.withPort i port :=
  (byteArrives_message h hport).trans (if_neg (Bool.eq_false_iff.mp hfilter))

theorem byteArrives_kept (h : (p.players[i]).enabled = true) (hport : (p.players[i]).receive b = (port, some m))
    (hfilter : port.filter.keeps m.status = true) : p.byteArrives i b = (p.withPort i port).messageKept i m :=
  (byteArrives_message h hport).trans (if_pos hfilter)

/-- The last byte of a message of two data bytes that the filter keeps. -/
theorem byteArrives_awaits (h : (p.players[i]).awaits status first) (hbyte : b.toNat < 0x80) :
    p.byteArrives i b = (p.withPort i (p.players[i]).completed).messageKept i
      { status := status, first := first.toNat, second := b.toNat } := by
  obtain ⟨henabled, hparser, hskip, hrunning, hexpected, hheld, hfilter⟩ := h
  exact byteArrives_kept henabled ((receive_running hbyte hparser hskip hrunning).trans (takeData_pair hexpected hheld))
    hfilter

end Arrivals

/-! ### What a message becomes (R60 to R65) -/

section Messages

variable {p : Part} {i : Fin 4} {m : Completed}

theorem takesKeys_not (h : p.engine ≠ .running ∨ p.loader.activeScene = none) : p.takesKeys = false := by
  obtain h | h := h <;> simp [Part.takesKeys, h]

theorem takesKeys_of {sc : Scene} (h : p.engine = .running) (hscene : p.loader.activeScene = some sc) :
    p.takesKeys = true := by
  simp [Part.takesKeys, h, hscene]

theorem messageKept_noteOff (h : m.status.toNat / 16 = 8) :
    p.messageKept i m = if p.takesKeys then p.releaseKey i m.first m.second else p := by
  rw [Part.messageKept, h]
  rfl

theorem messageKept_noteOn (h : m.status.toNat / 16 = 9) :
    p.messageKept i m =
      if !p.takesKeys then p
      else if m.second = 0 then p.releaseKey i m.first 64
      else p.noteOn i m.first m.second := by
  rw [Part.messageKept, h]
  rfl

theorem messageKept_controller (h : m.status.toNat / 16 = 11) :
    p.messageKept i m = p.controllerKept i m.first m.second := by
  rw [Part.messageKept, h]
  rfl

theorem messageKept_pressure (h : m.status.toNat / 16 = 13) :
    p.messageKept i m = if p.takesKeys then p.routePressure i m.first else p := by
  rw [Part.messageKept, h]
  rfl

theorem messageKept_bend (h : m.status.toNat / 16 = 14) :
    p.messageKept i m = if p.takesKeys then p.routeBend i (m.first + 128 * m.second) else p := by
  rw [Part.messageKept, h]
  rfl

theorem messageKept_discarded (h : m.status.toNat / 16 = 10 ∨ m.status.toNat / 16 = 12) : p.messageKept i m = p := by
  obtain h | h := h <;> rw [Part.messageKept, h] <;> rfl

theorem controllerKept_tap {number value : Nat} (h : (p.players[i]).tapController = some number) :
    p.controllerKept i number value = p.tapLevel i value := if_pos h

theorem controllerKept_routed {number value : Nat} (h : (p.players[i]).tapController ≠ some number) :
    p.controllerKept i number value =
      if !p.takesKeys then p else if number = 64 then p.pedalValue i value else p.routeController i number value := if_neg h

/-- A message of a key, a bend, a pressure or a controller other than the tap controller, with nobody to hear it. -/
theorem messageKept_unheard (hkeys : p.takesKeys = false)
    (h : m.status.toNat / 16 = 8 ∨ m.status.toNat / 16 = 9 ∨ m.status.toNat / 16 = 13 ∨ m.status.toNat / 16 = 14 ∨
      (m.status.toNat / 16 = 11 ∧ (p.players[i]).tapController ≠ some m.first)) : p.messageKept i m = p := by
  obtain h | h | h | h | ⟨h, htap⟩ := h
  · rw [messageKept_noteOff h, hkeys]
    rfl
  · rw [messageKept_noteOn h, hkeys]
    rfl
  · rw [messageKept_pressure h, hkeys]
    rfl
  · rw [messageKept_bend h, hkeys]
    rfl
  · rw [messageKept_controller h, controllerKept_routed htap, hkeys]
    rfl

theorem statusOf_noteOn (channel : Fin 16) : (BitVec.ofNat 8 (0x90 + channel.val)).toNat / 16 = 9 := by
  revert channel
  decide

theorem statusOf_controller (channel : Fin 16) : (BitVec.ofNat 8 (0xB0 + channel.val)).toNat / 16 = 11 := by
  revert channel
  decide

theorem statusOf_pressure (channel : Fin 16) : (BitVec.ofNat 8 (0xD0 + channel.val)).toNat / 16 = 13 := by
  revert channel
  decide

theorem statusOf_bend (channel : Fin 16) : (BitVec.ofNat 8 (0xE0 + channel.val)).toNat / 16 = 14 := by
  revert channel
  decide

end Messages

/-- Settles O32, class by class. -/
theorem statusBytesSetTheParser : Obligations.StatusBytesSetTheParser := by
  intro i b s q stored
  refine ⟨fun hoff => ⟨congrArg _ (withPart_of_eq (byteArrives_disabled hoff)),
    congrArg _ (withPart_of_eq (framingError_disabled hoff))⟩, fun hon => ⟨?_, fun hreal => ?_, fun hlow hhigh => ?_,
    fun hexclusive => ?_, fun hlow hhigh => ?_⟩⟩
  · exact next_part (framingError_breaks hon)
  · exact congrArg _ (withPart_of_eq (byteArrives_same hon (receive_realTime hreal)))
  · refine next_part ((byteArrives_quiet hon (receive_status hlow hhigh)).trans ?_)
    have hcount : dataCount b = if 0xC0 ≤ b.toNat ∧ b.toNat < 0xE0 then 1 else 2 := by
      unfold dataCount
      exact if_congr (by omega) rfl rfl
    rw [hcount]
  · exact next_part (byteArrives_quiet hon (receive_exclusive (by rw [hexclusive]; rfl)))
  · refine next_part ((byteArrives_quiet hon (receive_system hlow hhigh)).trans ?_)
    have hskip : commonSkip b = if b = 0xF1 ∨ b = 0xF3 then 1 else if b = 0xF2 then 2 else 0 := by
      unfold commonSkip
      simp only [← BitVec.toNat_inj]
      rfl
    rw [hskip]
    rfl

/-- Settles O33, by the parser's state and the message's status. -/
theorem dataBytesWithoutEvent : Obligations.DataBytesWithoutEvent := by
  intro i b s hon hbyte p q stored unheard
  refine ⟨fun hskipping => ?_, fun hparser => ⟨fun hskip => ?_, fun hskip hrunning => ?_, fun status hskip hrunning =>
    ⟨fun hexpected hheld => ?_, fun hexpected hdropped => ?_, fun first hexpected hheld hdropped => ?_⟩⟩⟩
  · exact congrArg _ (withPart_of_eq (byteArrives_same hon ((receive_data hbyte).trans (data_skipping hskipping))))
  · exact next_part (byteArrives_quiet hon (((receive_data hbyte).trans (data_listening hparser)).trans (if_pos hskip)))
  · refine congrArg _ (withPart_of_eq (byteArrives_same hon ?_))
    rw [receive_data hbyte, data_listening hparser, if_neg (by omega), hrunning]
  · exact next_part (byteArrives_quiet hon
      ((receive_running hbyte hparser hskip hrunning).trans (takeData_held hexpected hheld)))
  · have hreceived := (receive_running hbyte hparser hskip hrunning).trans (takeData_single (status := status) hexpected)
    cases hfilter : q.filter.keeps status with
    | false => exact next_part (byteArrives_filtered hon hreceived hfilter)
    | true =>
      refine next_part ((byteArrives_kept hon hreceived hfilter).trans ?_)
      obtain h | h | ⟨h, hunheard⟩ := hdropped
      · exact absurd (hfilter.symm.trans h) (by decide)
      · exact messageKept_discarded (.inr h)
      · exact messageKept_unheard (takesKeys_not hunheard) (.inr (.inr (.inl h)))
  · have hreceived := (receive_running hbyte hparser hskip hrunning).trans (takeData_pair (status := status) hexpected hheld)
    cases hfilter : q.filter.keeps status with
    | false => exact next_part (byteArrives_filtered hon hreceived hfilter)
    | true =>
      refine next_part ((byteArrives_kept hon hreceived hfilter).trans ?_)
      obtain h | h | ⟨h, hunheard⟩ := hdropped
      · exact absurd (hfilter.symm.trans h) (by decide)
      · exact messageKept_discarded (.inl h)
      · refine messageKept_unheard (takesKeys_not hunheard) ?_
        rw [withPort_get]
        obtain h | h | h | h := h
        · exact .inl h
        · exact .inr (.inl h)
        · exact .inr (.inr (.inr (.inl h)))
        · exact .inr (.inr (.inr (.inr h)))

/-- Settles O34, by the level before and after. -/
theorem tapControllerGivesTaps : Obligations.TapControllerGivesTaps := by
  intro i number b channel s q stored hawaits htap hbyte
  have hkept : s.part.byteArrives i b = (s.part.withPort i q.completed).tapLevel i b.toNat := by
    rw [byteArrives_awaits hawaits hbyte, messageKept_controller (statusOf_controller channel)]
    exact controllerKept_tap (by rw [withPort_get]; exact htap)
  have hlevel : (s.part.withPort i q.completed).tapLevel i b.toNat =
      if decide (64 ≤ b.toNat) && !q.tapHigh then
        (s.part.withPort i { q.completed with tapHigh := decide (64 ≤ b.toNat) }).tap
      else s.part.withPort i { q.completed with tapHigh := decide (64 ≤ b.toNat) } := by
    unfold Part.tapLevel
    dsimp only
    rw [withPort_get]
    simp only [Part.setPlayer, Part.withPort, Vector.set_set]
    rfl
  have hnext := hkept.trans hlevel
  refine ⟨fun hlow => ?_, fun hhigh hwas => ?_, fun hhigh hwas => ?_⟩
  · rw [decide_eq_false (Nat.not_le.mpr hlow)] at hnext
    exact next_part hnext
  · rw [decide_eq_true hhigh, hwas] at hnext
    exact next_part hnext
  · rw [decide_eq_true hhigh, hwas] at hnext
    exact next_part hnext

/-! ### The pedal (R63, R92, R93) -/

section Pedals

variable {p : Part} {i : Fin 4} {port : PlayerPort} {sc : Scene} {value : Nat}

theorem layers_of (h : p.loader.activeScene = some sc) : p.layers = sc.layers := by
  rw [Part.layers, h]

theorem setPedal_withPort (p : Part) (i : Fin 4) (port : PlayerPort) (pedal : Pedal) :
    (p.withPort i port).setPedal i pedal = p.withPort i { port with pedal := pedal } := by
  rw [Part.setPedal, withPort_get]
  simp only [Part.withPort, Vector.set_set]

theorem pedalValue_same (h : (p.players[i]).pedal = .up ↔ value < 64) : p.pedalValue i value = p := by
  unfold Part.pedalValue
  dsimp only
  cases hpedal : (p.players[i]).pedal with
  | up => rw [decide_eq_false (Nat.not_le.mpr (h.mp hpedal))]
  | down =>
    have hhigh : 64 ≤ value := Nat.not_lt.mp fun hlow => absurd (hpedal.symm.trans (h.mpr hlow)) (by decide)
    rw [decide_eq_true hhigh]

theorem pedalValue_press (h : (p.players[i]).pedal = .up) (hvalue : 64 ≤ value) :
    p.pedalValue i value = (p.setPedal i .down).pedalDown i := by
  rw [Part.pedalValue, h, decide_eq_true hvalue]

theorem pedalValue_release (h : (p.players[i]).pedal = .down) (hvalue : value < 64) :
    p.pedalValue i value = (p.setPedal i .up).pedalUp i := by
  rw [Part.pedalValue, h, decide_eq_false (Nat.not_le.mpr hvalue)]

/-- A message that opens is refused by a port with no more free entries than the reserve (R102). -/
theorem offer_opening_refused {v : Voices} {k : Fin 8}
    (h : (v.ports[k]).enabled = true ∧ 64 ≤ (v.ports[k]).queue.length + v.reserve) (m : Message) :
    v.offer .opening k m = (false, v) := by
  obtain ⟨henabled, hfull⟩ := h
  unfold Voices.offer Voices.admits
  rw [if_neg]
  have hsize : Config.queueSize = 64 := rfl
  have hfree : ¬v.reserve < (v.ports[k]).free := by
    unfold VoicePort.free
    omega
  rw [henabled]
  exact fun hadmitted => hfree (of_decide_eq_true hadmitted)

/-- Sustain-downs join the young end of the set. -/
theorem offerDowns_joins : ∀ (l : List Dest) (fan : List FanEntry) (v : Voices),
    ∃ joins : List Dest, (offerDowns l fan v).1 = fan ++ joins.map fun d => { dest := d, upOwed := false }
  | [], fan, v => ⟨[], by simp [offerDowns]⟩
  | d :: rest, fan, v => by
    unfold offerDowns
    split
    · exact offerDowns_joins rest fan v
    · dsimp only
      split
      · obtain ⟨joins, h⟩ := offerDowns_joins rest (fan ++ [{ dest := d, upOwed := false }])
          (v.offer .opening d.voice (sustainDownMessage d)).2
        exact ⟨d :: joins, by rw [h, List.append_assoc]; rfl⟩
      · exact offerDowns_joins rest fan _

theorem offerDowns_full {v : Voices} (h : ∀ k : Fin 8, (v.ports[k]).enabled = true ∧
    64 ≤ (v.ports[k]).queue.length + v.reserve) : ∀ (l : List Dest) (fan : List FanEntry), offerDowns l fan v = (fan, v)
  | [], fan => rfl
  | d :: rest, fan => by
    unfold offerDowns
    split
    · exact offerDowns_full h rest fan
    · rw [offer_opening_refused (h d.voice)]
      exact offerDowns_full h rest fan

theorem joins_inj {fan : List FanEntry} {a b : List Dest}
    (h : fan ++ a.map (fun d => ({ dest := d, upOwed := false } : FanEntry)) =
      fan ++ b.map fun d => ({ dest := d, upOwed := false } : FanEntry)) : a = b :=
  List.map_injective_iff.mpr (fun _ _ hd => congrArg FanEntry.dest hd) (List.append_cancel_left h)

/-- A pedal pressed, beside the ports: the set as it was, all Held, and the destinations that join. -/
theorem pedalDown_eq (p : Part) (i : Fin 4) : p.pedalDown i =
    let downs := offerDowns (sustainDests p.layers i) ((p.tracker.fan[i]).map fun f => { f with upOwed := false }) p.voices
    { p with
      tracker := { p.tracker with
        fan := p.tracker.fan.set i downs.1
        upOwed := Vector.ofFn fun v => (p.tracker.upOwed[v]).filter fun u => u.player != i }
      voices := downs.2 } := by
  have hfan : (p.tracker.reclaim i).fan[i] = (p.tracker.fan[i]).map fun f => { f with upOwed := false } :=
    Vector.getElem_set_self i.isLt
  unfold Part.pedalDown Part.sendDowns
  dsimp only
  rw [hfan]
  simp only [Tracker.reclaim, Vector.set_set]
  rfl

end Pedals

/-- Settles O35, by the pedal before and the value. -/
theorem pedalValuesReachTheFanOut : Obligations.PedalValuesReachTheFanOut := by
  intro i b channel s sc p q downs fan missing held message hawaits htap hbyte hengine hscene
  have hkept : p.byteArrives i b = (p.withPort i q.completed).pedalValue i b.toNat := by
    rw [byteArrives_awaits hawaits hbyte, messageKept_controller (statusOf_controller channel),
      controllerKept_routed (by rw [withPort_get]; exact htap),
      takesKeys_of (p := p.withPort i (p.players[i]).completed) hengine hscene]
    rfl
  have hpedal (pedal : Pedal) (h : q.pedal = pedal) : ((p.withPort i q.completed).players[i]).pedal = pedal := by
    rw [withPort_get]
    exact h
  refine ⟨fun hsame => ?_, fun hup hhigh => ?_, fun hdown hlow => ?_⟩
  · refine next_part (hkept.trans (pedalValue_same ?_))
    rw [withPort_get]
    exact hsame
  · have hpress := (hkept.trans (pedalValue_press (hpedal .up hup) hhigh)).trans
      (congrArg (Part.pedalDown · i) (setPedal_withPort p i q.completed .down))
    rw [pedalDown_eq] at hpress
    have hfan : ((p.withPort i { q.completed with pedal := .down }).tracker.fan[i]).map (fun f =>
        { f with upOwed := false }) = fan.map fun f => { f with upOwed := false } := rfl
    have hlayers : sustainDests (p.withPort i { q.completed with pedal := .down }).layers i = downs := by
      rw [layers_of (p := p.withPort i { q.completed with pedal := .down }) hscene, sustainDests, mergeDests_eq]
      rfl
    have honce : downs.Nodup := by
      rw [← hlayers]
      exact mergeDests_once _
    have hmissing : downs.filter (fun d => !(fan.map fun f => ({ f with upOwed := false } : FanEntry)).any fun f => f.dest = d) =
        missing := by
      refine List.filter_congr fun d _ => ?_
      rw [List.any_map, List.not_any_eq_all_not]
      exact List.all_congr rfl fun f => by rw [Bool.eq_iff_iff]; simp
    rw [hlayers] at hpress
    obtain ⟨joins, hjoins⟩ := offerDowns_joins downs (fan.map fun f => { f with upOwed := false }) p.voices
    refine ⟨_, joins, next_part hpress, ?_, fun hroom => ?_, fun hfull => ?_⟩
    · rw [← hjoins]
      rfl
    · have hadmitted := offerDowns_admitted missing (fan.map fun f => { f with upOwed := false }) p.voices
        (honce.filter _) (fun d hd f hf hdest => ?_) hroom
      · rw [← hmissing, ← offerDowns_filter _ _ _ honce, hmissing] at hadmitted
        exact ⟨joins_inj (hjoins.symm.trans hadmitted.1), hadmitted.2⟩
      · obtain ⟨x, hx, rfl⟩ := List.mem_map.mp hf
        have hnone := List.all_eq_true.mp (List.mem_filter.mp hd).2 x hx
        exact absurd hdest (bne_iff_ne.mp hnone)
    · have hnone := offerDowns_full hfull downs (fan.map fun f => { f with upOwed := false })
      have hjoined := congrArg Prod.fst hnone
      refine ⟨joins_inj ((hjoins.symm.trans hjoined).trans (List.append_nil _).symm), congrArg Prod.snd hnone⟩
  · have hrelease := (hkept.trans (pedalValue_release (hpedal .down hdown) hlow)).trans
      (congrArg (Part.pedalUp · i) (setPedal_withPort p i q.completed .up))
    refine ⟨_, (raiseSet fan p.voices).1, (raiseSet fan p.voices).2.2.foldl (joinUpOwed i) p.tracker.upOwed,
      next_part hrelease, rfl, fun hroom => ?_, fun hfull => ?_⟩
    · obtain ⟨voices, hraised, hreceived⟩ := raiseSet_roomy fan p.voices (by
        rw [List.length_map] at hroom
        exact hroom)
      have hvoices : (raiseSet fan p.voices).2.1 = voices := by rw [hraised]
      rw [hraised]
      refine ⟨rfl, rfl, ?_⟩
      have hsent : held.map (message 0) = (heldOf fan).map fun f => (f.dest.voice, sustainUpMessage f.dest) :=
        List.map_map ..
      rw [← hvoices] at hreceived
      rw [hsent]
      exact hreceived
    · have hraised := raiseSet_full hfull fan
      have hvoices : (raiseSet fan p.voices).2.1 = p.voices := by rw [hraised]
      rw [hraised]
      exact ⟨rfl, hvoices, fun v => joinUpOwed_order i v _ _⟩

end Sys2Proof.Machine
end

section
/-! PROOFS. The layer router and the held-note table: notes, releases, passed messages (Chapters 5 and 6). -/

namespace Sys2Proof.Machine

/-! ### The merged list of note destinations (R72) -/

section Merging

/-- Two notes for one destination and output key. -/
def RoutedNote.same (m n : RoutedNote) : Prop := m.dest = n.dest ∧ m.key = n.key

theorem RoutedNote.same.trans {l m n : RoutedNote} (h : l.same m) (k : m.same n) : l.same n :=
  ⟨h.1.trans k.1, h.2.trans k.2⟩

theorem RoutedNote.same.symm {m n : RoutedNote} (h : m.same n) : n.same m := ⟨h.1.symm, h.2.symm⟩

/-- What merging adds to a list: the notes not in it yet, once each, in their order. -/
structure Merges (out added given : List RoutedNote) : Prop where
  sublist : added.Sublist given
  fresh : ∀ m ∈ out, ∀ n ∈ added, ¬m.same n
  once : added.Pairwise fun m n => ¬m.same n
  all : ∀ n ∈ given, ∃ m ∈ out ++ added, m.same n
  first : ∀ n ∈ added, ∃ older younger, given = older ++ n :: younger ∧ ∀ m ∈ older, ¬m.same n

theorem mergeNotes_from : ∀ (given out : List RoutedNote), ∃ added,
    given.foldl (fun out n => if out.any (fun o => o.dest = n.dest ∧ o.key = n.key) then out else out ++ [n]) out =
      out ++ added ∧ Merges out added given
  | [], out => ⟨[], by simp, ⟨List.Sublist.slnil, by simp, .nil, by simp, by simp⟩⟩
  | a :: rest, out => by
    rw [List.foldl_cons]
    by_cases hin : ∃ o ∈ out, o.same a
    · obtain ⟨o, ho, hoa⟩ := hin
      rw [if_pos (List.any_eq_true.mpr ⟨o, ho, decide_eq_true (show o.dest = a.dest ∧ o.key = a.key from hoa)⟩)]
      obtain ⟨added, hfold, h⟩ := mergeNotes_from rest out
      refine ⟨added, hfold, h.sublist.cons a, h.fresh, h.once, fun n hn => ?_, fun n hn => ?_⟩
      · obtain rfl | hn := List.mem_cons.mp hn
        · exact ⟨o, List.mem_append_left _ ho, hoa⟩
        · exact h.all n hn
      · obtain ⟨older, younger, rfl, hfirst⟩ := h.first n hn
        refine ⟨a :: older, younger, rfl, fun m hm => ?_⟩
        obtain rfl | hm := List.mem_cons.mp hm
        · exact fun hmn => h.fresh o ho n hn (hoa.trans hmn)
        · exact hfirst m hm
    · rw [if_neg fun hany => hin (by
        obtain ⟨o, ho, hoa⟩ := List.any_eq_true.mp hany
        exact ⟨o, ho, (of_decide_eq_true hoa : o.dest = a.dest ∧ o.key = a.key)⟩)]
      obtain ⟨added, hfold, h⟩ := mergeNotes_from rest (out ++ [a])
      have hnew : ∀ n ∈ added, ¬a.same n := h.fresh a (by simp)
      refine ⟨a :: added, by rw [hfold, List.append_assoc]; rfl, h.sublist.cons_cons a, fun m hm n hn => ?_,
        List.pairwise_cons.mpr ⟨hnew, h.once⟩, fun n hn => ?_, fun n hn => ?_⟩
      · obtain rfl | hn := List.mem_cons.mp hn
        · exact fun hma => hin ⟨m, hm, hma⟩
        · exact h.fresh m (List.mem_append_left _ hm) n hn
      · obtain rfl | hn := List.mem_cons.mp hn
        · exact ⟨n, by simp, rfl, rfl⟩
        · obtain ⟨m, hm, hmn⟩ := h.all n hn
          exact ⟨m, by simpa [or_assoc] using hm, hmn⟩
      · obtain rfl | hn := List.mem_cons.mp hn
        · exact ⟨[], rest, rfl, by simp⟩
        · obtain ⟨older, younger, rfl, hfirst⟩ := h.first n hn
          exact ⟨a :: older, younger, rfl, List.forall_mem_cons.mpr ⟨hnew n hn, hfirst⟩⟩

theorem mergeNotes_merges (given : List RoutedNote) : Merges [] (mergeNotes given) given := by
  obtain ⟨added, hfold, h⟩ := mergeNotes_from given []
  have hmerged : mergeNotes given = added := hfold
  rw [hmerged]
  exact h

end Merging

/-! ### What one layer gives (R68 to R70) -/

section Layers

variable {l : Layer} {player : Fin 4} {key velocity : Nat} {n : RoutedNote}

theorem route_matching (hlistens : l.sources.getLsbD player.val = true) (hzone : l.zonePasses key velocity = true) :
    l.route player key velocity =
      (l.outputKey key).map fun out => { dest := l.dest, key := out, velocity := l.outputVelocity velocity } :=
  if_pos (Bool.and_eq_true_iff.mpr ⟨hlistens, hzone⟩)

theorem route_some (h : l.route player key velocity = some n) :
    n.dest = l.dest ∧ (n.key : Int) = key + l.transpose ∧ n.key ≤ 127 := by
  unfold Layer.route at h
  split at h
  · obtain ⟨out, hout, rfl⟩ := Option.map_eq_some_iff.mp h
    unfold Layer.outputKey at hout
    dsimp only at hout
    split at hout
    · next hrange =>
      obtain rfl := Option.some.inj hout
      exact ⟨rfl, by dsimp only; omega, by dsimp only; omega⟩
    · nomatch hout
  · nomatch h

end Layers

/-- Settles O38, from what merging adds. -/
theorem routedNotesAreMerged : Obligations.RoutedNotesAreMerged := by
  intro layers player key velocity notes same given
  have h : Merges [] notes (layers.filterMap fun l => l.route player key velocity) := mergeNotes_merges _
  refine ⟨h.sublist, h.once, h.sublist.length_le.trans (List.length_filterMap_le _ _), fun n hn => ?_, fun k n hk => ?_,
    fun l hlistens hzone => ?_, fun l n => route_some⟩
  · obtain ⟨older, younger, hgiven, hfirst⟩ := h.first n hn
    obtain ⟨before, after, rfl, rfl, hafter⟩ := List.filterMap_eq_append_iff.mp hgiven
    obtain ⟨skipped, l, rest, rfl, hskipped, hl, -⟩ := List.filterMap_eq_cons_iff.mp hafter
    refine ⟨(before ++ skipped).length, ⟨l, ?_, hl⟩, fun j m hj hm hsame => ?_⟩
    · simp
    · obtain ⟨x, hx, hroute⟩ := hm
      rw [← List.append_assoc, List.getElem?_append_left hj] at hx
      obtain hbefore | hx := List.mem_append.mp (List.mem_of_getElem? hx)
      · exact hfirst m (List.mem_filterMap.mpr ⟨x, hbefore, hroute⟩) hsame
      · exact absurd ((hskipped x hx).symm.trans hroute) nofun
  · obtain ⟨l, hl, hroute⟩ := hk
    obtain ⟨m, hm, hsame⟩ := h.all n (List.mem_filterMap.mpr ⟨l, List.mem_of_getElem? hl, hroute⟩)
    exact ⟨m, hm, hsame⟩
  · intro out
    rw [route_matching hlistens hzone]
    refine ⟨fun hlow hhigh => ?_, fun hout => ?_⟩
    · rw [Layer.outputKey, if_pos ⟨hlow, hhigh⟩]
      rfl
    · rw [Layer.outputKey, if_neg (by omega)]
      rfl

/-! ### Messages passed on (R65, R74, R75, R77) -/

section Passing

variable {s : State} {i : Fin 4} {b : Byte} {port : PlayerPort}

theorem offerAll_dests {v : Voices} (dests : List Dest) (message : Dest → Message)
    (h : v.roomFor (v.reserve + dests.length)) :
    v.received (v.offerAll .opening (dests.map fun d => (d.voice, message d))) (dests.map fun d => (d.voice, message d)) :=
  offerAll_received _ v (by rwa [List.length_map])

/-- A byte that completes a message which the router offers to a list of destinations, with room for all of them. -/
theorem passes_on {dests : List Dest} {message : Dest → Message}
    (h : s.part.byteArrives i b = { s.part.withPort i port with
      voices := s.part.voices.offerAll .opening (dests.map fun d => (d.voice, message d)) })
    (hroom : s.part.voices.roomFor (s.part.voices.reserve + dests.length)) :
    ∃ t, exec (.byteArrival i b) s = .next { s with part := t } ∧
      t = { s.part.withPort i port with voices := t.voices } ∧
      s.part.voices.received t.voices (dests.map fun d => (d.voice, message d)) :=
  ⟨_, next_part h, rfl, offerAll_dests dests message hroom⟩

theorem ofNat_byte (b : Byte) : BitVec.ofNat 8 b.toNat = b := by simp

theorem bendMessage_bytes {a b : Byte} (ha : a.toNat < 0x80) (channel : Fin 16) :
    bendMessage channel (a.toNat + 128 * b.toNat) = [statusByte 14 channel, a, b] := by
  have hlow : (a.toNat + 128 * b.toNat) % 128 = a.toNat := by omega
  have hhigh : (a.toNat + 128 * b.toNat) / 128 = b.toNat := by omega
  rw [bendMessage, hlow, hhigh, ofNat_byte, ofNat_byte]

end Passing

/-- Settles O39, by the kind of the message. -/
theorem passedMessagesAreOffered : Obligations.PassedMessagesAreOffered := by
  intro i a b channel s sc p q passing send hengine hscene ha hb
  have hkeys : (p.withPort i q.completed).takesKeys = true := takesKeys_of hengine hscene
  have hlayers : (p.withPort i q.completed).layers = sc.layers := layers_of hscene
  refine ⟨fun hawaits htap hnumber hroom => ?_, fun hawaits hroom => ?_,
    fun hon hparser hskip hexpected hrunning hfilter hroom => ?_⟩
  · refine passes_on (port := q.completed) (message := fun d => [BitVec.ofNat 8 (0xB0 + d.channel.val), a, b])
      ((byteArrives_awaits hawaits hb).trans ?_) hroom
    have hpedal : a.toNat ≠ 64 := fun h => hnumber (BitVec.eq_of_toNat_eq h)
    rw [messageKept_controller (statusOf_controller channel), controllerKept_routed (by rw [withPort_get]; exact htap),
      hkeys]
    refine (if_neg hpedal).trans ?_
    rw [Part.routeController, hlayers, controllerDests, mergeDests_eq]
    simp only [controllerMessage, ofNat_byte]
    rfl
  · refine passes_on (port := q.completed) (message := fun d => [BitVec.ofNat 8 (0xE0 + d.channel.val), a, b])
      ((byteArrives_awaits hawaits hb).trans ?_) hroom
    rw [messageKept_bend (statusOf_bend channel), hkeys]
    refine (if_pos rfl).trans ?_
    rw [Part.routeBend, hlayers, bendDests, mergeDests_eq]
    simp only [bendMessage_bytes ha]
    rfl
  · refine passes_on (port := q.completed) (message := fun d => [BitVec.ofNat 8 (0xD0 + d.channel.val), b])
      ((byteArrives_kept hon ((receive_running hb hparser hskip hrunning).trans (takeData_single hexpected)) hfilter).trans ?_)
      hroom
    rw [messageKept_pressure (statusOf_pressure channel), hkeys]
    refine (if_pos rfl).trans ?_
    rw [Part.routePressure, hlayers, pressureDests, mergeDests_eq]
    simp only [pressureMessage, ofNat_byte]
    rfl

/-! ### A key released (R84, R87) -/

section Releases

variable {p : Part} {i : Fin 4} {key velocity : Nat} {older younger : List HeldEntry} {e : HeldEntry}

/-- An entry that is not a Sounding one of the key. -/
theorem not_selected (h : e.player = i → e.key = key → e.state ≠ .sounding) :
    (e.sounding && HeldEntry.isFor i key e) = false := by
  rw [Bool.and_eq_false_iff]
  by_cases hstate : e.state = .sounding
  · right
    rw [HeldEntry.isFor, Bool.and_eq_false_iff]
    simp only [beq_eq_false_iff_ne]
    by_cases hplayer : e.player = i
    · exact .inr fun hkey => h hplayer hkey hstate
    · exact .inl hplayer
  · left
    simpa [HeldEntry.sounding] using hstate

theorem releaseKey_none (h : ∀ e ∈ p.tracker.table, e.player = i → e.key = key → e.state ≠ .sounding) :
    p.releaseKey i key velocity = p := by
  rw [Part.releaseKey, releaseWhere_none _ _ _ _ fun e he => not_selected (h e he)]

theorem releaseKey_one (htable : p.tracker.table = older ++ e :: younger)
    (hothers : ∀ f ∈ older ++ younger, f.player = i → f.key = key → f.state ≠ .sounding) (hplayer : e.player = i)
    (hkey : e.key = key) (hstate : e.state = .sounding) :
    p.releaseKey i key velocity = { p with
      tracker := { p.tracker with table := older ++
        if (e.release velocity p.voices).1.finished then younger else (e.release velocity p.voices).1 :: younger }
      voices := (e.release velocity p.voices).2 } := by
  rw [Part.releaseKey, htable, releaseWhere_one _ velocity older e younger p.voices
    (fun f hf => not_selected (hothers f hf)) (by simp [HeldEntry.sounding, HeldEntry.isFor, hplayer, hkey, hstate])]

/-- With room the entry leaves the table. -/
theorem releaseKey_roomy (htable : p.tracker.table = older ++ e :: younger)
    (hothers : ∀ f ∈ older ++ younger, f.player = i → f.key = key → f.state ≠ .sounding) (hplayer : e.player = i)
    (hkey : e.key = key) (hstate : e.state = .sounding) (hroom : p.voices.roomFor e.dests.length) :
    ∃ voices, p.releaseKey i key velocity = { p with
        tracker := { p.tracker with table := older ++ younger }, voices := voices } ∧
      p.voices.received voices (e.dests.map fun d => (d.dest.voice, noteOffMessage d.dest.channel d.key velocity)) := by
  obtain ⟨hfinished, -, hreceived⟩ := release_roomy e velocity p.voices hroom
  refine ⟨_, ?_, hreceived⟩
  rw [releaseKey_one htable hothers hplayer hkey hstate, if_pos hfinished]

/-- A note-off is refused by a port without a free entry (R102). -/
theorem offer_releasing_refused {v : Voices} {k : Fin 8}
    (h : (v.ports[k]).enabled = true ∧ Config.queueSize ≤ (v.ports[k]).queue.length) (m : Message) :
    v.offer .releasing k m = (false, v) := by
  obtain ⟨henabled, hfull⟩ := h
  unfold Voices.offer Voices.admits
  rw [if_neg]
  have hfree : ¬1 ≤ (v.ports[k]).free := by
    unfold VoicePort.free
    omega
  rw [henabled]
  exact fun hadmitted => hfree (of_decide_eq_true hadmitted)

theorem releaseDests_refused {v : Voices} : ∀ l : List NoteDest, (∀ d ∈ l, d.delivered = false ∧
    (v.ports[d.dest.voice]).enabled = true ∧ Config.queueSize ≤ (v.ports[d.dest.voice]).queue.length) →
    releaseDests velocity l v = (l, v)
  | [], _ => rfl
  | d :: rest, h => by
    obtain ⟨⟨hundelivered, hfull⟩, hrest⟩ := List.forall_mem_cons.mp h
    have hd : { d with delivered := d.delivered || false } = d := by rw [Bool.or_false]
    rw [releaseDests, offer_releasing_refused hfull]
    dsimp only
    rw [releaseDests_refused rest hrest, hd]

/-- With every port of the entry full it stays, Owed. -/
theorem releaseKey_full (htable : p.tracker.table = older ++ e :: younger)
    (hothers : ∀ f ∈ older ++ younger, f.player = i → f.key = key → f.state ≠ .sounding) (hplayer : e.player = i)
    (hkey : e.key = key) (hstate : e.state = .sounding) (hdests : e.dests ≠ [])
    (hfull : ∀ d ∈ e.dests, d.delivered = false ∧ (p.voices.ports[d.dest.voice]).enabled = true ∧
      Config.queueSize ≤ (p.voices.ports[d.dest.voice]).queue.length) :
    p.releaseKey i key velocity = { p with
      tracker := { p.tracker with table := older ++ { e with state := .owed velocity } :: younger } } := by
  have hrelease : e.release velocity p.voices = ({ e with state := .owed velocity }, p.voices) := by
    rw [HeldEntry.release, releaseDests_refused _ hfull]
  have hunfinished : ¬(HeldEntry.finished { e with state := .owed velocity }) = true := by
    obtain ⟨d, rest, hcons⟩ := List.exists_cons_of_ne_nil hdests
    have hd := (hfull d (by rw [hcons]; exact List.mem_cons_self)).1
    simp [HeldEntry.finished, hcons, hd]
  rw [releaseKey_one htable hothers hplayer hkey hstate, hrelease, if_neg hunfinished]

end Releases

/-- Settles O41, from the release of a key. -/
theorem noteOffReleasesTheEntry : Obligations.NoteOffReleasesTheEntry := by
  intro i status key b s sc p q velocity other left hawaits hstatus hb hengine hscene
  have hkeys : (p.withPort i q.completed).takesKeys = true := takesKeys_of hengine hscene
  have hkept : p.byteArrives i b = (p.withPort i q.completed).releaseKey i key.toNat velocity := by
    rw [byteArrives_awaits hawaits hb]
    obtain hoff | ⟨hon, rfl⟩ := hstatus
    · have hvelocity : velocity = b.toNat := if_neg (by omega)
      rw [messageKept_noteOff hoff, hkeys, hvelocity]
      rfl
    · have hvelocity : velocity = 64 := if_pos hon
      rw [messageKept_noteOn hon, hkeys, hvelocity]
      rfl
  refine ⟨fun hnone => next_part (hkept.trans (releaseKey_none hnone)),
    fun older younger e htable hothers hplayer hkey hstate => ⟨fun hroom => ?_, fun hdests hfull => ?_⟩⟩
  · obtain ⟨voices, hreleased, hreceived⟩ := releaseKey_roomy (p := p.withPort i q.completed) (velocity := velocity)
      htable hothers hplayer hkey hstate hroom
    exact ⟨_, next_part (hkept.trans hreleased), rfl, hreceived⟩
  · exact next_part (hkept.trans (releaseKey_full htable hothers hplayer hkey hstate hdests hfull))

/-! ### A note-on in the table (R84 to R86) -/

section NoteOns

variable {p : Part} {i : Fin 4} {key velocity : Nat} {notes : List RoutedNote} {owed younger : List HeldEntry}
  {e : HeldEntry}

/-- The flags of the layers that a note matches, from a layer on (R73). -/
theorem activityFrom_getLsbD (k : Nat) (hk : k < 8) : ∀ (start : Nat) (layers : List Layer),
    (activityFrom i key velocity start layers).getLsbD k =
      (decide (start ≤ k) && ((layers[k - start]?).bind fun l => l.route i key velocity).isSome)
  | start, [] => by simp [activityFrom]
  | start, l :: rest => by
    rw [activityFrom, BitVec.getLsbD_or, activityFrom_getLsbD k hk (start + 1) rest]
    obtain hlt | rfl | hgt := Nat.lt_trichotomy k start
    · have hbit : (BitVec.twoPow 8 start).getLsbD k = false := by simp [BitVec.getLsbD_twoPow]; omega
      rw [decide_eq_false (by omega), decide_eq_false (by omega)]
      cases (l.route i key velocity).isSome <;> simp [hbit]
    · have hbit : (BitVec.twoPow 8 k).getLsbD k = true := by simp [hk]
      rw [decide_eq_false (by omega), decide_eq_true (Nat.le_refl k), Nat.sub_self]
      cases h : (l.route i key velocity).isSome <;> simp [hbit, h]
    · have hbit : (BitVec.twoPow 8 start).getLsbD k = false := by simp [BitVec.getLsbD_twoPow]; omega
      have hindex : k - start = k - (start + 1) + 1 := by omega
      rw [decide_eq_true (by omega), decide_eq_true (by omega), hindex, List.getElem?_cons_succ]
      cases (l.route i key velocity).isSome <;> simp [hbit]

/-- The room that opening messages need is still there behind messages received. -/
theorem roomFor_opening {v w : Voices} {sent : List (Fin 8 × Message)} {n : Nat} (h : v.received w sent)
    (hroom : v.roomFor (v.reserve + (sent.length + n))) : w.roomFor (w.reserve + n) := by
  refine roomFor_received h ?_
  rw [h.1, Nat.add_left_comm]
  exact hroom

/-- A table with room is left as it is. -/
theorem makeRoom_roomy (h : p.tracker.table.length < 128) : p.makeRoom = p := if_pos h

theorem makeRoom_steals (hfull : p.tracker.table.length = 128) (htable : p.tracker.table = owed ++ e :: younger)
    (howed : ∀ f ∈ owed, f.state ≠ .sounding) (hstate : e.state = .sounding) (hroom : p.voices.roomFor e.dests.length) :
    p.makeRoom = { p with
      tracker := { p.tracker with table := owed ++ younger }
      voices := (e.release 64 p.voices).2
      notice := p.handed (.noteStolen e.player e.key 0) } := by
  rw [Part.makeRoom, if_neg (by rw [hfull]; decide), htable, stealForRoom_one owed e younger p.voices howed hstate hroom]
  rfl

theorem makeRoom_none (hfull : p.tracker.table.length = 128) (h : ∀ e ∈ p.tracker.table, e.state ≠ .sounding) :
    p.makeRoom = p := by
  rw [Part.makeRoom, if_neg (by rw [hfull]; decide), stealForRoom_none _ _ h]
  rfl

/-- A note-on of at least one destination, once its key is released and room is made. -/
theorem trackNoteOn_notes {released roomy : Part} (hnotes : notes ≠ []) (hreleased : p.releaseKey i key 64 = released)
    (hroomy : released.makeRoom = roomy) :
    p.trackNoteOn i key notes =
      if roomy.tracker.table.length < 128 then roomy.enterNote i key notes
      else roomy.journal (.noteDroppedTableFull i key notes.length) := by
  unfold Part.trackNoteOn
  dsimp only
  rw [hreleased, hroomy]
  exact if_neg (by simpa using hnotes)

/-- A note-on for which there is room in the table once its key is released. -/
theorem trackNoteOn_enters {released : Part} (hreleased : p.releaseKey i key 64 = released)
    (htable : released.tracker.table.length < 128)
    (hroom : released.voices.roomFor (released.voices.reserve + notes.length)) :
    ∃ voices, p.trackNoteOn i key notes = { released with
        tracker := { released.tracker with table := released.tracker.table ++ if notes = [] then [] else
          [{ player := i, key := key, state := .sounding
             dests := notes.map fun n => { dest := n.dest, key := n.key, delivered := false } }] }
        voices := voices } ∧
      released.voices.received voices (notes.map fun n =>
        (n.dest.voice, noteOnMessage n.dest.channel n.key n.velocity)) := by
  by_cases hnotes : notes = []
  · subst hnotes
    refine ⟨released.voices, ?_, received_nil _⟩
    rw [if_pos rfl, List.append_nil]
    exact (show p.trackNoteOn i key [] = p.releaseKey i key 64 from rfl).trans hreleased
  · obtain ⟨voices, hreceived, hentered⟩ := enterNote_roomy released i key notes hroom
    exact ⟨voices, (trackNoteOn_notes hnotes hreleased (makeRoom_roomy htable)).trans ((if_pos htable).trans hentered),
      hreceived⟩

/-- A note-on whose ports have no room. -/
theorem enterNote_full (h : ∀ n ∈ notes, (p.voices.ports[n.dest.voice]).enabled = true ∧
    64 ≤ (p.voices.ports[n.dest.voice]).queue.length + p.voices.reserve) (hnotes : notes ≠ []) :
    p.enterNote i key notes = p.journal (.noteDroppedPortFull i key notes.length) := by
  unfold Part.enterNote
  dsimp only
  rw [offerNotes_full notes p.voices h]
  exact if_neg (by simpa using hnotes)

end NoteOns

/-- Settles O40, by what stands in the table and the room at the ports. -/
theorem noteOnEntersTheTable : Obligations.NoteOnEntersTheTable := by
  intro i key velocity channel s sc p q notes entry entered other noteOns noteOffs room ends hawaits hpositive hbyte hengine
    hscene
  let x : Part := { p.withPort i q.completed with
    flags := p.flags ||| activityFrom i key.toNat velocity.toNat 0 sc.layers }
  have hkept : p.byteArrives i velocity = x.trackNoteOn i key.toNat notes := by
    rw [byteArrives_awaits hawaits hbyte, messageKept_noteOn (statusOf_noteOn channel),
      takesKeys_of (p := p.withPort i (p.players[i]).completed) hengine hscene]
    refine ((if_neg (by decide)).trans (if_neg (Nat.pos_iff_ne_zero.mp hpositive))).trans ?_
    rw [Part.noteOn, layers_of (p := p.withPort i (p.players[i]).completed) hscene]
    rfl
  have hflags (k : Fin 8) : x.flags.getLsbD k = (p.flags.getLsbD k ||
      ((sc.layers[k.val]?).bind fun l => l.route i key.toNat velocity.toNat).isSome) := by
    have hactivity := activityFrom_getLsbD (i := i) (key := key.toNat) (velocity := velocity.toNat) k.val k.isLt 0 sc.layers
    rw [Nat.sub_zero, decide_eq_true (Nat.zero_le _), Bool.true_and] at hactivity
    rw [← hactivity]
    exact BitVec.getLsbD_or
  have hends {table : List HeldEntry} {notice : Notice} {voices : Voices → Prop} {v : Voices}
      (h : x.trackNoteOn i key.toNat notes = { x with
        tracker := { p.tracker with table := table }, notice := notice, voices := v }) (hv : voices v) :
      ends table notice voices := ⟨_, next_part (hkept.trans h), rfl, hflags, hv⟩
  refine ⟨fun hothers => ⟨fun hlength hroom => ?_, fun hlength hnotes hfull => ?_, fun hlength hnotes =>
    ⟨fun owed younger e htable howed hstate hroom => ?_, fun hnone => ?_⟩⟩,
    fun older younger e htable hothers hplayer hkey hstate hbounded hroom => ?_⟩
  · obtain ⟨voices, hentered, hreceived⟩ := trackNoteOn_enters (p := x) (notes := notes) (releaseKey_none hothers) hlength
      (roomFor_less hroom (Nat.add_le_add_left (Nat.le_add_left _ _) _))
    exact hends (voices := fun v => p.voices.received v noteOns) hentered hreceived
  · have hdropped := (trackNoteOn_notes (p := x) hnotes (releaseKey_none hothers) (makeRoom_roomy hlength)).trans
      ((if_pos hlength).trans (enterNote_full (p := x) hfull hnotes))
    exact hends (voices := fun v => v = p.voices) hdropped rfl
  · have hsteals := makeRoom_steals (p := x) hlength htable howed hstate (roomFor_less hroom (by omega))
    obtain ⟨-, -, hoffs⟩ := release_roomy e 64 x.voices (roomFor_less hroom (by omega))
    have hsizes : (owed ++ younger).length < 128 := by
      have hcount : (owed ++ e :: younger).length = 128 := htable ▸ hlength
      simp only [List.length_append, List.length_cons] at hcount ⊢
      omega
    obtain ⟨voices, hreceived, hentered⟩ := enterNote_roomy { x with
        tracker := { p.tracker with table := owed ++ younger }
        voices := (e.release 64 x.voices).2
        notice := x.handed (.noteStolen e.player e.key 0) } i key.toNat notes
      (roomFor_opening hoffs (by rw [List.length_map]; exact hroom))
    rw [if_neg hnotes] at hentered
    have hstolen := (trackNoteOn_notes (p := x) hnotes (releaseKey_none hothers) hsteals).trans
      ((if_pos hsizes).trans hentered)
    exact hends (voices := fun v => p.voices.received v (noteOffs e ++ noteOns)) hstolen (received_append hoffs hreceived)
  · have hdropped := (trackNoteOn_notes (p := x) hnotes (releaseKey_none hothers) (makeRoom_none hlength hnone)).trans
      (if_neg (show ¬p.tracker.table.length < 128 by omega))
    exact hends (voices := fun v => v = p.voices) hdropped rfl
  · obtain ⟨voices, hreleased, hoffs⟩ := releaseKey_roomy (p := x) (velocity := 64) htable hothers hplayer hkey hstate
      (roomFor_less hroom (by omega))
    have hsizes : (older ++ younger).length < 128 := by
      have hcount : (older ++ e :: younger).length ≤ 128 := htable ▸ hbounded
      simp only [List.length_append, List.length_cons] at hcount ⊢
      omega
    obtain ⟨voices, hentered, hreceived⟩ := trackNoteOn_enters (p := x) (notes := notes) hreleased hsizes
      (roomFor_opening hoffs (by rw [List.length_map]; exact hroom))
    exact hends (voices := fun v => p.voices.received v (noteOffs e ++ noteOns)) hentered (received_append hoffs hreceived)

end Sys2Proof.Machine
end

section
/-! PROOFS. Voice ports: admission, setup batches, the real-time slot, and the byte boundary with a held switch (7.2 to 7.6, 8.6). -/

namespace Sys2Proof.Machine

/-! ### A transmitter's choice -/

theorem VoicePort.wake_sending (v : VoicePort) (h : v.tx ≠ .idle) : v.wake = v := by
  unfold VoicePort.wake
  split
  · exact absurd (by assumption) h
  · rfl

theorem VoicePort.wake_idle (v : VoicePort) (h : v.tx = .idle) : v.wake = v.choose := by
  unfold VoicePort.wake
  rw [h]

theorem VoicePort.choose_queue (v : VoicePort) (m : Message) (rest : List Message) (hs : v.slot = [])
    (h : v.queue = m :: rest) :
    v.choose = { v with tx := .sending (m.getD (v.sent.getD 0) 0) .queue, sent := some (v.sent.getD 0) } := by
  unfold VoicePort.choose
  rw [hs, h]

/-! ### Admission (7.2, 7.5) -/

theorem VoicePort.accept_disabled (v : VoicePort) (m : Message) (h : v.enabled = false) : v.accept m = v := by
  unfold VoicePort.accept
  rw [if_neg (by rw [h]; decide)]

theorem VoicePort.accept_enabled (v : VoicePort) (m : Message) (h : v.enabled = true) :
    v.accept m = { v with queue := v.queue ++ [m] }.wake := by
  unfold VoicePort.accept
  rw [if_pos h]

theorem Voices.setPort_self (v : Voices) (i : Fin 8) : v.setPort i v.ports[i] = v := by
  unfold Voices.setPort
  congr 1
  exact Vector.set_getElem_self _

theorem Voices.accept_port (v : Voices) (i : Fin 8) (m : Message) : (v.accept i m).ports[i] = (v.ports[i]).accept m := by
  unfold Voices.accept
  rw [Voices.setPort_ports, if_pos rfl]

theorem Voices.accept_others (v : Voices) (i j : Fin 8) (m : Message) (h : j ≠ i) : (v.accept i m).ports[j] = v.ports[j] := by
  unfold Voices.accept
  rw [Voices.setPort_ports, if_neg h.symm]

/-- The test of an enabled port's free entries that a class asks for (R102). -/
def Voices.hasRoom (v : Voices) (cls : Admission) (i : Fin 8) : Prop :=
  match cls with
  | .opening => v.reserve < 64 - (v.ports[i]).queue.length
  | .releasing => 1 ≤ 64 - (v.ports[i]).queue.length

theorem Voices.admits_iff (v : Voices) (cls : Admission) (i : Fin 8) (h : (v.ports[i]).enabled = true) :
    v.admits cls i = true ↔ v.hasRoom cls i := by
  unfold Voices.admits Voices.hasRoom
  rw [h]
  cases cls <;> exact decide_eq_true_iff

/-- Settles O42: the offer by the class's test of the free entries; what an admitted message leaves of its port. -/
theorem admissionFollowsTheClass : Obligations.AdmissionFollowsTheClass := by
  unfold Obligations.AdmissionFollowsTheClass
  intro v cls i m port free admitted w
  refine ⟨fun hoff => ?_, fun hon hn => ?_, fun hon ha => ?_⟩
  · have hadm : v.admits cls i = true := by
      unfold Voices.admits
      rw [show (v.ports[i]).enabled = false from hoff]; rfl
    have hself : v.accept i m = v := by
      unfold Voices.accept
      rw [VoicePort.accept_disabled _ _ hoff, Voices.setPort_self]
    unfold Voices.offer
    rw [if_pos hadm, hself]
  · unfold Voices.offer
    exact if_neg fun h => hn ((v.admits_iff cls i hon).mp h)
  · have hw : v.offer cls i m = (true, v.accept i m) := by
      unfold Voices.offer
      exact if_pos ((v.admits_iff cls i hon).mpr ha)
    have hport : w.ports[i] = { port with queue := port.queue ++ [m] }.wake := by
      show (v.offer cls i m).2.ports[i] = _
      rw [hw, Voices.accept_port, VoicePort.accept_enabled _ _ hon]
    have hfree : 1 ≤ 64 - port.queue.length := by
      cases cls with
      | opening => exact Nat.lt_of_le_of_lt (Nat.zero_le _) ha
      | releasing => exact ha
    refine ⟨by rw [hw], ?_, fun j hj => ?_, ?_, fun ht => ?_, fun ht hs hq hsent => ?_⟩
    · show (v.offer cls i m).2.reserve = _
      rw [hw]; rfl
    · show (v.offer cls i m).2.ports[j] = _
      rw [hw, Voices.accept_others v i j m hj]
    · rw [hport, VoicePort.wake_keeps]
      show 64 - (port.queue ++ [m]).length + 1 = 64 - port.queue.length
      rw [List.length_append, List.length_singleton]
      omega
    · rw [hport]; exact VoicePort.wake_sending _ ht
    · rw [hport, VoicePort.wake_idle { port with queue := port.queue ++ [m] } ht,
        VoicePort.choose_queue { port with queue := port.queue ++ [m] } m [] hs (by rw [hq]; rfl), hsent, hq]
      rfl

/-! ### Setup batches (7.3) -/

theorem batchFits_iff (v : Voices) (batch : List SetupMessage) :
    v.batchFits batch = true ↔ ∀ m ∈ batch, (v.ports[m.voice]).enabled = true →
      batchCount batch m.voice + v.reserve ≤ 64 - (v.ports[m.voice]).queue.length := by
  unfold Voices.batchFits
  rw [List.all_eq_true]
  refine forall₂_congr fun m _ => ?_
  cases (v.ports[m.voice]).enabled with
  | false => exact ⟨fun _ h => absurd h (by decide), fun _ => rfl⟩
  | true => exact ⟨fun h _ => of_decide_eq_true h, fun h => decide_eq_true (h rfl)⟩

/-- What a batch admitted adds to an enabled port's queue. -/
theorem admitBatch_length (v : Voices) (batch : List SetupMessage) (i : Fin 8) (h : (v.ports[i]).enabled = true) :
    ((v.admitBatch batch).ports[i]).queue.length = (v.ports[i]).queue.length + batchCount batch i := by
  rw [(admitBatch_received batch v).2 i]
  dsimp only
  rw [if_pos h, List.length_append, batchCount_eq]

/-- Settles O43: the batch check counts each port's messages, and so many entries are taken. -/
theorem batchLeavesTheReserve : Obligations.BatchLeavesTheReserve := by
  unfold Obligations.BatchLeavesTheReserve
  intro v batch count w
  refine ⟨batchFits_iff v batch, admitBatch_received batch v, fun hf m hm hon => ?_⟩
  have hfit := (batchFits_iff v batch).mp hf m hm hon
  show v.reserve ≤ 64 - ((v.admitBatch batch).ports[m.voice]).queue.length
  rw [admitBatch_length v batch m.voice hon]
  omega

/-! ### The real-time slot (7.6) -/

theorem VoicePort.request_off (v : VoicePort) (r : RtByte) (h : v.enabled = false ∨ v.clockOut = false) :
    v.request r = v := by
  unfold VoicePort.request
  refine if_neg ?_
  rcases h with h | h <;> simp [h]

/-- A request taken: the slot by its table, and an Idle transmitter begins the slot's older byte. -/
theorem VoicePort.request_taken (v : VoicePort) (r a : RtByte) (rest : List RtByte) (h1 : v.enabled = true)
    (h2 : v.clockOut = true) (h : slotAfter v.slot r = a :: rest) :
    v.request r = { v with
      slot := a :: rest, tx := if v.tx = .idle then .sending a.byte .slot else v.tx } := by
  unfold VoicePort.request
  rw [if_pos (by rw [h1, h2]; rfl), h]
  by_cases ht : v.tx = .idle
  · rw [if_pos ht, VoicePort.wake_idle { v with slot := a :: rest } ht]
    rfl
  · rw [if_neg ht]
    exact VoicePort.wake_sending _ ht

/-- Settles O44: the rows of the slot's table, each with the byte that an Idle transmitter begins. -/
theorem realTimeSlotTakesRequests : Obligations.RealTimeSlotTakesRequests := by
  unfold Obligations.RealTimeSlotTakesRequests
  intro v r a b after
  refine ⟨rfl, rfl, rfl, rfl, fun h => v.request_off r h, fun h1 h2 => ?_⟩
  have taken : ∀ x rest, slotAfter v.slot r = x :: rest →
      v.request r = after (x :: rest) ∧ (v.tx = .idle → (v.request r).tx = .sending x.byte .slot) := by
    intro x rest h
    have hreq := v.request_taken r x rest h1 h2 h
    have htx : v.tx = .idle → (v.request r).tx = .sending x.byte .slot := fun ht => by
      rw [hreq]; exact if_pos ht
    refine ⟨?_, htx⟩
    show v.request r = { v with slot := x :: rest, tx := if v.tx = .idle then (v.request r).tx else v.tx }
    rw [hreq]
    by_cases ht : v.tx = .idle
    · simp only [if_pos ht]
    · simp only [if_neg ht]
  refine ⟨fun h => taken r [] (by rw [h]; rfl), fun h => taken a [r] (by rw [h]; rfl), fun h hr => ?_, fun h hr => ?_,
    fun h hb => ?_⟩
  · exact (taken a [r] (by rw [h]; exact if_pos ⟨rfl, hr⟩)).1
  · exact (taken a [.clock] (by rw [h]; exact if_neg fun hc => hc.2 hr)).1
  · exact (taken a [b] (by rw [h]; exact if_neg fun hc => hb hc.1)).1

/-! ### The end of the byte in progress (7.5) -/

theorem VoicePort.finishByte_kept (v : VoicePort) (h : v.tx = .idle ∨ ∃ b, v.tx = .sending b .cut) :
    v.finishByte = (v, false) := by
  unfold VoicePort.finishByte
  rcases h with h | ⟨b, h⟩ <;> rw [h]

theorem VoicePort.finishByte_slot (v : VoicePort) (b : Byte) (h : v.tx = .sending b .slot) :
    v.finishByte = ({ v with slot := v.slot.tail }, false) := by
  unfold VoicePort.finishByte
  rw [h]

theorem VoicePort.finishByte_inside (v : VoicePort) (b : Byte) (m : Message) (rest : List Message)
    (h : v.tx = .sending b .queue) (hq : v.queue = m :: rest) (hl : v.sent.getD 0 + 1 < m.length) :
    v.finishByte = ({ v with sent := some (v.sent.getD 0 + 1) }, false) := by
  unfold VoicePort.finishByte
  rw [h, hq]
  exact if_pos hl

theorem VoicePort.finishByte_frees (v : VoicePort) (b : Byte) (m : Message) (rest : List Message)
    (h : v.tx = .sending b .queue) (hq : v.queue = m :: rest) (hl : m.length ≤ v.sent.getD 0 + 1) :
    v.finishByte = ({ v with queue := rest, sent := none }, true) := by
  unfold VoicePort.finishByte
  rw [h, hq]
  exact if_neg (Nat.not_lt.mpr hl)

/-- The part with one voice port replaced. -/
def Part.withVoice (p : Part) (i : Fin 8) (port : VoicePort) : Part := { p with voices := p.voices.setPort i port }

/-- The end of a byte boundary's act: the port chooses its next byte, and the drain is tested. -/
def Part.chooses (p : Part) (i : Fin 8) : Part := (p.withVoice i p.voices.ports[i].choose).drainTest

theorem byteBoundary_ends (p : Part) (i : Fin 8) (port : VoicePort) (h : (p.voices.ports[i]).finishByte = (port, false)) :
    p.byteBoundary i = (p.withVoice i port).chooses i := by
  unfold Part.byteBoundary
  rw [h]
  rfl

theorem byteBoundary_frees (p : Part) (i : Fin 8) (port : VoicePort) (h : (p.voices.ports[i]).finishByte = (port, true)) :
    p.byteBoundary i = (((p.withVoice i port).deliverOwed i).recheckHeld i).chooses i := by
  unfold Part.byteBoundary
  rw [h]
  rfl

/-! ### The owed messages, and the held switch checked again (6.4, 8.6) -/

theorem deliverOwed_sides (p : Part) (i : Fin 8) :
    ∃ v t, p.deliverOwed i = { p with voices := v, tracker := t } := by
  unfold Part.deliverOwed
  dsimp only
  split
  · exact ⟨_, _, rfl⟩
  · exact ⟨_, _, rfl⟩

/-- What a port freed while it sends is brought, as seen from the part before the byte's end. -/
theorem freed_served (p : Part) (i : Fin 8) (port : VoicePort) (hon : port.enabled = true) (htx : port.tx ≠ .idle) :
    p.served ((p.withVoice i port).deliverOwed i) i port := by
  have hport : ((p.withVoice i port).voices).ports[i] = port := by
    unfold Part.withVoice
    dsimp only
    rw [Voices.setPort_ports, if_pos rfl]
  have h := deliverOwed_served (p.withVoice i port) i (by
    unfold Voices.sendingAt
    rw [hport]
    exact ⟨hon, htx⟩)
  rw [hport] at h
  obtain ⟨h1, h2⟩ := h
  refine ⟨h1.trans ?_, h2⟩
  unfold Part.withVoice Voices.setPort
  dsimp only
  rw [Vector.set_set]

theorem batchNames_iff (p : Part) (i : Fin 8) : p.batchNames i = true ↔ ∃ m ∈ p.shadowBatch, m.voice = i := by
  unfold Part.batchNames
  rw [List.any_eq_true]
  simp only [decide_eq_true_eq]

theorem recheckHeld_stays (p : Part) (i : Fin 8)
    (h : p.loader.held = none ∨ ¬p.batchNames i = true ∨ p.voices.batchFits p.shadowBatch = false) :
    p.recheckHeld i = p := by
  unfold Part.recheckHeld
  split
  · rfl
  · rename_i held hh
    refine if_neg fun hb => ?_
    obtain ⟨hn, hf⟩ := Bool.and_eq_true_iff.mp hb
    rcases h with h | h | h
    · rw [hh] at h; cases h
    · exact h hn
    · rw [h] at hf; cases hf

theorem recheckHeld_makes (p : Part) (i : Fin 8) (held : HeldSwitch) (hh : p.loader.held = some held)
    (hn : p.batchNames i = true) (hf : p.voices.batchFits p.shadowBatch = true) :
    p.recheckHeld i = ({ p with voices := p.voices.admitBatch p.shadowBatch }).completeHeld held.cause none := by
  unfold Part.recheckHeld
  rw [hh]
  exact if_pos (by rw [hn, hf]; rfl)

theorem completeHeld_entry (p : Part) (target scene : Nat) (cause : SectionCause) (announced : Option Nat)
    (forced : Option (BitVec 8)) :
    p.completeHeld (.entry target scene cause announced) forced = p.completeSection target cause announced := rfl

theorem completeHeld_cue (p : Part) (a : ArmedCue) (forced : Option (BitVec 8)) (h : p.cues.arms = [a]) :
    p.completeHeld (.cue a.slot) forced = p.completeCue a forced := by
  unfold Part.completeHeld Part.armOf
  dsimp only
  rw [h, List.find?_cons_of_pos (by simp)]

/-- A held section switch whose batch names the port and fits is made (R107, R127, R128). -/
theorem recheckHeld_section (r : Part) (i : Fin 8) (sc : Scene) (target scene : Nat) (cause : SectionCause)
    (announced : Option Nat) (n : Nat)
    (hh : r.loader.held = some { cause := .entry target scene cause announced, countdown := n })
    (hs : r.loader.shadowScene = some sc) (hsong : r.loader.shadowSong = none) (ht : r.loader.trigger = none)
    (hn : ∃ m ∈ sc.setup, m.voice = i) (hf : r.voices.batchFits sc.setup = true) :
    r.sectionMade (r.recheckHeld i) sc target cause announced r.notice ∧
      r.switchSends (r.recheckHeld i) (some sc) sc.setup := by
  have hb : r.shadowBatch = sc.setup := by unfold Part.shadowBatch; rw [hs]
  rw [recheckHeld_makes r i _ hh ((batchNames_iff r i).mpr (by rw [hb]; exact hn)) (by rw [hb]; exact hf),
    completeHeld_entry, hb]
  obtain ⟨h1, h2⟩ := completeSection_made { r with voices := r.voices.admitBatch sc.setup } sc target cause announced hs hsong ht
  exact ⟨h1, switchSends_of r _ _ _ _ (admitBatch_received sc.setup r.voices) h2⟩

/-- A held cue's switch whose batch names the port and fits is made (R107, R127, R128). -/
theorem recheckHeld_cue (r : Part) (i : Fin 8) (a : ArmedCue) (incoming : Option Scene) (n : Nat)
    (hh : r.loader.held = some { cause := .cue a.slot, countdown := n }) (hs : r.loader.shadowScene = incoming)
    (ha : r.cues.arms = [a]) (hw : r.cues.writes = []) (hl : r.loader.late = none) (hfits : r.cueFits a incoming)
    (hn : ∃ m ∈ r.shadowBatch, m.voice = i) (hf : r.voices.batchFits r.shadowBatch = true) :
    r.cueMade (r.recheckHeld i) a incoming (if 0 < a.missed then .okLate else .ok) 0 r.notice ∧
      r.switchSends (r.recheckHeld i) incoming r.shadowBatch := by
  rw [recheckHeld_makes r i _ hh ((batchNames_iff r i).mpr hn) hf]
  dsimp only
  rw [completeHeld_cue { r with voices := r.voices.admitBatch r.shadowBatch } a _ ha]
  obtain ⟨h1, h2⟩ := completeCue_made { r with voices := r.voices.admitBatch r.shadowBatch } a incoming none ha hw hl hs hfits
  exact ⟨h1, switchSends_of r _ _ _ _ (admitBatch_received r.shadowBatch r.voices) h2⟩

theorem chooses_drains (p : Part) (i : Fin 8) : (p.withVoice i p.voices.ports[i].choose).drains (p.chooses i) :=
  drainTest_drains _

/-- Settles O45: the cases of the byte's end, each with the port's choice and the drain's test behind it. -/
theorem byteBoundaryChoosesTheNextByte : Obligations.ByteBoundaryChoosesTheNextByte := by
  unfold Obligations.ByteBoundaryChoosesTheNextByte
  intro v s p port chosen sends after named batch
  have hchoose : ∀ q : VoicePort, chosen q = q.choose := by
    intro q
    show (match q.slot, q.queue with
      | r :: _, _ => { q with tx := .sending r.byte .slot }
      | [], [] => { q with tx := .idle }
      | [], m :: _ => { q with tx := .sending (m.getD (q.sent.getD 0) 0) .queue, sent := some (q.sent.getD 0) }) = _
    unfold VoicePort.choose
    cases q.slot with
    | cons r rest => rfl
    | nil => cases q.queue <;> rfl
  have sent : ∀ q : Part, p.byteBoundary v = q.chooses v → sends q := by
    intro q hq
    refine ⟨q.chooses v, ?_, ?_⟩
    · exact next_part hq
    · show ({ q with voices := { q.voices with
        ports := q.voices.ports.set v (chosen q.voices.ports[v]) } } : Part).drains _
      rw [hchoose]
      exact chooses_drains q v
  refine ⟨fun h => ?_, fun b h => ?_, fun b m rest h hq => ⟨fun hl => ?_, fun hl hon => ?_⟩⟩
  · refine sent p ((byteBoundary_ends p v port (port.finishByte_kept h)).trans ?_)
    unfold Part.withVoice
    rw [Voices.setPort_self]
  · exact sent _ (byteBoundary_ends p v _ (port.finishByte_slot b h))
  · exact sent _ (byteBoundary_ends p v _ (port.finishByte_inside b m rest h hq hl))
  · have hfin := byteBoundary_frees p v _ (port.finishByte_frees b m rest h hq hl)
    have hserved := freed_served p v { port with queue := rest, sent := none } hon (by
      show port.tx ≠ .idle
      rw [h]; exact fun hc => nomatch hc)
    obtain ⟨vs, t, hr⟩ := deliverOwed_sides (p.withVoice v { port with queue := rest, sent := none }) v
    rw [hr] at hfin hserved
    refine ⟨_, hserved, fun hstay => ?_, fun sc target scene cause announced n hh hs hsong ht hn hf => ?_,
      fun a incoming n hh hs ha hw hl hfits hn hf => ?_⟩
    · refine sent _ (hfin.trans (congrArg (Part.chooses · v) (recheckHeld_stays _ v ?_)))
      rw [batchNames_iff]
      exact hstay
    · have hmade := recheckHeld_section (r := { p.withVoice v { port with queue := rest, sent := none } with
        voices := vs, tracker := t }) v sc target scene cause announced n hh hs hsong ht hn hf
      exact ⟨_, sent _ hfin, hmade⟩
    · have hmade := recheckHeld_cue (r := { p.withVoice v { port with queue := rest, sent := none } with
        voices := vs, tracker := t }) v a incoming n hh hs ha hw hl hfits hn hf
      exact ⟨_, sent _ hfin, hmade⟩

end Sys2Proof.Machine
end

section
/-! PROOFS. The effective kind of an address, host accesses granted at once, and the journal's room (10.3, 10.4, 11.4). -/

namespace Sys2Proof.Machine

/-! ### The effective kind (10.3) -/

section Kinds
variable {r : RegionTable} {address : Nat}

theorem RegionKind.strictest_eq (a b : RegionKind) : a.strictest b = a ∨ a.strictest b = b := by
  unfold RegionKind.strictest
  split
  · exact .inr rfl
  · exact .inl rfl

theorem RegionKind.rank_strictest (a b : RegionKind) : (a.strictest b).rank = max a.rank b.rank := by
  unfold RegionKind.strictest
  split <;> omega

theorem Window.covers_iff (w : Window) (a : Nat) : w.covers a = true ↔ w.base ≤ a ∧ a < w.base + 2 ^ w.sizeLog := by
  simp [Window.covers]

/-- A kind made stricter by one window, where that covers the address. -/
def RegionTable.under (r : RegionTable) (address : Nat) (kind : RegionKind) (i : Fin 4) : RegionKind :=
  match r.windows[i] with
  | none => kind
  | some w => if w.covers address then kind.strictest w.kind else kind

theorem RegionTable.regionKind_eq (r : RegionTable) (a : Nat) :
    r.regionKind a = allWindows.foldl (r.under a) r.pages[Fin.ofNat 16 (a / 0x4000)] := rfl

/-- Whether a kind is that of a window that covers the address. -/
def RegionTable.coveredBy (r : RegionTable) (address : Nat) (i : Fin 4) (kind : RegionKind) : Prop :=
  ∃ w, r.windows[i] = some w ∧ w.covers address = true ∧ w.kind = kind

theorem RegionTable.under_cases (kind : RegionKind) (i : Fin 4) :
    r.under address kind i = kind ∨ r.coveredBy address i (r.under address kind i) := by
  unfold RegionTable.under RegionTable.coveredBy
  cases hw : r.windows[i] with
  | none => exact .inl rfl
  | some w =>
    dsimp only
    by_cases hc : w.covers address = true
    · rw [if_pos hc]
      rcases kind.strictest_eq w.kind with h | h
      · exact .inl h
      · exact .inr ⟨w, rfl, hc, h.symm⟩
    · rw [if_neg hc]
      exact .inl rfl

theorem RegionTable.rank_under (kind : RegionKind) (i : Fin 4) : kind.rank ≤ (r.under address kind i).rank := by
  unfold RegionTable.under
  split
  · exact le_rfl
  · split
    · rw [RegionKind.rank_strictest]; exact le_max_left _ _
    · exact le_rfl

theorem RegionTable.rank_covering (kind other : RegionKind) (i : Fin 4) (h : r.coveredBy address i other) :
    other.rank ≤ (r.under address kind i).rank := by
  obtain ⟨w, hw, hc, rfl⟩ := h
  unfold RegionTable.under
  rw [hw]
  dsimp only
  rw [if_pos hc, RegionKind.rank_strictest]
  exact le_max_right _ _

theorem RegionTable.rank_foldl : ∀ (l : List (Fin 4)) (kind : RegionKind), kind.rank ≤ (l.foldl (r.under address) kind).rank
  | [], _ => le_rfl
  | _ :: rest, _ => (rank_under _ _).trans (rank_foldl rest _)

theorem RegionTable.foldl_cases : ∀ (l : List (Fin 4)) (kind : RegionKind),
    l.foldl (r.under address) kind = kind ∨ ∃ i ∈ l, r.coveredBy address i (l.foldl (r.under address) kind)
  | [], _ => .inl rfl
  | i :: rest, kind => by
    rw [List.foldl_cons]
    rcases foldl_cases rest (r.under address kind i) with h | ⟨j, hj, h⟩
    · rw [h]
      exact (under_cases kind i).imp id fun hc => ⟨i, by simp, hc⟩
    · exact .inr ⟨j, by simp [hj], h⟩

theorem RegionTable.rank_foldl_covering : ∀ (l : List (Fin 4)) (kind other : RegionKind) (i : Fin 4), i ∈ l →
    r.coveredBy address i other → other.rank ≤ (l.foldl (r.under address) kind).rank
  | j :: rest, kind, other, i, hi, h => by
    rw [List.foldl_cons]
    rcases List.mem_cons.mp hi with hij | hi
    · subst hij
      exact (rank_covering kind other i h).trans (rank_foldl rest _)
    · exact rank_foldl_covering rest _ other i hi h

theorem mem_allWindows (i : Fin 4) : i ∈ allWindows := by revert i; decide

/-- Both bytes of a halfword lie in the same windows, where those begin and end on even addresses. -/
theorem Window.covers_halfword (w : Window) (h : Nat) (hsize : 8 ≤ w.sizeLog) (hbase : w.base % 2 ^ w.sizeLog = 0) :
    w.covers (2 * h + 1) = w.covers (2 * h) := by
  have hpow : 2 ∣ 2 ^ w.sizeLog := dvd_pow_self 2 (by omega)
  have heven : 2 ∣ w.base := hpow.trans (Nat.dvd_of_mod_eq_zero hbase)
  have hiff : w.covers (2 * h + 1) = true ↔ w.covers (2 * h) = true := by
    rw [Window.covers_iff, Window.covers_iff]
    omega
  exact Bool.eq_iff_iff.mpr hiff

theorem RegionTable.effective_halfword (r : RegionTable) (h : Nat)
    (hvalid : ∀ (i : Fin 4) (w : Window), r.windows[i] = some w → 8 ≤ w.sizeLog ∧ w.base % 2 ^ w.sizeLog = 0) :
    r.effective (2 * h + 1) = r.effective (2 * h) := by
  have hunder : r.under (2 * h + 1) = r.under (2 * h) := by
    funext kind i
    unfold RegionTable.under
    cases hw : r.windows[i] with
    | none => rfl
    | some w =>
      obtain ⟨hsize, hbase⟩ := hvalid i w hw
      dsimp only
      rw [w.covers_halfword h hsize hbase]
  have hpage : (2 * h + 1) / 0x4000 = 2 * h / 0x4000 := by omega
  unfold RegionTable.effective
  rw [RegionTable.regionKind_eq, RegionTable.regionKind_eq, hunder]
  simp only [hpage]

end Kinds

/-- Settles O46: the fold over the windows reaches one of the kinds that apply, and no stricter one is left. -/
theorem effectiveKindIsTheStrictest : Obligations.EffectiveKindIsTheStrictest := by
  unfold Obligations.EffectiveKindIsTheStrictest
  intro r a h applies
  have covered : ∀ i kind, r.coveredBy a i kind → applies kind := by
    rintro i kind ⟨w, hw, hc, hk⟩
    obtain ⟨h1, h2⟩ := (w.covers_iff a).mp hc
    exact .inr ⟨i, w, hw, h1, h2, hk⟩
  refine ⟨by decide, by decide, by decide, ?_, ?_, fun hp => ?_, fun hp => ?_, fun hp => ?_, r.effective_halfword h⟩
  · rw [RegionTable.regionKind_eq]
    rcases RegionTable.foldl_cases (r := r) (address := a) allWindows r.pages[Fin.ofNat 16 (a / 0x4000)] with hk | ⟨i, -, hk⟩
    · exact .inl hk
    · exact covered i _ hk
  · rintro kind (hk | ⟨i, w, hw, h1, h2, hk⟩)
    · rw [RegionTable.regionKind_eq, hk]
      exact RegionTable.rank_foldl _ _
    · rw [RegionTable.regionKind_eq]
      exact RegionTable.rank_foldl_covering allWindows _ kind i (mem_allWindows i) ⟨w, hw, (w.covers_iff a).mpr ⟨h1, h2⟩, hk⟩
  · unfold RegionTable.effective
    rw [hp]; rfl
  · unfold RegionTable.effective
    rw [hp]; cases r.regionKind a <;> rfl
  · unfold RegionTable.effective
    rw [hp]; cases r.regionKind a <;> rfl

/-! ### Host accesses granted at once (10.4, 10.6) -/

/-- The bytes that a host write puts on the RAM. -/
theorem fieldBytes_halfword (order : ByteOrder) (d : Halfword) :
    fieldBytes order 2 d.toNat = [(halfwordBytes order d).1, (halfwordBytes order d).2] := by
  have hlow : BitVec.ofNat 8 d.toNat = d.setWidth 8 := by
    apply BitVec.eq_of_toNat_eq
    rw [BitVec.toNat_ofNat, BitVec.toNat_setWidth]
  have hhigh : BitVec.ofNat 8 (d.toNat / 256) = (d >>> 8).setWidth 8 := by
    apply BitVec.eq_of_toNat_eq
    rw [BitVec.toNat_ofNat, BitVec.toNat_setWidth, BitVec.toNat_ushiftRight, Nat.shiftRight_eq_div_pow]
  have hbytes : leastFirstBytes 2 d.toNat = [d.setWidth 8, (d >>> 8).setWidth 8] := by
    rw [leastFirstBytes, leastFirstBytes, leastFirstBytes, hlow, hhigh]
  cases order with
  | leastFirst => exact hbytes
  | mostFirst => exact congrArg List.reverse hbytes

section HostAccesses
variable {s : State} {address : BitVec 17} {d : Halfword}

theorem halfwordAddress_fits (address : BitVec 17) : 2 * address.toNat + 2 ≤ Config.ramBytes := by
  have := address.isLt
  have hram : Config.ramBytes = 262144 := rfl
  omega

theorem stored_writeBytes (wf : s.mem.wf = true) :
    s.mem.stored (s.mem.writeBytes (2 * address.toNat) (fieldBytes s.order 2 d.toNat)) s.order address d := by
  have hfit := halfwordAddress_fits address
  rw [fieldBytes_halfword]
  exact ⟨Memory.read_writeBytes_inside (i := 0) wf hfit (by simp), Memory.read_writeBytes_inside (i := 1) wf hfit (by simp),
    fun a ha h1 h2 => Memory.read_writeBytes_outside ha hfit (by rw [List.length_cons, List.length_singleton]; omega)⟩

/-- What the watch decides on a host write granted at once. -/
def State.decided (s : State) (address : BitVec 17) (d : Halfword) : Part × Bool :=
  s.part.hostGranted.decideWrite s.order (2 * address.toNat) (fieldBytes s.order 2 d.toNat)

theorem hostWrites_free (h : s.hostFree) : s.hostWrites address d = { s with
    part := (s.decided address d).1
    mem := if (s.decided address d).2 then s.mem.writeBytes (2 * address.toNat) (fieldBytes s.order 2 d.toNat) else s.mem } := by
  unfold State.hostWrites
  rw [giveWay_of_hostFree s h]
  rfl

/-- A host write granted at once and performed. -/
theorem exec_hostWrite_performs {q : Part} (wf : s.mem.wf = true) (h : s.hostFree)
    (hd : s.decided address d = (q, true)) :
    ∃ m, exec (.hostWrite address d) s = .next { s with part := q, mem := m } ∧ s.mem.stored m s.order address d := by
  have hwrites := hostWrites_free (address := address) (d := d) h
  rw [hd] at hwrites
  exact ⟨_, congrArg _ hwrites, stored_writeBytes wf⟩

/-- A host write granted at once and refused. -/
theorem exec_hostWrite_refused {q : Part} (h : s.hostFree) (hd : s.decided address d = (q, false)) :
    exec (.hostWrite address d) s = .next { s with part := q } := by
  have hwrites := hostWrites_free (address := address) (d := d) h
  rw [hd] at hwrites
  exact congrArg _ hwrites

theorem hostReads_free (h : s.hostFree) : s.hostReads address =
    { s with part := s.part.hostGranted, hostData := s.halfwordAt (2 * address.toNat) } := by
  unfold State.hostReads
  rw [giveWay_of_hostFree s h]
  rfl

/-- Two bytes put together as the data lines carry them, taken apart again. -/
theorem halfwordBytes_fieldValue (order : ByteOrder) (a b : Byte) :
    halfwordBytes order (BitVec.ofNat 16 (fieldValue order [a, b])) = (a, b) := by
  have ha := a.isLt
  have hb := b.isLt
  have hlow : ∀ x y : Byte, (BitVec.ofNat 16 (leastFirstValue [x, y])).setWidth 8 = x := by
    intro x y
    have := x.isLt
    apply BitVec.eq_of_toNat_eq
    simp [leastFirstValue]
    omega
  have hhigh : ∀ x y : Byte, (BitVec.ofNat 16 (leastFirstValue [x, y]) >>> 8).setWidth 8 = y := by
    intro x y
    have := x.isLt
    have := y.isLt
    apply BitVec.eq_of_toNat_eq
    simp [leastFirstValue, Nat.shiftRight_eq_div_pow]
    omega
  cases order with
  | leastFirst => exact Prod.ext (hlow a b) (hhigh a b)
  | mostFirst => exact Prod.ext (hhigh b a) (hlow b a)

end HostAccesses

/-! ### The watch's decision, branch by branch (R161) -/

section Decision
variable {p : Part} {order : ByteOrder} {a : Nat} {bytes : List Byte}

theorem decideWrite_not_running (h : p.engine ≠ .running) : p.decideWrite order a bytes = (p, true) := by
  unfold Part.decideWrite
  exact if_pos h

theorem decideWrite_directory (h : p.engine = .running) (ha : a < 0x200) :
    p.decideWrite order a bytes = (p.guardRefuse [] a true, false) := by
  unfold Part.decideWrite
  dsimp only
  rw [if_neg (not_not.mpr h), if_pos ha]

theorem decideWrite_board (h : p.engine = .running) (ha : 0x200 ≤ a) (slot : Fin 32) (k : Nat) (hk : k < 32)
    (hslot : a = p.layout.cueBoard + 32 * slot.val + k) :
    p.decideWrite order a bytes = p.writeBoard slot (if k = 0 then some (numAt bytes 0) else none) := by
  have hlt := slot.isLt
  have hplace : a - p.layout.cueBoard = 32 * slot.val + k := by omega
  have hof : Fin.ofNat 32 ((a - p.layout.cueBoard) / 32) = slot := by
    apply Fin.ext
    show (a - p.layout.cueBoard) / 32 % 32 = slot.val
    omega
  have hk0 : (a - p.layout.cueBoard) % 32 = k := by omega
  unfold Part.decideWrite
  dsimp only
  rw [if_neg (not_not.mpr h), if_neg (by omega), if_pos (by omega), hof, hk0]

/-- Beyond the directory and the board: the journal's taken-count word, or the resident records. -/
theorem decideWrite_beyond (h : p.engine = .running) (ha : 0x200 ≤ a)
    (hboard : a < p.layout.cueBoard ∨ p.layout.cueBoard + 1024 ≤ a) :
    (∀ upper, p.takenHalf a = some upper → p.decideWrite order a bytes =
      ((({ p with watch := { p.watch with takenCopy := mergeTaken order p.watch.takenCopy upper bytes } }).takenUpdate
        (mergeTaken order p.watch.takenCopy upper bytes)), true)) ∧
    (p.takenHalf a = none → p.decideWrite order a bytes = p.writeRecords a) := by
  unfold Part.decideWrite
  dsimp only
  rw [if_neg (not_not.mpr h), if_neg (by omega), if_neg (by omega)]
  exact ⟨fun upper hu => by rw [hu], fun hn => by rw [hn]⟩

theorem takenHalf_none (h : ∀ c, p.notice.config = some c → a ≠ c.base + 4 ∧ a ≠ c.base + 6) : p.takenHalf a = none := by
  unfold Part.takenHalf
  cases hc : p.notice.config with
  | none => rfl
  | some c =>
    obtain ⟨h4, h6⟩ := h c hc
    dsimp only
    rw [if_neg h4, if_neg h6]

theorem takenHalf_some {c : JournalConfig} (h : p.notice.config = some c) :
    p.takenHalf (c.base + 4) = some false ∧ p.takenHalf (c.base + 6) = some true := by
  unfold Part.takenHalf
  rw [h]
  exact ⟨if_pos rfl, (if_neg (by omega)).trans (if_pos rfl)⟩

theorem writeRecords_open (h : p.touched a = [] ∨ p.watch.region.effective a = .openWrite) :
    p.writeRecords a = (p, true) := by
  unfold Part.writeRecords
  dsimp only
  by_cases hr : (p.touched a).isEmpty = true
  · exact if_pos hr
  · rw [if_neg hr]
    rcases h with h | h
    · rw [h] at hr; exact absurd rfl hr
    · rw [h]

end Decision

/-- Settles O47: the access granted at once, and the halfword's two bytes in memory. -/
theorem hostAccessesReadAndStore : Obligations.HostAccessesReadAndStore := by
  unfold Obligations.HostAccessesReadAndStore
  intro address d s wf hfree p at_ outside
  refine ⟨⟨_, congrArg _ (hostReads_free hfree), halfwordBytes_fieldValue _ _ _⟩, fun h => ?_⟩
  refine exec_hostWrite_performs wf hfree ?_
  show p.hostGranted.decideWrite s.order at_ _ = _
  by_cases hrun : p.engine = .running
  · rcases h with h | ⟨⟨ha, hboard, htaken⟩, hopen⟩
    · exact absurd hrun h
    · rw [(decideWrite_beyond (p := p.hostGranted) hrun ha hboard).2 (takenHalf_none htaken)]
      exact writeRecords_open (p := p.hostGranted) hopen
  · exact decideWrite_not_running hrun

/-! ### The journal's room (11.4) -/

section Journal
variable {n : Notice} {c : JournalConfig}

theorem canAccept_iff (h : n.config = some c) :
    n.canAccept = true ↔ (n.written - n.taken).toNat + n.accepted.length < c.size ∧ n.accepted.length < 16 := by
  unfold Notice.canAccept
  rw [h]
  dsimp only
  rw [Bool.and_eq_true, decide_eq_true_iff, decide_eq_true_iff]
  exact Iff.rfl

theorem handOver_accepted (h : n.config = some c) (e : JournalEntry) (hroom : n.canAccept = true) :
    n.handOver e = { n with accepted := n.accepted ++ [e] } := by
  unfold Notice.handOver
  rw [h]
  exact if_pos hroom

theorem handOver_unwritten (h : n.config = some c) (e : JournalEntry) (hroom : ¬n.canAccept = true) :
    n.handOver e = { n with unwritten := min (n.unwritten + 1) (2 ^ 32 - 1), overflow := true } := by
  unfold Notice.handOver
  rw [h]
  exact if_neg hroom

theorem acceptGap_made (stamp : Stamp) (h : 0 < n.unwritten) (hroom : n.canAccept = true) :
    n.acceptGap stamp = { n with
      accepted := n.accepted ++ [{ event := .gap n.unwritten, stamp := stamp }], unwritten := 0, overflow := false } := by
  unfold Notice.acceptGap
  exact if_pos (by rw [hroom, decide_eq_true h]; rfl)

theorem acceptGap_none (stamp : Stamp) (h : ¬(0 < n.unwritten ∧ n.canAccept = true)) : n.acceptGap stamp = n := by
  unfold Notice.acceptGap
  refine if_neg fun hc => h ?_
  simpa using hc

end Journal

/-! ### The taken-count word (12.5) -/

/-- A word put together from its upper and its lower half. -/
theorem halves_toNat (upper lower : Halfword) : (upper ++ lower : Word).toNat = 65536 * upper.toNat + lower.toNat := by
  rw [BitVec.toNat_append, ← Nat.shiftLeft_add_eq_or_of_lt lower.isLt, Nat.shiftLeft_eq]
  omega

/-- A word of which two bytes come from a halfword. -/
theorem word_of_halves (upper lower : Halfword) (x : Nat) (h : x = 65536 * upper.toNat + lower.toNat) :
    (BitVec.ofNat 32 x : Word) = upper ++ lower := by
  have hu := upper.isLt
  have hl := lower.isLt
  apply BitVec.eq_of_toNat_eq
  rw [halves_toNat, BitVec.toNat_ofNat]
  omega

/-- The half of the taken-count word at its lower address, merged into the copy (R161). -/
theorem mergeTaken_lower (order : ByteOrder) (copy : Word) (d : Halfword) :
    mergeTaken order copy false (fieldBytes order 2 d.toNat) = match order with
      | .leastFirst => copy.extractLsb' 16 16 ++ d
      | .mostFirst => d ++ copy.extractLsb' 0 16 := by
  have hc := copy.isLt
  have hd := d.isLt
  unfold mergeTaken
  cases order <;> refine word_of_halves _ _ _ ?_ <;>
    simp [fieldBytes, fieldValue, leastFirstBytes, leastFirstValue, Nat.shiftRight_eq_div_pow] <;> omega

/-- The half at its upper address. -/
theorem mergeTaken_upper (order : ByteOrder) (copy : Word) (d : Halfword) :
    mergeTaken order copy true (fieldBytes order 2 d.toNat) = match order with
      | .leastFirst => d ++ copy.extractLsb' 0 16
      | .mostFirst => copy.extractLsb' 16 16 ++ d := by
  have hc := copy.isLt
  have hd := d.isLt
  unfold mergeTaken
  cases order <;> refine word_of_halves _ _ _ ?_ <;>
    simp [fieldBytes, fieldValue, leastFirstBytes, leastFirstValue, Nat.shiftRight_eq_div_pow] <;> omega

/-- The notice unit with the taken count that the host's copy gives it (R184). -/
def Notice.withTaken (n : Notice) (value : Word) : Notice := { n with taken :=
  if (value - n.taken).toNat ≤ (n.written - n.taken).toNat then value
  else if 2 ^ 31 ≤ (value - n.taken).toNat then n.taken
  else n.written }

/-- The part after the host's copy of the taken-count word has changed. -/
def Part.takenMoved (p : Part) (value : Word) : Part :=
  { p with watch := { p.watch with takenCopy := value }, notice := (p.notice.withTaken value).acceptGap p.stamp }

theorem takenUpdate_moved (p : Part) (value : Word) :
    ({ p with watch := { p.watch with takenCopy := value } } : Part).takenUpdate value = p.takenMoved value := rfl

/-- A half of the taken-count word written by the host. -/
theorem decided_taken {s : State} {address : BitVec 17} {d : Halfword} {upper : Bool} (hrun : s.part.engine = .running)
    (ha : 0x200 ≤ 2 * address.toNat)
    (hboard : 2 * address.toNat < s.part.layout.cueBoard ∨ s.part.layout.cueBoard + 1024 ≤ 2 * address.toNat)
    (ht : s.part.takenHalf (2 * address.toNat) = some upper) :
    s.decided address d = (s.part.hostGranted.takenMoved
      (mergeTaken s.order s.part.watch.takenCopy upper (fieldBytes s.order 2 d.toNat)), true) :=
  (decideWrite_beyond (p := s.part.hostGranted) hrun ha hboard).1 upper ht

/-- Settles O60: the room's two conditions, and the Gap that the moved taken count lets in. -/
theorem journalRoomFollowsTheCounts : Obligations.JournalRoomFollowsTheCounts := by
  unfold Obligations.JournalRoomFollowsTheCounts
  intro address d s c event wf hc p n room copy lower upper moved gap written
  refine ⟨fun hroom => handOver_accepted hc _ ((canAccept_iff hc).mpr hroom),
    fun hroom => handOver_unwritten hc _ fun h => hroom ((canAccept_iff hc).mp h), fun hfree hrun ha hboard => ?_⟩
  have stored : ∀ value, s.decided address d = (p.hostGranted.takenMoved value, true) → written value := by
    intro value hd
    obtain ⟨m, hexec, hm⟩ := exec_hostWrite_performs wf hfree hd
    have hcan : (n.withTaken value).canAccept = true ↔ room (moved value) := canAccept_iff (n := n.withTaken value) hc
    refine ⟨m, hm, fun hgap => hexec.trans ?_, fun hgap => hexec.trans ?_⟩
    · have hmade := acceptGap_made (n := n.withTaken value) p.stamp hgap.1 (hcan.mpr hgap.2)
      unfold Part.takenMoved
      rw [show (p.hostGranted.notice.withTaken value).acceptGap p.hostGranted.stamp = _ from hmade]
      rfl
    · have hnone := acceptGap_none (n := n.withTaken value) p.stamp fun h => hgap ⟨h.1, hcan.mp h.2⟩
      unfold Part.takenMoved
      rw [show (p.hostGranted.notice.withTaken value).acceptGap p.hostGranted.stamp = _ from hnone]
      rfl
  have merged : ∀ {upper : Bool} {value : Word}, p.takenHalf (2 * address.toNat) = some upper →
      mergeTaken s.order copy upper (fieldBytes s.order 2 d.toNat) = value → written value := fun ht hv =>
    stored _ ((decided_taken hrun ha hboard ht).trans (congrArg (fun v => (p.hostGranted.takenMoved v, true)) hv))
  exact ⟨fun hat => merged (by rw [hat]; exact (takenHalf_some hc).1) (mergeTaken_lower s.order copy d),
    fun hat => merged (by rw [hat]; exact (takenHalf_some hc).2) (mergeTaken_upper s.order copy d)⟩

end Sys2Proof.Machine
end

section
/-! PROOFS. Engine grants, and the last words of a result and of a journal entry (10.6, 9.6, 11.4). -/

namespace Sys2Proof.Machine

/-! ### Which access is granted (R170) -/

section Granted
variable {p : Part} {requester : Requester} {access : EngineAccess}

theorem nextGrant_first (h : p.accessOf p.arbiter.rotation = some access) :
    p.nextGrant = some (p.arbiter.rotation, access) := by
  unfold Part.nextGrant
  dsimp only
  rw [h]

theorem nextGrant_second (h1 : p.accessOf p.arbiter.rotation = none) (h : p.accessOf p.arbiter.rotation.next = some access) :
    p.nextGrant = some (p.arbiter.rotation.next, access) := by
  unfold Part.nextGrant
  dsimp only
  rw [h1, h]

theorem nextGrant_third (h1 : p.accessOf p.arbiter.rotation = none) (h2 : p.accessOf p.arbiter.rotation.next = none)
    (h : p.accessOf p.arbiter.rotation.next.next = some access) :
    p.nextGrant = some (p.arbiter.rotation.next.next, access) := by
  unfold Part.nextGrant
  dsimp only
  rw [h1, h2, h]
  rfl

theorem nextGrant_nobody (h1 : p.accessOf p.arbiter.rotation = none) (h2 : p.accessOf p.arbiter.rotation.next = none)
    (h3 : p.accessOf p.arbiter.rotation.next.next = none) : p.nextGrant = none := by
  unfold Part.nextGrant
  dsimp only
  rw [h1, h2, h3]
  rfl

end Granted

/-! ### The access carried out -/

section Access
variable {s : State} {p : Part} {access : EngineAccess} {order : ByteOrder}

theorem directoryWord_arbiter (order : ByteOrder) (read word : List Byte) :
    (p.directoryWord order read word).arbiter = p.arbiter := by
  unfold Part.directoryWord
  split
  · rfl
  · unfold Part.directoryDone
    split <;> rfl

theorem countWritten_arbiter (c : JournalConfig) : (p.countWritten c).arbiter = p.arbiter := by
  unfold Part.countWritten
  dsimp only
  split <;> rfl

theorem accessEffect_arbiter (order : ByteOrder) (word : List Byte) (access : EngineAccess) :
    (p.accessEffect order word access).arbiter = p.arbiter := by
  have of_outer : ∀ {q r : Part}, q.outer = r.outer → q.arbiter = r.arbiter := fun h => congrArg Outer.arbiter h
  cases access with
  | takeWord t => exact of_outer (p.takeWord_outer order t word)
  | slotWord item w rest => exact of_outer (p.slotWritten_outer item rest)
  | remapWord a read address => exact of_outer (p.remapWord_outer order a read word)
  | directoryWord read => exact directoryWord_arbiter order read word
  | shadowWord turn f => exact of_outer (((p.passTurn turn).shadowWord_outer order f word).trans (p.passTurn_outer turn))
  | clickWord turn sound f =>
    exact of_outer (((p.passTurn turn).clickWord_outer order sound f word).trans (p.passTurn_outer turn))
  | headWord c => rfl
  | entryWord c entry => rfl
  | countWord c => exact countWritten_arbiter c

theorem drainTest_arbiter (p : Part) : p.drainTest.arbiter = p.arbiter := by rw [Part.drainTest_rest]

/-- An access writes at most a word. -/
theorem accessWrites_length {bytes : List Byte} (h : p.accessWrites order access = some bytes) : bytes.length ≤ 4 := by
  cases access with
  | takeWord _ | remapWord _ _ _ | directoryWord _ | shadowWord _ _ | clickWord _ _ _ => nomatch h
  | slotWord item word rest =>
    obtain rfl := Option.some.inj h
    exact (word.bytes_length order).le
  | headWord c | countWord c =>
    obtain rfl := Option.some.inj h
    exact (fieldBytes_length _ _ _).le
  | entryWord c entry =>
    obtain rfl := Option.some.inj h
    exact List.length_take_le _ _

/-- The state after a grant: the part's own step, and the access's bytes in memory. -/
theorem engineGrant_parts {requester : Requester} (h : s.part.nextGrant = some (requester, access)) :
    s.engineGrant = { s with
      part := ((s.part.markGrant requester).accessEffect s.order
        (s.mem.readWord ((s.part.markGrant requester).accessAddress access)) access).drainTest
      mem := match (s.part.markGrant requester).accessWrites s.order access with
        | none => s.mem
        | some bytes => s.mem.writeBytes ((s.part.markGrant requester).accessAddress access) bytes } := by
  rw [engineGrant_of_next h]
  rfl

theorem markGrant_address (r : Requester) (access : EngineAccess) :
    (p.markGrant r).accessAddress access = p.accessAddress access := by cases access <;> rfl

theorem markGrant_writes (r : Requester) (order : ByteOrder) (access : EngineAccess) :
    (p.markGrant r).accessWrites order access = p.accessWrites order access := by cases access <;> rfl

/-- A granted access that writes: its bytes in memory, and the part acts. -/
theorem engineGrant_writes {requester : Requester} {bytes : List Byte} (h : s.part.nextGrant = some (requester, access))
    (hw : s.part.accessWrites s.order access = some bytes) :
    s.engineGrant = { s with
      part := ((s.part.markGrant requester).accessEffect s.order (s.mem.readWord (s.part.accessAddress access)) access).drainTest
      mem := s.mem.writeBytes (s.part.accessAddress access) bytes } := by
  rw [engineGrant_parts h, markGrant_address, markGrant_writes, hw]

/-- A granted access keeps every byte outside its word. -/
theorem engineGrant_read_other {requester : Requester} (h : s.part.nextGrant = some (requester, access)) (x : Nat)
    (hx : ∀ k, k < 4 → x % Config.ramBytes ≠ (s.part.accessAddress access + k) % Config.ramBytes) :
    s.engineGrant.mem.read x = s.mem.read x := by
  rw [engineGrant_parts h]
  dsimp only
  rw [markGrant_address, markGrant_writes]
  cases hw : s.part.accessWrites s.order access with
  | none => rfl
  | some bytes => exact Memory.read_writeBytes_of_ne fun k hk => hx k (hk.trans_le (accessWrites_length hw))

theorem engineGrant_mem_read {requester : Requester} (h : s.part.nextGrant = some (requester, access))
    (hw : s.part.accessWrites s.order access = none) : s.engineGrant.mem = s.mem := by
  rw [engineGrant_parts h]
  dsimp only
  rw [markGrant_writes, hw]

theorem engineGrant_arbiter {requester : Requester} (h : s.part.nextGrant = some (requester, access)) :
    s.engineGrant.part.arbiter = (s.part.engineGranted requester).arbiter := by
  rw [engineGrant_parts h]
  exact (drainTest_arbiter _).trans (accessEffect_arbiter _ _ _)

/-- A grant changes the part and memory alone. -/
theorem engineGrant_eta (s : State) : s.engineGrant = { s with part := s.engineGrant.part, mem := s.engineGrant.mem } := by
  obtain ⟨h1, h2, h3, h4⟩ := engineGrant_keeps s
  generalize s.engineGrant = t at *
  cases t
  cases h1; cases h2; cases h3; cases h4
  rfl

end Access

/-! ### Whole accesses -/

section Whole
variable {s : State} {p : Part} {c : JournalConfig}

theorem directoryWord_more {order : ByteOrder} {read word : List Byte} (h : (read ++ word).length < 512) :
    p.directoryWord order read word = { p with starting := .reading (read ++ word) } := by
  unfold Part.directoryWord
  exact if_pos h

theorem noticeAccess_head (hc : p.notice.config = some c) (h : p.notice.headPending = true) :
    p.accessOf .noticeUnit = some (.headWord c) := by
  show p.noticeAccess = _
  unfold Part.noticeAccess
  rw [hc]
  exact if_pos h

theorem noticeAccess_entry {e : JournalEntry} {rest : List JournalEntry} (hc : p.notice.config = some c)
    (h : p.notice.headPending = false) (ha : p.notice.accepted = e :: rest) :
    p.accessOf .noticeUnit = some (if p.notice.wordsDone < 4 then .entryWord c e else .countWord c) := by
  show p.noticeAccess = _
  unfold Part.noticeAccess
  rw [hc, h, ha]
  by_cases hw : p.notice.wordsDone < 4 <;> simp [hw]

theorem cueAccess_slot {item : WriteItem} {word : SlotWord} {more : List SlotWord} {rest : List WriteItem}
    (ht : p.cues.take = none) (hw : p.cues.writes = item :: rest) (hi : item.words = word :: more) :
    p.accessOf .cueUnit = some (.slotWord item word more) := by
  show p.cueAccess = _
  unfold Part.cueAccess
  rw [ht, hw]
  dsimp only
  rw [hi]

/-- A host access past the run limit comes after the engine's grant. -/
theorem host_after_grant (hwait : ¬s.hostFree) (hlimit : 0 < s.part.arbiter.hostRunLimit) :
    s.giveWay = s.engineGrant.giveWay := by
  have hgive : s.giveWay = s.engineGrant := if_neg hwait
  cases hn : s.part.nextGrant with
  | none =>
    have hself : s.engineGrant = s := by unfold State.engineGrant; rw [hn]
    rw [hself]
  | some granted =>
    obtain ⟨requester, access⟩ := granted
    have harb := engineGrant_arbiter hn
    rw [giveWay_of_hostFree s.engineGrant, hgive]
    rw [harb]
    exact hlimit

end Whole

/-- Settles O52: the grant by its place in the rotation, and the three whole accesses. -/
theorem engineGrantsTakeTurns : Obligations.EngineGrantsTakeTurns := by
  unfold Obligations.EngineGrantsTakeTurns
  intro s address d p first
  refine ⟨fun h1 h2 h3 => ?_, fun r a ha hr => ?_, fun hwait hlimit t ht => ?_, fun read hst hread hlen hfirst => ?_,
    fun c hrun hc hfirst => ?_⟩
  · refine congrArg _ (?_ : s.engineGrant = s)
    unfold State.engineGrant
    rw [nextGrant_nobody h1 h2 h3]
  · have hnext : p.nextGrant = some (r, a) := by
      rcases hr with rfl | ⟨h1, rfl | ⟨h2, rfl⟩⟩
      · exact nextGrant_first ha
      · exact nextGrant_second h1 ha
      · exact nextGrant_third h1 h2 ha
    exact ⟨_, _, congrArg _ (engineGrant_eta s), engineGrant_arbiter hnext, engineGrant_mem_read hnext,
      fun x hx => engineGrant_read_other hnext x hx⟩
  · obtain rfl : s.engineGrant = t := Host.Outcome.next.inj ht
    have hgive := host_after_grant hwait hlimit
    refine ⟨congrArg Host.Outcome.next ?_, congrArg Host.Outcome.next ?_⟩
    · unfold State.hostReads
      rw [hgive]
    · unfold State.hostWrites
      rw [hgive]
  · have hacc : p.accessOf p.arbiter.rotation = some (.directoryWord read) := by
      rw [show p.arbiter.rotation = .sceneLoader from hfirst]
      show p.loaderAccess = _
      unfold Part.loaderAccess
      rw [hread]
    have hnext := nextGrant_first hacc
    rw [show p.arbiter.rotation = .sceneLoader from hfirst] at hnext
    refine congrArg _ ((engineGrant_of_next hnext).trans (carryOut_read rfl ?_))
    have hword : (s.mem.readWord read.length).length = 4 := rfl
    show ((p.markGrant .sceneLoader).directoryWord s.order read (s.mem.readWord read.length)).drainTest = _
    rw [directoryWord_more (by rw [List.length_append, hword]; exact hlen)]
    exact drainTest_of_not_stopping (by
      show p.engine ≠ .stopping
      rw [hst]; decide)
  · intro noted zeroed wordMore
    refine ⟨fun hp => ?_, fun e rest hp hacc hw => ?_⟩
    · have hnext := nextGrant_first (p := p) (access := .headWord c)
        (by rw [show p.arbiter.rotation = .noticeUnit from hfirst]; exact noticeAccess_head hc hp)
      rw [show p.arbiter.rotation = .noticeUnit from hfirst] at hnext
      have hgrant := engineGrant_writes hnext (bytes := [0, 0, 0, 0]) (by
        show some (fieldBytes s.order 4 0) = _
        cases s.order <;> rfl)
      refine congrArg _ (hgrant.trans ?_)
      rw [drainTest_of_not_stopping]
      · rfl
      · show p.engine ≠ .stopping
        rw [hrun]; decide
    · have hnext := nextGrant_first (p := p) (access := .entryWord c e) (by
        rw [show p.arbiter.rotation = .noticeUnit from hfirst, noticeAccess_entry hc hp hacc, if_pos hw])
      rw [show p.arbiter.rotation = .noticeUnit from hfirst] at hnext
      refine congrArg _ ((engineGrant_writes hnext rfl).trans ?_)
      rw [drainTest_of_not_stopping]
      · rfl
      · show p.engine ≠ .stopping
        rw [hrun]; decide

/-! ### The words that end a result and a journal entry (R148, R183) -/

section Ends
variable {s : State} {p : Part}

theorem slotWritten_last (item : WriteItem) (h : item.result = true) :
    p.slotWritten item [] = { p with
      cues := { p.cues with writes := p.cues.writes.tail }
      irq := { p.irq with status := if item.notice then p.irq.status ||| 2 else p.irq.status } } := by
  unfold Part.slotWritten
  dsimp only
  rw [h]
  cases item.notice <;> rfl

/-- The bytes of a word in the strap's order. -/
def wordBytes (order : ByteOrder) (n : Word) : List Byte :=
  let b := [n.setWidth 8, (n >>> 8).setWidth 8, (n >>> 16).setWidth 8, (n >>> 24).setWidth 8]
  match order with | .leastFirst => b | .mostFirst => b.reverse

theorem byte_of_word (n : Word) (k : Nat) : BitVec.ofNat 8 (n.toNat / 2 ^ k) = (n >>> k).setWidth 8 := by
  apply BitVec.eq_of_toNat_eq
  rw [BitVec.toNat_ofNat, BitVec.toNat_setWidth, BitVec.toNat_ushiftRight, Nat.shiftRight_eq_div_pow]

theorem fieldBytes_word (order : ByteOrder) (n : Word) : fieldBytes order 4 n.toNat = wordBytes order n := by
  have h0 : BitVec.ofNat 8 n.toNat = n.setWidth 8 := (BitVec.ofNat_toNat 8 n)
  have h8 : BitVec.ofNat 8 (n.toNat / 256) = _ := byte_of_word n 8
  have h16 : BitVec.ofNat 8 (n.toNat / (256 * 256)) = _ := byte_of_word n 16
  have h24 : BitVec.ofNat 8 (n.toNat / (256 * 256 * 256)) = _ := byte_of_word n 24
  have hbytes : leastFirstBytes 4 n.toNat =
      [n.setWidth 8, (n >>> 8).setWidth 8, (n >>> 16).setWidth 8, (n >>> 24).setWidth 8] := by
    simp only [leastFirstBytes, Nat.div_div_eq_div_mul]
    rw [h0, h8, h16, h24]
  cases order with
  | leastFirst => exact hbytes
  | mostFirst => exact congrArg List.reverse hbytes

end Ends

/-- The part once the written-count word of an entry is written (R183). -/
def Part.counts (p : Part) (threshold : Nat) (left : Notice) (n : Notice) : Part := { p.engineGranted .noticeUnit with
  notice := n
  irq := { p.irq with status := if threshold ≤ (left.written - left.taken).toNat then p.irq.status ||| 1 else p.irq.status } }

/-- The notice unit behind the last word of its oldest entry. -/
def Notice.entryDone (n : Notice) : Notice :=
  { n with written := n.written + 1, accepted := n.accepted.tail, wordsDone := 0 }

theorem countWritten_counts (p : Part) (c : JournalConfig) :
    (p.markGrant .noticeUnit).countWritten c =
      p.counts c.threshold p.notice.entryDone (p.notice.entryDone.acceptGap p.stamp) := by
  unfold Part.counts
  by_cases h : c.threshold ≤ (p.notice.entryDone.written - p.notice.entryDone.taken).toNat
  · rw [if_pos h]
    exact if_pos h
  · rw [if_neg h]
    exact if_neg h

/-- Settles O59: the last word of each, its cause raised, and the drain's test behind it. -/
theorem finishedWritesAreReported : Obligations.FinishedWritesAreReported := by
  unfold Obligations.FinishedWritesAreReported
  intro s p number
  refine ⟨fun item rest state hfirst ht hw hwords hres => ?_,
    fun c e rest hfirst hc hp hacc hdone => ?_⟩
  · have hnext := nextGrant_first (p := p) (access := .slotWord item (.state state) []) (by
      rw [hfirst]; exact cueAccess_slot ht hw hwords)
    rw [hfirst] at hnext
    have hexec : s.grantIf endsResult = s.engineGrant :=
      (grantIf_of_next hnext (by show (item.result && true) = true; rw [hres]; rfl)).trans (engineGrant_of_next hnext).symm
    refine ⟨_, congrArg _ (hexec.trans (engineGrant_writes hnext rfl)), ?_⟩
    have hlast := slotWritten_last (p := p.markGrant .cueUnit) item hres
    rw [show (p.markGrant .cueUnit).cues.writes = item :: rest from hw] at hlast
    have hdrain := drainTest_drains ((p.markGrant .cueUnit).slotWritten item [])
    rw [hlast] at hdrain
    show Part.drains _ ((p.markGrant .cueUnit).slotWritten item []).drainTest
    rw [hlast]
    exact hdrain
  · intro left fill gap room told
    have hnext := nextGrant_first (p := p) (access := .countWord c) (by
      rw [hfirst, noticeAccess_entry hc hp hacc, if_neg (by omega)])
    rw [hfirst] at hnext
    have hexec : s.grantIf endsEntry = s.engineGrant := (grantIf_of_next hnext rfl).trans (engineGrant_of_next hnext).symm
    have hgrant := engineGrant_writes (s := s) hnext (bytes := number (p.notice.written + 1))
      (congrArg some (fieldBytes_word s.order (p.notice.written + 1)))
    refine ⟨_, congrArg _ (hexec.trans hgrant), ?_⟩
    have hleft : p.notice.entryDone = left := by
      show ({ p.notice with written := p.notice.written + 1, accepted := p.notice.accepted.tail, wordsDone := 0 } : Notice) = _
      rw [hacc]
      rfl
    have hdrain := drainTest_drains ((p.markGrant .noticeUnit).countWritten c)
    rw [countWritten_counts, hleft] at hdrain
    show (_ → Part.drains _ ((p.markGrant .noticeUnit).countWritten c).drainTest) ∧
      (_ → Part.drains _ ((p.markGrant .noticeUnit).countWritten c).drainTest)
    rw [countWritten_counts, hleft]
    have hcan : left.canAccept = true ↔ room := canAccept_iff (n := left) hc
    refine ⟨fun hgap => ?_, fun hgap => ?_⟩
    · rw [acceptGap_made p.stamp hgap.1 (hcan.mpr hgap.2)] at hdrain ⊢
      exact hdrain
    · rw [acceptGap_none p.stamp fun h => hgap ⟨h.1, hcan.mp h.2⟩] at hdrain ⊢
      exact hdrain

end Sys2Proof.Machine
end

section
/-! PROOFS. Host writes into the cue board: posting, withdrawing, refusing (9.2, 9.6). -/

namespace Sys2Proof.Machine

/-! ### The write list and the stamp -/

theorem queueWrite_fresh (item : WriteItem) : ∀ l : List WriteItem, (∀ w ∈ l, w.slot ≠ item.slot) →
    queueWrite item l = l ++ [item]
  | [], _ => rfl
  | w :: rest, h => by
    unfold queueWrite
    rw [if_neg fun hc => h w (by simp) hc.1, queueWrite_fresh item rest fun x hx => h x (by simp [hx])]
    rfl

theorem stamp_of_aside {p q : Part} (h : q.aside = p.aside) : q.stamp = p.stamp := by
  have ht : q.timeline = p.timeline := congrArg Aside.timeline h
  have hp : q.pointer = p.pointer := congrArg Aside.pointer h
  unfold Part.stamp
  rw [ht, hp]

/-- A result of Withdrawn as it stands in the write list (R148, R150, R151). -/
def withdrawnItem (stamp : Stamp) (slot : Fin 32) (notify : Bool) : WriteItem where
  slot := slot
  words := [.position stamp, .positionEnd stamp, .frameCount stamp, .state .withdrawn]
  result := true
  notice := notify

theorem queueWithdrawn_fresh (p : Part) (slot : Fin 32) (notify : Bool) (h : ∀ w ∈ p.cues.writes, w.slot ≠ slot) :
    p.queueWithdrawn slot notify =
      { p with cues := { p.cues with writes := p.cues.writes ++ [withdrawnItem p.stamp slot notify] } } := by
  have hq := queueWrite_fresh (withdrawnItem p.stamp slot notify) p.cues.writes h
  unfold Part.queueWithdrawn Part.queueItem
  exact congrArg (fun l => ({ p with cues := { p.cues with writes := l } } : Part)) hq

/-! ### Withdrawing (R150, R151) -/

theorem withdrawPosted_eq (p : Part) (slot : Fin 32) (h : ∀ w ∈ p.cues.writes, w.slot ≠ slot) :
    p.withdrawPosted slot = { p with
      watch := { p.watch with owners := p.watch.owners.set slot .host }
      cues := { p.cues with
        posted := p.cues.posted.filter fun x => x != slot
        take := p.cues.take.filter fun t => t.slot != slot
        writes := p.cues.writes ++ [withdrawnItem p.stamp slot false] } } := by
  have htake : ((match ((p.dropPosted slot).setOwner slot .host).cues.take with
      | some t => if t.slot = slot then { (p.dropPosted slot).setOwner slot .host with
          cues := { ((p.dropPosted slot).setOwner slot .host).cues with take := none } } else (p.dropPosted slot).setOwner slot .host
      | none => (p.dropPosted slot).setOwner slot .host) : Part) = { (p.dropPosted slot).setOwner slot .host with
          cues := { ((p.dropPosted slot).setOwner slot .host).cues with
            take := p.cues.take.filter fun t => t.slot != slot } } := by
    have hsame : ((p.dropPosted slot).setOwner slot .host).cues.take = p.cues.take := rfl
    rw [hsame]
    cases ht : p.cues.take with
    | none =>
      show (p.dropPosted slot).setOwner slot .host = _
      rw [Option.filter_none, ← ht]
      rfl
    | some t =>
      dsimp only
      by_cases hs : t.slot = slot
      · rw [if_pos hs, Option.filter_some, if_neg (by simp [hs])]
      · rw [if_neg hs, Option.filter_some, if_pos (by simp [hs]), ← ht]
        rfl
  unfold Part.withdrawPosted
  dsimp only at htake ⊢
  refine (congrArg (Part.queueWithdrawn · slot false) htake).trans ?_
  exact queueWithdrawn_fresh _ slot false h

/-- A slot's cue out of the arm list and its slot host-owned (R144). -/
def Part.unarm (p : Part) (slot : Fin 32) : Part := (p.dropArm slot).setOwner slot .host

theorem withdrawArmed_of {p p1 : Part} {a : ArmedCue}
    (h : (if p.heldSlot = some a.slot then p.setHeld none else p) = p1) :
    p.withdrawArmed a =
      (if p1.ownedBy a.slot = true then (p1.unarm a.slot).freeShadow else p1.unarm a.slot).queueWithdrawn a.slot a.notify := by
  subst h
  rfl

theorem heldSlot_iff (p : Part) (slot : Fin 32) :
    p.heldSlot = some slot ↔ ∃ n, p.loader.held = some { cause := .cue slot, countdown := n } := by
  unfold Part.heldSlot
  constructor
  · intro h
    split at h
    · rename_i held; cases h; exact ⟨_, held⟩
    · cases h
  · rintro ⟨n, h⟩
    rw [h]

theorem ownedBy_iff (p : Part) (slot : Fin 32) : p.ownedBy slot = true ↔ p.loader.owner = some (.cue slot) :=
  beq_iff_eq

theorem armOf_split {p : Part} {ahead rest : List ArmedCue} {a : ArmedCue} (h : p.cues.arms = ahead ++ a :: rest)
    (hahead : ∀ b ∈ ahead, b.slot ≠ a.slot) : p.armOf a.slot = some a := by
  unfold Part.armOf
  rw [h, List.find?_append, List.find?_eq_none.mpr (by simpa using hahead)]
  simp

theorem armOf_none {p : Part} {slot : Fin 32} (h : ∀ a ∈ p.cues.arms, a.slot ≠ slot) : p.armOf slot = none :=
  List.find?_eq_none.mpr (by simpa using h)

/-! ### The decision on a write into the board (R136, R137, R152) -/

section Board
variable {p : Part} {slot : Fin 32}

theorem writeBoard_host (h : p.watch.owners[slot] = .host) (state : Option Nat) :
    p.writeBoard slot state = (if state = some 1 then p.post slot
      else if state = some 7 then p.journal (.withdrawLate slot) else p, true) := by
  unfold Part.writeBoard Part.ownerOf
  rw [h]
  dsimp only
  by_cases h1 : state = some 1
  · rw [if_pos h1]; exact if_pos h1
  · rw [if_neg h1]
    refine (if_neg h1).trans ?_
    by_cases h7 : state = some 7
    · rw [if_pos h7]; exact if_pos h7
    · rw [if_neg h7]; exact if_neg h7

theorem writeBoard_engine (h : p.watch.owners[slot] ≠ .host) (state : Option Nat) :
    p.writeBoard slot state = (if state = some 7 then p.withdraw slot else p.raise .guard, false) := by
  unfold Part.writeBoard Part.ownerOf
  cases ho : p.watch.owners[slot] with
  | host => exact absurd ho h
  | engine e =>
    dsimp only
    by_cases h7 : state = some 7
    · rw [if_pos h7]; exact if_pos h7
    · rw [if_neg h7]; exact if_neg h7

end Board

/-- The state byte that a write at an offset of a slot leaves there. -/
theorem boardState_eq (order : ByteOrder) (d : Halfword) (k n : Nat) (hn : n < 256) :
    (if k = 0 then some (numAt (fieldBytes order 2 d.toNat) 0) else none) = some n ↔
      k = 0 ∧ (halfwordBytes order d).1 = BitVec.ofNat 8 n := by
  have hnum : numAt (fieldBytes order 2 d.toNat) 0 = ((halfwordBytes order d).1).toNat := by
    rw [fieldBytes_halfword]; rfl
  rw [hnum]
  by_cases hk : k = 0
  · rw [if_pos hk]
    constructor
    · intro h
      refine ⟨hk, BitVec.eq_of_toNat_eq ?_⟩
      rw [BitVec.toNat_ofNat, Nat.mod_eq_of_lt hn]
      exact Option.some.inj h
    · rintro ⟨-, h⟩
      rw [h, BitVec.toNat_ofNat, Nat.mod_eq_of_lt hn]
  · rw [if_neg hk]
    exact ⟨fun h => (nomatch h), fun h => absurd h.1 hk⟩

/-- Settles O53: by the slot's owner, and for an engine-owned slot by whether its cue is armed. -/
theorem boardWritesPostAndWithdraw : Obligations.BoardWritesPostAndWithdraw := by
  unfold Obligations.BoardWritesPostAndWithdraw
  intro address d slot k s wf hfree hrun hk hplace hboard p state withdrawn posted late guard taking released unposted
  have hdecided : s.decided address d = p.hostGranted.writeBoard slot
      (if k = 0 then some (numAt (fieldBytes s.order 2 d.toNat) 0) else none) :=
    decideWrite_board (p := p.hostGranted) hrun (by omega) slot k hk hplace
  have hposts := boardState_eq s.order d k 1 (by omega)
  have hwithdraws := boardState_eq s.order d k 7 (by omega)
  generalize (if k = 0 then some (numAt (fieldBytes s.order 2 d.toNat) 0) else none) = byte at hdecided hposts hwithdraws
  refine ⟨fun hhost => ?_, fun howned => ⟨fun hno => ?_, fun hk0 h7 hfresh => ⟨fun harms => ?_, fun ahead a rest harms hslot hahead => ?_⟩⟩⟩
  · rw [writeBoard_host (p := p.hostGranted) hhost] at hdecided
    obtain ⟨m, hexec, hm⟩ := exec_hostWrite_performs wf hfree hdecided
    refine ⟨m, _, hm, ?_, hexec⟩
    by_cases h1 : k = 0 ∧ state = 1
    · rw [if_pos (hposts.mpr h1), if_pos h1]
      rfl
    · rw [if_neg fun h => h1 (hposts.mp h), if_neg h1]
      by_cases h7 : k = 0 ∧ state = 7
      · rw [if_pos (hwithdraws.mpr h7), if_pos h7]
        rfl
      · rw [if_neg fun h => h7 (hwithdraws.mp h), if_neg h7]
  · rw [writeBoard_engine (p := p.hostGranted) howned, if_neg fun h => hno (hwithdraws.mp h)] at hdecided
    exact exec_hostWrite_refused hfree hdecided
  · rw [writeBoard_engine (p := p.hostGranted) howned, if_pos (hwithdraws.mpr ⟨hk0, h7⟩)] at hdecided
    have hw : p.hostGranted.withdraw slot = unposted := by
      unfold Part.withdraw
      rw [show p.hostGranted.armOf slot = none from armOf_none (p := p) harms]
      exact withdrawPosted_eq p.hostGranted slot hfresh
    rw [hw] at hdecided
    exact exec_hostWrite_refused hfree hdecided
  · subst hslot
    rw [writeBoard_engine (p := p.hostGranted) howned, if_pos (hwithdraws.mpr ⟨hk0, h7⟩)] at hdecided
    have hw : p.hostGranted.withdraw a.slot = p.hostGranted.withdrawArmed a := by
      unfold Part.withdraw
      rw [show p.hostGranted.armOf a.slot = some a from armOf_split (p := p) harms hahead]
    rw [hw] at hdecided
    have hexec := exec_hostWrite_refused hfree hdecided
    intro unarmed withdraws ends
    have ended : ∀ held, (if p.hostGranted.heldSlot = some a.slot then p.hostGranted.setHeld none else p.hostGranted) =
        p.hostGranted.setHeld held → ends held := by
      intro held h
      have hgone := withdrawArmed_of h
      have hout : ∀ q : Part, q.aside = (unarmed held).aside → p.hostGranted.withdrawArmed a = q.queueWithdrawn a.slot a.notify →
          withdraws q := by
        intro q hq hgone
        have hcues : q.cues = (unarmed held).cues := congrArg Aside.cues hq
        have hstamp : q.stamp = p.stamp := (stamp_of_aside hq).trans rfl
        have hqueue := queueWithdrawn_fresh q a.slot a.notify (by rw [hcues]; exact hfresh)
        rw [hstamp, show q.cues.writes = p.cues.writes from (congrArg CueUnit.writes hcues).trans rfl] at hqueue
        refine hexec.trans (congrArg (fun y => Host.Outcome.next { s with part := y }) (hgone.trans hqueue))
      refine ⟨fun ho => ?_, fun ho => ?_⟩
      · rw [if_neg fun hc => ho ((ownedBy_iff (p.hostGranted.setHeld held) a.slot).mp hc)] at hgone
        exact hout (unarmed held) rfl hgone
      · rw [if_pos ((ownedBy_iff (p.hostGranted.setHeld held) a.slot).mpr ho)] at hgone
        exact ⟨_, freeShadow_frees (unarmed held), hout _ (Part.freeShadow_aside _) hgone⟩
    exact ⟨fun hheld => ended none (if_pos ((heldSlot_iff p.hostGranted a.slot).mpr hheld)),
      fun hheld => ended p.loader.held
        (if_neg fun hc => by obtain ⟨n, hn⟩ := (heldSlot_iff p.hostGranted a.slot).mp hc; exact hheld n hn)⟩

end Sys2Proof.Machine
end

section
/-! PROOFS. The end of a Remap's table read (9.4, 10.3). -/

namespace Sys2Proof.Machine

/-! ### The table as its bytes give it (R157) -/

section Table
variable {order : ByteOrder} {bytes : List Byte}

theorem kindOf_rank (n : Nat) (h : n ≤ 3) : ∃ kind, kindOf n = some kind ∧ kind.rank = n := by
  interval_cases n <;> exact ⟨_, rfl, rfl⟩

theorem kindOf_isSome_iff (n : Nat) : (kindOf n).isSome = true ↔ n ≤ 3 := by
  constructor
  · intro h
    by_contra hn
    obtain ⟨m, rfl⟩ : ∃ m, n = m + 4 := ⟨n - 4, by omega⟩
    exact nomatch (h : (none : Option RegionKind).isSome = true)
  · intro h
    obtain ⟨kind, hk, -⟩ := kindOf_rank n h
    rw [hk]; rfl

/-- The number that a policy code is (12.3). -/
def Policy.number : Policy → Nat
  | .normal => 0
  | .hold => 1
  | .freeze => 2

theorem policyOf_number (n : Nat) (h : n ≤ 2) : ∃ policy, policyOf n = some policy ∧ policy.number = n := by
  interval_cases n <;> exact ⟨_, rfl, rfl⟩

theorem policyOf_isSome_iff (n : Nat) : (policyOf n).isSome = true ↔ n ≤ 2 := by
  constructor
  · intro h
    by_contra hn
    obtain ⟨m, rfl⟩ : ∃ m, n = m + 3 := ⟨n - 3, by omega⟩
    exact nomatch (h : (none : Option Policy).isSome = true)
  · intro h
    obtain ⟨policy, hp, -⟩ := policyOf_number n h
    rw [hp]; rfl

/-- The fields of a window record are such that it fits and its kind names one (R157). -/
def windowFits (order : ByteOrder) (bytes : List Byte) (w : Nat) : Prop :=
  8 ≤ numAt bytes (16 + 8 * w + 4) ∧ numAt bytes (16 + 8 * w + 4) ≤ 18 ∧
    fieldAt order bytes (16 + 8 * w) 4 % 2 ^ numAt bytes (16 + 8 * w + 4) = 0 ∧ numAt bytes (16 + 8 * w + 5) ≤ 3

theorem parseWindow_isSome_iff (w : Nat) : (parseWindow order bytes w).isSome = true ↔ windowFits order bytes w := by
  unfold parseWindow windowFits
  dsimp only
  split
  · rename_i h
    rw [Option.isSome_map, kindOf_isSome_iff]
    tauto
  · rename_i h
    exact ⟨fun hc => (nomatch hc), fun hc => absurd ⟨hc.1, hc.2.1, hc.2.2.1⟩ h⟩

theorem parseWindow_of_fits (w : Nat) (h : windowFits order bytes w) : ∃ x, parseWindow order bytes w = some x ∧
    x.base = fieldAt order bytes (16 + 8 * w) 4 ∧ x.sizeLog = numAt bytes (16 + 8 * w + 4) ∧
    x.kind.rank = numAt bytes (16 + 8 * w + 5) := by
  obtain ⟨h1, h2, h3, h4⟩ := h
  obtain ⟨kind, hk, hr⟩ := kindOf_rank _ h4
  refine ⟨{ base := fieldAt order bytes (16 + 8 * w) 4, sizeLog := numAt bytes (16 + 8 * w + 4), kind := kind },
    ?_, rfl, rfl, hr⟩
  unfold parseWindow
  dsimp only
  rw [if_pos ⟨h1, h2, h3⟩, hk]
  rfl

theorem mem_allPages_iff (k : Nat) : k ∈ allPages ↔ k < 16 := by
  constructor
  · intro h
    simp only [allPages, List.mem_cons, List.not_mem_nil, or_false] at h
    omega
  · intro h
    interval_cases k <;> decide

/-- The validity of a table, read off its bytes. -/
theorem regionValid_iff : regionValid order bytes = true ↔ (∀ k, k < 16 → numAt bytes k ≤ 3) ∧ numAt bytes 48 ≤ 2 ∧
    ∀ w, w < 4 → windowEnabled bytes w = true → windowFits order bytes w := by
  have hpages : allPages.all (fun p => (kindOf (numAt bytes p)).isSome) = true ↔ ∀ k, k < 16 → numAt bytes k ≤ 3 := by
    simp only [List.all_eq_true, kindOf_isSome_iff, mem_allPages_iff]
  have hwindows : allWindows.all (fun w => !windowEnabled bytes w.val || (parseWindow order bytes w.val).isSome) = true ↔
      ∀ w, w < 4 → windowEnabled bytes w = true → windowFits order bytes w := by
    simp only [List.all_eq_true, Bool.or_eq_true, Bool.not_eq_true', ← Bool.not_eq_true, parseWindow_isSome_iff, ← imp_iff_not_or]
    exact ⟨fun h w hw => h ⟨w, hw⟩ (mem_allWindows _), fun h w _ => h w.val w.isLt⟩
  unfold regionValid
  rw [Bool.and_eq_true, Bool.and_eq_true, hpages, hwindows, policyOf_isSome_iff]
  tauto

/-- A table holds what its bytes give: pages, policy and windows by number (12.3). -/
def RegionTable.spells (r : RegionTable) (order : ByteOrder) (bytes : List Byte) : Prop :=
  (∀ k : Fin 16, (r.pages[k]).rank = numAt bytes k.val) ∧ r.policy.number = numAt bytes 48 ∧
    ∀ w : Fin 4, (windowEnabled bytes w.val = false → r.windows[w] = none) ∧
      (windowEnabled bytes w.val = true → ∃ x, r.windows[w] = some x ∧ x.base = fieldAt order bytes (16 + 8 * w.val) 4 ∧
        x.sizeLog = numAt bytes (16 + 8 * w.val + 4) ∧ x.kind.rank = numAt bytes (16 + 8 * w.val + 5))

theorem parseRegion_spells (h : regionValid order bytes = true) :
    ∃ r, parseRegion order bytes = some r ∧ r.spells order bytes := by
  obtain ⟨hpages, hpolicy, hwindows⟩ := regionValid_iff.mp h
  refine ⟨_, if_pos h, fun k => ?_, ?_, fun w => ⟨fun hw => ?_, fun hw => ?_⟩⟩
  · obtain ⟨kind, hk, hr⟩ := kindOf_rank _ (hpages k.val k.isLt)
    simp [hk, hr]
  · obtain ⟨policy, hp, hn⟩ := policyOf_number _ hpolicy
    simp [hp, hn]
  · simp [hw]
  · obtain ⟨x, hx, hfields⟩ := parseWindow_of_fits w.val (hwindows w.val w.isLt hw)
    exact ⟨x, by simp [hw, hx], hfields⟩

theorem parseRegion_none (h : ¬regionValid order bytes = true) : parseRegion order bytes = none := by
  unfold parseRegion
  exact if_neg h

end Table

/-! ### The last word of the read (R147) -/

section Read
variable {p : Part} {a : ArmedCue} {order : ByteOrder} {read word : List Byte}

theorem cueAccess_remap {place : Nat} (ht : p.cues.take = none) (hw : p.cues.writes = []) (ha : p.cues.arms = [a])
    (hcue : a.cue = .remap place) (hread : a.read = some read) : p.accessOf .cueUnit = some (.remapWord a read place) := by
  show p.cueAccess = _
  unfold Part.cueAccess Part.remapReading
  rw [ht, hw, ha]
  simp [hcue, hread]

theorem remapWord_bad (hlen : ¬(read ++ word).length < 64) (h : ¬regionValid order (read ++ word) = true) :
    p.remapWord order a read word = p.endCue a .badMap 0 := by
  unfold Part.remapWord
  dsimp only
  rw [if_neg hlen, parseRegion_none h]

theorem remapWord_good {table : RegionTable} (hlen : ¬(read ++ word).length < 64)
    (h : parseRegion order (read ++ word) = some table) :
    p.remapWord order a read word =
      (p.mapArm a.slot fun a => { a with read := none, table := some table }).setWorking a.slot false := by
  unfold Part.remapWord
  dsimp only
  rw [if_neg hlen, h]

end Read

/-- Settles O56: the table's validity read off its bytes, and the two ends of the read. -/
theorem remapReadChecksTheTable : Obligations.RemapReadChecksTheTable := by
  unfold Obligations.RemapReadChecksTheTable
  intro s a place read p bytes ended refused waits hrun hfirst htake hwrites harms hcue hread hlen bad good
    num enabled base code kind policy valid holds
  have hnext := nextGrant_first (p := p) (access := .remapWord a read place) (by
    rw [hfirst]; exact cueAccess_remap htake hwrites harms hcue hread)
  rw [hfirst] at hnext
  have hlong : ¬(read ++ s.mem.readWord (place + read.length)).length < 64 := by
    rw [List.length_append, hlen]
    exact Nat.lt_irrefl _
  have hvalid : valid ↔ regionValid s.order bytes = true := regionValid_iff.symm
  have ends : ∀ q : Part, q.engine = .running →
      (p.markGrant .cueUnit).remapWord s.order a read (s.mem.readWord (place + read.length)) = q →
      exec .remapReadComplete s = .next { s with part := q } := by
    intro q hq heffect
    refine congrArg _ ((grantIf_of_next hnext (by show (read.length == 60) = true; rw [hlen]; rfl)).trans (carryOut_read rfl ?_))
    refine (congrArg Part.drainTest heffect).trans (drainTest_of_not_stopping ?_)
    rw [hq]; decide
  refine ⟨fun hbad => ends bad hrun ?_, fun hgood => ?_⟩
  · rw [remapWord_bad hlong fun h => hbad (hvalid.mpr h)]
    unfold Part.endCue Part.dropArm
    rw [show (p.markGrant .cueUnit).cues.arms = [a] from harms]
    have hdrop : [a].filter (fun b => b.slot != a.slot) = [] := by simp
    rw [hdrop]
    unfold Part.queueResult Part.queueItem
    show ({ p.markGrant .cueUnit with
      watch := _, cues := { p.cues with arms := [], writes := queueWrite _ p.cues.writes } } : Part) = _
    rw [hwrites]
    rfl
  · obtain ⟨table, hparse, hspells⟩ := parseRegion_spells (hvalid.mp hgood)
    refine ⟨table, hspells, ends (good table) hrun ?_⟩
    rw [remapWord_good hlong hparse]
    have harms' : (p.markGrant .cueUnit).cues.arms = [a] := harms
    have hwrites' : (p.markGrant .cueUnit).cues.writes = [] := hwrites
    simp only [Part.setWorking, Part.mapArm, Part.setOwner, Part.queueState, Part.queueItem, harms', hwrites', List.map_cons,
      List.map_nil, if_true]
    rfl

end Sys2Proof.Machine
end

section
/-! PROOFS. Taking cues: the checks of a slot as read, arming, superseding, executing (9.3, 9.4). -/

namespace Sys2Proof.Machine

/-! ### The slot as read (R139, R140) -/

section Slot
variable {order : ByteOrder} {bytes : List Byte} {p : Part} {cue : Cue}

/-- A parameter of a cue of a kind is outside its range (R140). -/
def slotOutside (order : ByteOrder) (bytes : List Byte) (kind : Nat) : Prop :=
  (kind = 1 ∧ (127 < numAt bytes 8 ∨ 15 < numAt bytes 9)) ∨ (kind = 2 ∧ 15 < numAt bytes 8) ∨
    (kind = 3 ∧ (1 < numAt bytes 8 ∨ (numAt bytes 8 = 1 ∧ 1 < numAt bytes 9))) ∨ (kind = 4 ∧ 3 < numAt bytes 8) ∨
    (kind = 6 ∧ 1 < numAt bytes 8) ∨
    (kind = 7 ∧ (7 < numAt bytes 8 ∨ 127 < numAt bytes 9 ∨ 127 < numAt bytes 10 ∨ 127 < numAt bytes 11 ∨
      127 < numAt bytes 12)) ∨
    (kind = 8 ∧ (3 < numAt bytes 8 ∨ fieldAt order bytes 10 2 = 0 ∨ 2048 < fieldAt order bytes 10 2 ∨
      fieldAt order bytes 12 4 % 4 ≠ 0 ∨ 0x3FFFF < fieldAt order bytes 12 4 + 4 * ((fieldAt order bytes 10 2 + 1) / 2) - 1)) ∨
    (kind = 10 ∧ (fieldAt order bytes 12 4 % 4 ≠ 0 ∨ 0x3FFFF < fieldAt order bytes 12 4 + 63)) ∨
    (kind = 11 ∧ 1 < numAt bytes 8)

/-- The cues that a slot spells, by kind (R140, 12.4). -/
def slotSpells (order : ByteOrder) (bytes : List Byte) : List Cue := [
  .songLoad (numAt bytes 8) (numAt bytes 9) (flagAt bytes 10 0), .sectionJump (numAt bytes 8),
  if numAt bytes 8 = 0 then .vampSet else .vampRelease (numAt bytes 9 == 1),
  .transport ([TransportAction.start, .stop, .pause, .resume].getD (numAt bytes 8) .start),
  .tempoSet (fieldAt order bytes 8 2) (fieldAt order bytes 10 2) (flagAt bytes 12 0), .tapFollow (numAt bytes 8 == 1),
  .mixSet (Fin.ofNat 8 (numAt bytes 8))
    { downbeat := numAt bytes 9, beat := numAt bytes 10, sub := numAt bytes 11, countIn := numAt bytes 12 }
    (numAt bytes 13) (flagAt bytes 14 0),
  .clickSoundLoad (Fin.ofNat 4 (numAt bytes 8)) (fieldAt order bytes 12 4) (fieldAt order bytes 10 2), .sceneRefresh,
  .remap (fieldAt order bytes 12 4), .clockSelect (if numAt bytes 8 = 0 then .internal else .external)]

theorem mixSetOf_cases : (slotOutside order bytes 7 → mixSetOf bytes = none) ∧
    (¬slotOutside order bytes 7 → mixSetOf bytes = (slotSpells order bytes)[6]?) := by
  unfold slotOutside mixSetOf
  dsimp only
  refine ⟨fun h => ?_, fun h => ?_⟩
  · by_cases hl : numAt bytes 9 ≤ 127 ∧ numAt bytes 10 ≤ 127 ∧ numAt bytes 11 ≤ 127 ∧ numAt bytes 12 ≤ 127
    · rw [if_pos hl, dif_neg (by omega)]
    · exact if_neg hl
  · have hf : numAt bytes 8 < 8 := by omega
    rw [if_pos (by omega), dif_pos hf]
    have hof : Fin.ofNat 8 (numAt bytes 8) = ⟨numAt bytes 8, hf⟩ := Fin.ext (Nat.mod_eq_of_lt hf)
    rw [← hof]
    rfl

theorem clickLoadOf_cases : (slotOutside order bytes 8 → clickLoadOf order bytes = none) ∧
    (¬slotOutside order bytes 8 → clickLoadOf order bytes = (slotSpells order bytes)[7]?) := by
  have hplace : soundPlaceOk (fieldAt order bytes 12 4) (fieldAt order bytes 10 2) = true ↔
      fieldAt order bytes 12 4 % 4 = 0 ∧ fieldAt order bytes 12 4 + 4 * ((fieldAt order bytes 10 2 + 1) / 2) ≤ 262144 := by
    unfold soundPlaceOk
    rw [Bool.and_eq_true, fitsRam_iff, beq_iff_eq]
    exact Iff.rfl
  unfold slotOutside clickLoadOf
  dsimp only
  by_cases hl : 1 ≤ fieldAt order bytes 10 2 ∧ fieldAt order bytes 10 2 ≤ 2048 ∧
      soundPlaceOk (fieldAt order bytes 12 4) (fieldAt order bytes 10 2) = true
  · rw [if_pos hl]
    rw [hplace] at hl
    refine ⟨fun h => dif_neg (by omega), fun h => ?_⟩
    have hf : numAt bytes 8 < 4 := by omega
    have hof : Fin.ofNat 4 (numAt bytes 8) = ⟨numAt bytes 8, hf⟩ := Fin.ext (Nat.mod_eq_of_lt hf)
    rw [dif_pos hf, ← hof]
    rfl
  · refine ⟨fun _ => if_neg hl, fun h => absurd ?_ hl⟩
    rw [hplace]
    omega

theorem vampOf_cases : (slotOutside order bytes 3 → vampOf (numAt bytes 8) (numAt bytes 9) = none) ∧
    (¬slotOutside order bytes 3 → vampOf (numAt bytes 8) (numAt bytes 9) = (slotSpells order bytes)[2]?) := by
  unfold slotOutside slotSpells
  generalize numAt bytes 8 = first
  generalize numAt bytes 9 = second
  match first, second with
  | 0, _ => simp [vampOf]
  | 1, 0 => simp [vampOf]
  | 1, 1 => simp [vampOf]
  | 1, n + 2 => simp [vampOf]
  | n + 2, _ => simp [vampOf]

theorem transportOf_cases : (slotOutside order bytes 4 → (transportOf (numAt bytes 8)).map Cue.transport = none) ∧
    (¬slotOutside order bytes 4 → (transportOf (numAt bytes 8)).map Cue.transport = (slotSpells order bytes)[3]?) := by
  unfold slotOutside slotSpells
  generalize numAt bytes 8 = first
  match first with
  | 0 | 1 | 2 | 3 => simp [transportOf]
  | n + 4 => simp [transportOf]

theorem tapFollowOf_cases : (slotOutside order bytes 6 →
      (match numAt bytes 8 with | 0 => some (Cue.tapFollow false) | 1 => some (Cue.tapFollow true) | _ => none) = none) ∧
    (¬slotOutside order bytes 6 →
      (match numAt bytes 8 with | 0 => some (Cue.tapFollow false) | 1 => some (Cue.tapFollow true) | _ => none) =
        (slotSpells order bytes)[5]?) := by
  unfold slotOutside slotSpells
  generalize numAt bytes 8 = first
  match first with
  | 0 | 1 => simp
  | n + 2 => simp

theorem clockSelectOf_cases : (slotOutside order bytes 11 →
      (match numAt bytes 8 with
        | 0 => some (Cue.clockSelect .internal) | 1 => some (Cue.clockSelect .external) | _ => none) = none) ∧
    (¬slotOutside order bytes 11 →
      (match numAt bytes 8 with
        | 0 => some (Cue.clockSelect .internal) | 1 => some (Cue.clockSelect .external) | _ => none) =
        (slotSpells order bytes)[10]?) := by
  unfold slotOutside slotSpells
  generalize numAt bytes 8 = first
  match first with
  | 0 | 1 => simp
  | n + 2 => simp

theorem remapOf_cases : (slotOutside order bytes 10 → ¬(fieldAt order bytes 12 4 % 4 = 0 ∧ fitsRam (fieldAt order bytes 12 4) 64 = true)) ∧
    (¬slotOutside order bytes 10 → fieldAt order bytes 12 4 % 4 = 0 ∧ fitsRam (fieldAt order bytes 12 4) 64 = true) := by
  have hram : Config.ramBytes = 262144 := rfl
  rw [fitsRam_iff, hram]
  unfold slotOutside
  omega

/-- The cue of a kind: none where a parameter is outside its range, and otherwise the one that the slot spells. -/
theorem cueOf_cases (k : Nat) (hk : numAt bytes 4 = k) (h1 : 1 ≤ k) (h11 : k ≤ 11) :
    (slotOutside order bytes k → cueOf order bytes = none) ∧
    (¬slotOutside order bytes k → cueOf order bytes = (slotSpells order bytes)[k - 1]?) := by
  unfold cueOf
  dsimp only
  rw [hk]
  interval_cases k
  · exact ⟨fun h => if_neg (by unfold slotOutside at h; omega), fun h => if_pos (by unfold slotOutside at h; omega)⟩
  · exact ⟨fun h => if_neg (by unfold slotOutside at h; omega), fun h => if_pos (by unfold slotOutside at h; omega)⟩
  · exact vampOf_cases
  · exact transportOf_cases
  · exact ⟨fun h => by unfold slotOutside at h; omega, fun _ => rfl⟩
  · exact tapFollowOf_cases
  · exact mixSetOf_cases
  · exact clickLoadOf_cases
  · exact ⟨fun h => by unfold slotOutside at h; omega, fun _ => rfl⟩
  · exact ⟨fun h => if_neg (remapOf_cases.1 h), fun h => if_pos (remapOf_cases.2 h)⟩
  · exact clockSelectOf_cases

/-! ### The checks of the part's state and of the room (R141) -/

/-- The part's state refuses a cue of a kind (R141). -/
def Part.unready (p : Part) (kind first : Nat) : Prop :=
  (kind = 2 ∧ p.pointer.loaded = false) ∨ (kind = 3 ∧ p.timeline.clock = .idle) ∨
    (kind = 4 ∧ ((first = 0 ∧ p.timeline.clock ≠ .parked) ∨
      (first = 1 ∧ p.clockRuns = false ∧ p.timeline.clock ≠ .paused) ∨ (first = 2 ∧ p.clockRuns = false) ∨
      (first = 3 ∧ p.timeline.clock ≠ .paused))) ∨
    (kind = 9 ∧ ((p.loader.activeSong = none ∧ p.loader.activeScene = none) ∨ p.loader.owner ≠ none))

/-- A SectionJump's target is not in the song (R141). -/
def Part.targetAbsent (p : Part) (kind first : Nat) : Prop :=
  kind = 2 ∧ p.pointer.loaded = true ∧ p.sectionCount ≤ first

/-- The outcome of the state's check as a proposition for each of its results. -/
def Part.stateChecked (p : Part) (kind first : Nat) (cue : Cue) : Prop :=
  (p.unready kind first → p.stateRefusal cue = some .notReady) ∧
  (¬p.unready kind first → p.targetAbsent kind first → p.stateRefusal cue = some .badParam) ∧
  (¬p.unready kind first → ¬p.targetAbsent kind first → p.stateRefusal cue = none)

theorem stateChecked_never (kind first : Nat) (h : kind ≠ 2 ∧ kind ≠ 3 ∧ kind ≠ 4 ∧ kind ≠ 9)
    (hnone : p.stateRefusal cue = none) : p.stateChecked kind first cue := by
  unfold Part.stateChecked Part.unready Part.targetAbsent
  exact ⟨fun hc => by omega, fun _ hc => absurd hc.1 h.1, fun _ _ => hnone⟩

theorem stateChecked_jump (target : Nat) : p.stateChecked 2 target (.sectionJump target) := by
  unfold Part.stateChecked Part.unready Part.targetAbsent Part.stateRefusal
  cases p.pointer.loaded <;> by_cases h : p.sectionCount ≤ target <;> simp [h]

theorem stateChecked_vamp (first : Nat) (h : cue = .vampSet ∨ ∃ b, cue = .vampRelease b) : p.stateChecked 3 first cue := by
  have href : p.stateRefusal cue = if p.timeline.clock = .idle then some .notReady else none := by
    rcases h with rfl | ⟨b, rfl⟩ <;> rfl
  unfold Part.stateChecked Part.unready Part.targetAbsent
  rw [href]
  by_cases hc : p.timeline.clock = .idle <;> simp [hc]

theorem stateChecked_transport (first : Nat) (h : first ≤ 3) :
    p.stateChecked 4 first (.transport ([TransportAction.start, .stop, .pause, .resume].getD first .start)) := by
  unfold Part.stateChecked Part.unready Part.targetAbsent Part.stateRefusal Part.clockRuns
  interval_cases first <;> cases p.timeline.clock <;> simp [TransportAction.fits]

theorem stateChecked_refresh (first : Nat) : p.stateChecked 9 first .sceneRefresh := by
  unfold Part.stateChecked Part.unready Part.targetAbsent Part.stateRefusal
  cases p.loader.activeSong <;> cases p.loader.activeScene <;> cases p.loader.owner <;> simp

theorem stateChecked_spelled (k : Nat) (h1 : 1 ≤ k) (h11 : k ≤ 11) (hin : ¬slotOutside order bytes k)
    (hcue : (slotSpells order bytes)[k - 1]? = some cue) : p.stateChecked k (numAt bytes 8) cue := by
  interval_cases k <;> obtain rfl := Option.some.inj hcue
  -- the goals stand in the order of the kinds; the later ones go first, so that a number names its kind
  on_goal 9 => exact stateChecked_refresh _
  on_goal 4 => exact stateChecked_transport _ (by unfold slotOutside at hin; omega)
  on_goal 3 =>
    refine stateChecked_vamp _ ?_
    by_cases h0 : numAt bytes 8 = 0
    · exact .inl (if_pos h0)
    · exact .inr ⟨_, if_neg h0⟩
  on_goal 2 => exact stateChecked_jump _
  all_goals exact stateChecked_never _ _ (by omega) rfl

theorem spelled_sceneChanging (k : Nat) (h1 : 1 ≤ k) (h11 : k ≤ 11)
    (hcue : (slotSpells order bytes)[k - 1]? = some cue) : cue.sceneChanging = true ↔ k = 1 ∨ k = 2 := by
  interval_cases k <;> obtain rfl := Option.some.inj hcue
  on_goal 3 => by_cases h0 : numAt bytes 8 = 0 <;> simp [h0, Cue.sceneChanging]
  all_goals simp [Cue.sceneChanging]

theorem spelled_isRemap (k : Nat) (h1 : 1 ≤ k) (h11 : k ≤ 11)
    (hcue : (slotSpells order bytes)[k - 1]? = some cue) : cue.isRemap = decide (k = 10) := by
  interval_cases k <;> obtain rfl := Option.some.inj hcue
  on_goal 3 => by_cases h0 : numAt bytes 8 = 0 <;> simp [h0, Cue.isRemap]
  all_goals simp [Cue.isRemap]

/-- The arm list has no room for a cue, the one it would supersede not counted (R141). -/
def Part.armsFull (p : Part) (changing : Prop) : Prop :=
  8 ≤ p.cues.arms.length ∧
    (¬changing ∨ 8 < p.cues.arms.length ∨ ∀ b ∈ p.cues.arms, b.cue.sceneChanging = false)

theorem roomRefusal_cases (changing : Prop) (h : cue.sceneChanging = true ↔ changing) :
    (p.armsFull changing → p.roomRefusal cue = some .armFull) ∧ (¬p.armsFull changing → p.roomRefusal cue = none) := by
  have hsize : Config.armSize = 8 := rfl
  have hearlier : p.earlierChange.isSome = true ↔ ¬∀ b ∈ p.cues.arms, b.cue.sceneChanging = false := by
    unfold Part.earlierChange
    rw [List.find?_isSome]
    simp
  unfold Part.armsFull Part.roomRefusal
  dsimp only
  rw [hsize]
  by_cases hs : cue.sceneChanging = true ∧ p.earlierChange.isSome = true
  · have hlen : p.cues.arms ≠ [] := by
      intro hnil
      refine hearlier.mp hs.2 ?_
      rw [hnil]
      exact fun b hb => absurd hb (by simp)
    have hpos := List.length_pos_of_ne_nil hlen
    rw [hs.1, hs.2]
    have hc := h.mp hs.1
    have he := hearlier.mp hs.2
    simp only [Bool.and_self, if_true]
    refine ⟨fun hf => if_pos ?_, fun hf => if_neg ?_⟩
    · have : 8 < p.cues.arms.length := by tauto
      omega
    · have : ¬8 < p.cues.arms.length := by
        intro hlt; exact hf ⟨by omega, .inr (.inl hlt)⟩
      omega
  · have hb : ¬(cue.sceneChanging && p.earlierChange.isSome) = true := by rw [Bool.and_eq_true]; exact hs
    rw [if_neg hb]
    have hside : ¬changing ∨ ∀ b ∈ p.cues.arms, b.cue.sceneChanging = false := by
      by_contra hc
      rw [not_or, not_not] at hc
      exact hs ⟨h.mpr hc.1, hearlier.mpr hc.2⟩
    refine ⟨fun hf => if_pos (by have := hf.1; omega), fun hf => if_neg ?_⟩
    intro hlt
    exact hf ⟨by omega, hside.imp id .inr⟩

/-! ### The checks in their order -/

theorem kindRefusal_cases (k : Nat) : (k = 0 → kindRefusal k = some .blank) ∧ (1 ≤ k → k ≤ 11 → kindRefusal k = none) ∧
    (12 ≤ k → k ≤ 15 → kindRefusal k = some .reserved) ∧ (16 ≤ k → kindRefusal k = some .unknown) := by
  unfold kindRefusal
  refine ⟨fun h => if_pos h, fun h1 h2 => ?_, fun h1 h2 => ?_, fun h => ?_⟩
  · rw [if_neg (by omega), if_pos h2]
  · rw [if_neg (by omega), if_neg (by omega), if_pos h2]
  · rw [if_neg (by omega), if_neg (by omega), if_neg (by omega)]

theorem boundaryOf_eq (n : Nat) : boundaryOf n = [Boundary.now, .beat, .bar, .newSection][n]? := by
  match n with
  | 0 | 1 | 2 | 3 => rfl
  | n + 4 => rfl

theorem boundaryOf_none (n : Nat) (h : 3 < n) : boundaryOf n = none := by
  rw [boundaryOf_eq]
  exact List.getElem?_eq_none (show 4 ≤ n from h)

theorem checkCue_kind {outcome : CueOutcome} (h : kindRefusal (numAt bytes 4) = some outcome) :
    p.checkCue order bytes = .error outcome := by
  unfold Part.checkCue
  rw [h]

theorem checkCue_badParam (h : kindRefusal (numAt bytes 4) = none)
    (hbad : cueOf order bytes = none ∨ boundaryOf (numAt bytes 5) = none) : p.checkCue order bytes = .error .badParam := by
  unfold Part.checkCue
  rw [h]
  rcases hbad with hbad | hbad
  · rw [hbad]
  · rw [hbad]
    cases cueOf order bytes <;> rfl

theorem checkCue_state {boundary : Boundary} {outcome : CueOutcome} (h : kindRefusal (numAt bytes 4) = none)
    (hcue : cueOf order bytes = some cue) (hb : boundaryOf (numAt bytes 5) = some boundary)
    (hs : p.stateRefusal cue = some outcome) : p.checkCue order bytes = .error outcome := by
  unfold Part.checkCue
  rw [h, hcue, hb]
  dsimp only
  rw [hs]

theorem checkCue_room {boundary : Boundary} {outcome : CueOutcome} (h : kindRefusal (numAt bytes 4) = none)
    (hcue : cueOf order bytes = some cue) (hb : boundaryOf (numAt bytes 5) = some boundary)
    (hs : p.stateRefusal cue = none) (hr : p.roomRefusal cue = some outcome) :
    p.checkCue order bytes = .error outcome := by
  unfold Part.checkCue
  rw [h, hcue, hb]
  dsimp only
  rw [hs]
  dsimp only
  rw [hr]

theorem checkCue_passes {boundary : Boundary} (h : kindRefusal (numAt bytes 4) = none)
    (hcue : cueOf order bytes = some cue) (hb : boundaryOf (numAt bytes 5) = some boundary)
    (hs : p.stateRefusal cue = none) (hr : p.roomRefusal cue = none) : p.checkCue order bytes = .ok (cue, boundary) := by
  unfold Part.checkCue
  rw [h, hcue, hb]
  dsimp only
  rw [hs]
  dsimp only
  rw [hr]

/-- The four checks of a cue of a kind from 1 to 11, in their order (R139 to R141). -/
theorem checkCue_cases (k : Nat) (hk : numAt bytes 4 = k) (h1 : 1 ≤ k) (h11 : k ≤ 11) :
    let outside := 3 < numAt bytes 5 ∨ slotOutside order bytes k
    let first := numAt bytes 8
    let full := p.armsFull (k = 1 ∨ k = 2)
    (outside → p.checkCue order bytes = .error .badParam) ∧
    (¬outside → p.unready k first → p.checkCue order bytes = .error .notReady) ∧
    (¬outside → ¬p.unready k first → p.targetAbsent k first → p.checkCue order bytes = .error .badParam) ∧
    (¬outside → ¬p.unready k first → ¬p.targetAbsent k first → full → p.checkCue order bytes = .error .armFull) ∧
    (¬outside → ¬p.unready k first → ¬p.targetAbsent k first → ¬full → ∀ cue boundary,
      (slotSpells order bytes)[k - 1]? = some cue →
      [Boundary.now, .beat, .bar, .newSection][numAt bytes 5]? = some boundary →
      p.checkCue order bytes = .ok (cue, boundary)) := by
  intro outside first full
  obtain ⟨hnone, hsome⟩ := cueOf_cases (order := order) k hk h1 h11
  have hkind : kindRefusal (numAt bytes 4) = none := by rw [hk]; exact (kindRefusal_cases k).2.1 h1 h11
  have inside : ¬outside → ∃ cue boundary, (slotSpells order bytes)[k - 1]? = some cue ∧
      [Boundary.now, .beat, .bar, .newSection][numAt bytes 5]? = some boundary ∧ cueOf order bytes = some cue ∧
      boundaryOf (numAt bytes 5) = some boundary ∧ p.stateChecked k first cue ∧
      ((full → p.roomRefusal cue = some .armFull) ∧ (¬full → p.roomRefusal cue = none)) := by
    intro hin
    obtain ⟨h5, hparams⟩ := not_or.mp hin
    have hlen : k - 1 < (slotSpells order bytes).length := by
      show k - 1 < 11
      omega
    have hbound : numAt bytes 5 < [Boundary.now, .beat, .bar, .newSection].length := by
      show numAt bytes 5 < 4
      omega
    have hcue := List.getElem?_eq_getElem hlen
    have hb := List.getElem?_eq_getElem hbound
    exact ⟨_, _, hcue, hb, (hsome hparams).trans hcue, (boundaryOf_eq _).trans hb,
      stateChecked_spelled k h1 h11 hparams hcue, roomRefusal_cases _ (spelled_sceneChanging k h1 h11 hcue)⟩
  refine ⟨fun h => checkCue_badParam hkind ?_, fun hin hu => ?_, fun hin hu ha => ?_, fun hin hu ha hf => ?_,
    fun hin hu ha hf cue boundary hcue hb => ?_⟩
  · exact h.elim (fun h5 => .inr (boundaryOf_none _ h5)) fun hparams => .inl (hnone hparams)
  · obtain ⟨cue, boundary, -, -, hcue, hb, hstate, -⟩ := inside hin
    exact checkCue_state hkind hcue hb (hstate.1 hu)
  · obtain ⟨cue, boundary, -, -, hcue, hb, hstate, -⟩ := inside hin
    exact checkCue_state hkind hcue hb (hstate.2.1 hu ha)
  · obtain ⟨cue, boundary, -, -, hcue, hb, hstate, hroom⟩ := inside hin
    exact checkCue_room hkind hcue hb (hstate.2.2 hu ha) (hroom.1 hf)
  · obtain ⟨cue', boundary', hcue', hb', hcueOf, hbOf, hstate, hroom⟩ := inside hin
    obtain rfl := Option.some.inj (hcue.symm.trans hcue')
    obtain rfl := Option.some.inj (hb.symm.trans hb')
    exact checkCue_passes hkind hcueOf hbOf (hstate.2.2 hu ha) (hroom.2 hf)

end Slot

end Sys2Proof.Machine
end

section
/-! PROOFS. Take reads: the start, the refusals, and the cue armed, superseding and executed (9.3, 9.4). -/

namespace Sys2Proof.Machine

/-! ### The parts that a take read leaves -/

/-- The part as the checks of a take read see it (R141). -/
def Part.slotRead (p : Part) : Part :=
  { p.markGrant .cueUnit with cues := { p.cues with take := none } }

/-- The part with the oldest posted slot taken: its owner, the arm list and the write list as given. -/
def Part.slotTaken (p : Part) (slot : Fin 32) (young : List (Fin 32)) (owner : SlotOwner) (arms : List ArmedCue)
    (item : WriteItem) : Part :=
  { p.engineGranted .cueUnit with
    cues := { posted := young, take := none, arms := arms, writes := [item] }
    watch := { p.watch with owners := p.watch.owners.set slot owner } }

/-- A result as it stands in the write list (R148). -/
def resultItem (stamp : Stamp) (slot : Fin 32) (outcome : CueOutcome) (missed : Nat) (final : BoardState) (notify : Bool) :
    WriteItem where
  slot := slot
  words := [.answer outcome missed 0, .position stamp, .positionEnd stamp, .frameCount stamp, .state final]
  result := true
  notice := notify

/-- The state word of an armed cue as it stands in the write list (R143). -/
def stateItem (slot : Fin 32) (working : Bool) : WriteItem where
  slot := slot
  words := [.state (if working then .working else .waiting)]
  result := false
  notice := false

/-- The cue as it is armed (R143). -/
def armedCue (slot : Fin 32) (cue : Cue) (boundary : Boundary) (notify works due : Bool)
    (read : Option (List Byte)) : ArmedCue where
  slot := slot
  cue := cue
  boundary := boundary
  notify := notify
  working := works
  due := due
  atBoundary := false
  wait := boundary
  missed := 0
  read := read
  table := none

section Taken
variable {p : Part} {s : State} {slot : Fin 32} {young : List (Fin 32)} {read : List Byte} {order : ByteOrder}

theorem startTake_starts (hp : p.cues.posted = slot :: young) (ht : p.cues.take = none) (hw : p.cues.writes = []) :
    p.startTake = { p with cues := { p.cues with take := some { slot := slot, bytes := [] } } } := by
  unfold Part.startTake
  rw [hp, ht, hw]
  rfl

theorem startTake_waits (h : p.cues.posted = [] ∨ p.cues.take ≠ none ∨ p.cues.writes ≠ []) : p.startTake = p := by
  unfold Part.startTake
  split
  · rfl
  · rename_i hp
    refine if_neg fun hc => ?_
    obtain ⟨ht, hw⟩ := Bool.and_eq_true_iff.mp hc
    rcases h with h | h | h
    · rw [h] at hp; cases hp
    · exact h (Option.isNone_iff_eq_none.mp ht)
    · exact h (List.isEmpty_iff.mp hw)

theorem filter_young (h : slot ∉ young) : (slot :: young).filter (fun x => x != slot) = young := by
  rw [List.filter_cons, if_neg (by simp), List.filter_eq_self]
  intro x hx
  simp only [bne_iff_ne, ne_eq]
  rintro rfl
  exact h hx

/-- The last word of a take read, in a part that is Running: the slot's bytes decide. -/
theorem takeReadComplete_of (hrun : p.engine = .running) (hs : s.part = p) (hfirst : p.arbiter.rotation = .cueUnit)
    (htake : p.cues.take = some { slot := slot, bytes := read }) (hlen : read.length = 28) :
    let bytes := read ++ s.mem.readWord (p.layout.cueBoard + 32 * slot.val + read.length)
    exec .takeReadComplete s = .next { s with part := (p.markGrant .cueUnit).takeDone s.order slot bytes } := by
  subst hs
  have hnext := nextGrant_first (p := s.part) (access := .takeWord { slot := slot, bytes := read }) (by
    rw [hfirst]
    show s.part.cueAccess = _
    unfold Part.cueAccess
    rw [htake])
  rw [hfirst] at hnext
  refine congrArg _ ((grantIf_of_next hnext (by show (read.length == 28) = true; rw [hlen]; rfl)).trans (carryOut_read rfl ?_))
  show ((s.part.markGrant .cueUnit).takeWord s.order { slot := slot, bytes := read }
    (s.mem.readWord (s.part.layout.cueBoard + 32 * slot.val + read.length))).drainTest = _
  have heng := congrArg Outer.engine ((s.part.markGrant .cueUnit).takeWord_outer s.order { slot := slot, bytes := read }
    (s.mem.readWord (s.part.layout.cueBoard + 32 * slot.val + read.length)))
  rw [drainTest_of_not_stopping fun hc => by
    rw [show (s.part.markGrant .cueUnit).outer.engine = .running from hrun] at heng
    exact absurd (heng.symm.trans hc) (by decide)]
  unfold Part.takeWord
  refine if_neg ?_
  show ¬(read ++ _).length < 32
  rw [List.length_append, hlen]
  exact Nat.lt_irrefl _

/-- A cue refused in the act of the check. -/
theorem takeDone_refused {bytes : List Byte} {outcome : CueOutcome} (hpost : p.cues.posted = slot :: young)
    (hyoung : slot ∉ young) (hw : p.cues.writes = []) (hc : p.slotRead.checkCue order bytes = .error outcome) :
    (p.markGrant .cueUnit).takeDone order slot bytes = p.slotTaken slot young .host p.cues.arms
      (resultItem p.stamp slot outcome 0 outcome.final (flagAt bytes 6 0)) := by
  have hdone : (p.markGrant .cueUnit).takeDone order slot bytes = p.slotRead.refuseTaken slot outcome (flagAt bytes 6 0) := by
    unfold Part.takeDone
    dsimp only
    rw [show ({ p.markGrant .cueUnit with cues := { (p.markGrant .cueUnit).cues with take := none } } : Part) = p.slotRead
      from rfl, hc]
  have hposted : p.slotRead.cues.posted = slot :: young := hpost
  have hwrites : p.slotRead.cues.writes = [] := hw
  rw [hdone]
  simp only [Part.refuseTaken, Part.dropPosted, Part.setOwner, Part.queueResult, Part.queueItem, hposted, hwrites,
    filter_young hyoung]
  rfl

/-- A cue that passes the checks is armed. -/
theorem takeDone_armed {bytes : List Byte} {cue : Cue} {boundary : Boundary}
    (hc : p.slotRead.checkCue order bytes = .ok (cue, boundary)) :
    (p.markGrant .cueUnit).takeDone order slot bytes = p.slotRead.arm slot cue boundary (flagAt bytes 6 0) := by
  unfold Part.takeDone
  dsimp only
  rw [show ({ p.markGrant .cueUnit with cues := { (p.markGrant .cueUnit).cues with take := none } } : Part) = p.slotRead
    from rfl, hc]

/-! ### Arming (R142, R143) -/

theorem map_armed {arms : List ArmedCue} {a : ArmedCue} (f : ArmedCue → ArmedCue) (h : ∀ b ∈ arms, b.slot ≠ a.slot) :
    (arms ++ [a]).map (fun b => if b.slot = a.slot then f b else b) = arms ++ [f a] := by
  rw [List.map_append, List.map_singleton, if_pos rfl]
  congr 1
  refine (List.map_congr_left fun b hb => if_neg (h b hb)).trans (List.map_id' arms)

/-- The cue in the arm list and its slot engine-owned, before it supersedes or claims. -/
theorem placed_eq {a : ArmedCue} (hpost : p.cues.posted = a.slot :: young) (hyoung : a.slot ∉ young)
    (hw : p.cues.writes = []) (harms : ∀ b ∈ p.cues.arms, b.slot ≠ a.slot) :
    ({ p.slotRead.dropPosted a.slot with
      cues := { (p.slotRead.dropPosted a.slot).cues with arms := p.slotRead.cues.arms ++ [a] } } : Part).setWorking a.slot a.working =
      p.slotTaken a.slot young (.engine (if a.working then .working else .waiting)) (p.cues.arms ++ [a])
        (stateItem a.slot a.working) := by
  have hposted : p.slotRead.cues.posted = a.slot :: young := hpost
  have hwrites : p.slotRead.cues.writes = [] := hw
  have harms' : p.slotRead.cues.arms = p.cues.arms := rfl
  have hmap := map_armed (fun b => { b with working := a.working }) harms
  simp only [Part.setWorking, Part.mapArm, Part.dropPosted, Part.setOwner, Part.queueState, Part.queueItem, hposted, hwrites,
    filter_young hyoung, harms', hmap]
  rfl

/-- A scene-changing cue superseded: out of the arm list with its held switch, its slot host-owned, its result queued
(R142). -/
def Part.superseding (p : Part) (o : ArmedCue) : Part :=
  { p with
    loader := { p.loader with held := p.loader.held.filter fun h => h.cause != .cue o.slot }
    cues := { p.cues with
      arms := p.cues.arms.filter fun b => b.slot != o.slot
      writes := p.cues.writes ++ [resultItem p.stamp o.slot .superseded o.missed .done o.notify] }
    watch := { p.watch with owners := p.watch.owners.set o.slot .host } }

theorem unheld_eq (p : Part) (slot : Fin 32) : (if p.heldSlot = some slot then p.setHeld none else p) =
    p.setHeld (p.loader.held.filter fun h => h.cause != .cue slot) := by
  cases hh : p.loader.held with
  | none =>
    have : p.heldSlot ≠ some slot := fun hc => by
      obtain ⟨n, hn⟩ := (heldSlot_iff p slot).mp hc
      rw [hh] at hn; cases hn
    rw [if_neg this, Option.filter_none, ← hh]
    rfl
  | some held =>
    by_cases hc : held.cause = .cue slot
    · have : p.heldSlot = some slot := (heldSlot_iff p slot).mpr ⟨held.countdown, by rw [hh, ← hc]⟩
      rw [if_pos this, Option.filter_some, if_neg (by simp [hc])]
    · have : p.heldSlot ≠ some slot := fun hs => by
        obtain ⟨n, hn⟩ := (heldSlot_iff p slot).mp hs
        rw [hh] at hn
        exact hc (congrArg HeldSwitch.cause (Option.some.inj hn))
      rw [if_neg this, Option.filter_some, if_pos (by simpa using hc), ← hh]
      rfl

theorem supersede_eq (o : ArmedCue) (frees : Bool) (h : ∀ w ∈ p.cues.writes, w.slot ≠ o.slot) :
    p.supersede o frees = if (p.ownedBy o.slot && frees) = true then (p.superseding o).freeShadow else p.superseding o := by
  have hqueue := queueWrite_fresh (resultItem p.stamp o.slot .superseded o.missed .done o.notify) p.cues.writes h
  have hend : (p.setHeld (p.loader.held.filter fun h => h.cause != .cue o.slot)).endCue o .superseded 0 = p.superseding o :=
    congrArg (fun l => ({ p.superseding o with cues := { (p.superseding o).cues with writes := l } } : Part)) hqueue
  unfold Part.supersede
  rw [unheld_eq]
  dsimp only
  rw [hend]
  rfl

/-- The part with the scene-changing cue of before superseded, where one is armed. -/
def Part.supersedingAny (p : Part) (old : Option ArmedCue) : Part :=
  match old with
  | none => p
  | some o => p.superseding o

/-- What a scene-changing cue does to the one before it and to the shadow (R114, R142). -/
theorem changeScene_cases {a : ArmedCue} {arms : List ArmedCue} (old : Option ArmedCue) (fetch : Option ShadowFetch)
    (harms : p.cues.arms = arms ++ [a]) (hother : ∀ b ∈ arms, b.slot ≠ a.slot)
    (hold : arms.filter (·.cue.sceneChanging) = old.toList) (hw : p.cues.writes = [stateItem a.slot a.working]) :
    let base := p.supersedingAny old
    let owned := ∃ o, old = some o ∧ p.loader.owner = some (.cue o.slot)
    (∀ f, fetch = some f → base.claims (p.changeScene a.slot fetch) a.slot f) ∧
      (fetch = none → (owned → base.freed (p.changeScene a.slot fetch)) ∧ (¬owned → p.changeScene a.slot fetch = base)) := by
  have hfind : p.cues.arms.find? (fun b => b.cue.sceneChanging && b.slot != a.slot) = old := by
    rw [← List.head?_filter, harms, List.filter_append]
    have hself : [a].filter (fun b => b.cue.sceneChanging && b.slot != a.slot) = [] := by simp
    have hsame : arms.filter (fun b => b.cue.sceneChanging && b.slot != a.slot) = arms.filter (·.cue.sceneChanging) :=
      List.filter_congr fun b hb => by simp [hother b hb]
    rw [hself, List.append_nil, hsame, hold]
    cases old <;> rfl
  have hfresh : ∀ o, old = some o → ∀ w ∈ p.cues.writes, w.slot ≠ o.slot := by
    intro o ho w hw'
    rw [hw, List.mem_singleton] at hw'
    subst hw'
    have hmem : o ∈ arms.filter (·.cue.sceneChanging) := by rw [hold, ho]; simp
    exact fun hc => hother o (List.mem_filter.mp hmem).1 hc.symm
  intro base owned
  unfold Part.changeScene
  rw [hfind]
  cases old with
  | none =>
    refine ⟨fun f hf => ?_, fun hf => ⟨fun ⟨o, ho, _⟩ => (nomatch ho), fun _ => ?_⟩⟩
    · subst hf
      exact claimForCue_claims p a.slot f
    · subst hf
      rfl
  | some o =>
    have hsup := fun frees => supersede_eq (p := p) o frees (hfresh o rfl)
    refine ⟨fun f hf => ?_, fun hf => ⟨fun ⟨o', ho, hown⟩ => ?_, fun hnot => ?_⟩⟩
    · subst hf
      show base.claims ((p.supersede o false).claimForCue a.slot f) a.slot f
      rw [hsup false, Bool.and_false, if_neg (by decide)]
      exact claimForCue_claims _ a.slot f
    · subst hf
      obtain rfl := Option.some.inj ho
      show base.freed (p.supersede o true)
      rw [hsup true, (ownedBy_iff p o.slot).mpr hown, if_pos (show (true && true) = true from rfl)]
      exact freeShadow_frees (p.superseding o)
    · subst hf
      show p.supersede o true = base
      rw [hsup true]
      exact if_neg fun hc => hnot ⟨o, rfl, (ownedBy_iff p o.slot).mp (Bool.and_eq_true_iff.mp hc).1⟩

/-- The cues executed one after the other, each by a CUE_EXECUTE command. -/
theorem iterate_cueExecute (again : Host.Outcome State Fault Refusal → Host.Outcome State Fault Refusal)
    (h : ∀ x, again (.next x) = exec .cueExecute x) : ∀ (n : Nat) (u : Part),
    again^[n] (.next { s with part := u }) = .next { s with part := u.executeUpTo n }
  | 0, _ => rfl
  | n + 1, u => by
    rw [Function.iterate_succ_apply, h]
    exact iterate_cueExecute again h n u.executeNext

theorem armed_executes (again : Host.Outcome State Fault Refusal → Host.Outcome State Fault Refusal)
    (h : ∀ x, again (.next x) = exec .cueExecute x) (now : Bool) (u : Part) :
    (.next { s with part := if now = true then u.executeDue else u } : Host.Outcome State Fault Refusal) =
      if now = true then again^[u.cues.arms.length] (.next { s with part := u }) else .next { s with part := u } := by
  cases now with
  | false => rfl
  | true => exact (iterate_cueExecute again h u.cues.arms.length u).symm

end Taken

/-- The fetch that a cue of a kind needs when it is armed (R115, R139). -/
def Part.fetchFor (p : Part) (kind first second : Nat) (fetch : Option ShadowFetch) : Prop :=
  (kind = 1 ∧ fetch = some (songLoadFetch first second)) ∨
    (kind = 2 ∧ ∃ sec, p.sectionAt first = some sec ∧ fetch = match sec.scene with
      | none => none
      | some scene => if p.loader.activeScene.map (·.number) = some scene then none else some (sceneFetch scene)) ∨
    (¬(kind = 1 ∨ kind = 2) ∧ fetch = none)

theorem fetchNeeded_eq {p : Part} {order : ByteOrder} {bytes : List Byte} {cue : Cue} {fetch : Option ShadowFetch} (k : Nat)
    (h1 : 1 ≤ k) (h11 : k ≤ 11) (hcue : (slotSpells order bytes)[k - 1]? = some cue)
    (h : p.fetchFor k (numAt bytes 8) (numAt bytes 9) fetch) : p.fetchNeeded cue = fetch := by
  rcases h with ⟨rfl, rfl⟩ | ⟨rfl, sec, hsec, rfl⟩ | ⟨hk, rfl⟩
  · obtain rfl := Option.some.inj hcue
    rfl
  · obtain rfl := Option.some.inj hcue
    unfold Part.fetchNeeded Part.jumpScene Part.sceneOf Part.activeSceneNumber
    dsimp only
    rw [hsec]
    cases hscene : sec.scene with
    | none => simp [hscene]
    | some scene =>
      by_cases ha : p.loader.activeScene.map (·.number) = some scene <;> simp [hscene, ha]
  · have hs : ¬cue.sceneChanging = true := fun hc => hk ((spelled_sceneChanging k h1 h11 hcue).mp hc)
    unfold Part.fetchNeeded
    split
    · exact absurd rfl hs
    · exact absurd rfl hs
    · rfl

/-- A cue that passes the checks, armed: what stands once it has superseded and claimed, and whether it is executed. -/
theorem cueArmed_eq {p : Part} {slot : Fin 32} {young : List (Fin 32)} {cue : Cue} {boundary : Boundary} {notify : Bool}
    (hpost : p.cues.posted = slot :: young) (hyoung : slot ∉ young) (hw : p.cues.writes = [])
    (harms : ∀ b ∈ p.cues.arms, b.slot ≠ slot) {fetch : Option ShadowFetch} (hf : p.fetchNeeded cue = fetch) :
    let works := fetch.isSome || cue.isRemap
    let due := boundary == .now || !p.clockRuns
    let a := armedCue slot cue boundary notify works due (if cue.isRemap then some [] else none)
    let placed := p.slotTaken slot young (.engine (if works then .working else .waiting)) (p.cues.arms ++ [a])
      (stateItem slot works)
    let armed := if cue.sceneChanging = true then placed.changeScene slot fetch else placed
    p.slotRead.arm slot cue boundary notify = if (due && !works) = true then armed.executeDue else armed := by
  intro works due a placed armed
  have hplaced := placed_eq (a := a) hpost hyoung hw harms
  have hfetch : p.slotRead.fetchNeeded cue = fetch := hf
  unfold Part.arm
  rw [hfetch]
  exact congrArg (fun x : Part => if (due && !works) = true then (if cue.sceneChanging = true then x.changeScene slot fetch else x).executeDue
    else if cue.sceneChanging = true then x.changeScene slot fetch else x) hplaced

/-- A Tap Follow of boundary now, the only cue armed: executed in the act that arms it. -/
theorem tapFollow_executes (p : Part) (slot : Fin 32) (young : List (Fin 32)) (notify : Bool) (hheld : p.loader.held = none) :
    (p.slotTaken slot young (.engine .waiting) [armedCue slot (.tapFollow true) .now notify false true none]
      (stateItem slot false)).executeDue =
      { p.slotTaken slot young .host [] (resultItem p.stamp slot .ok 0 .done notify) with
        timeline := { p.timeline with tapFollow := true } } := by
  have hslot : (p.slotTaken slot young (.engine .waiting) [armedCue slot (.tapFollow true) .now notify false true none]
      (stateItem slot false)).heldSlot = none := by
    show (match p.loader.held with | some { cause := .cue slot, .. } => some slot | _ => none) = none
    rw [hheld]
  have hnext : (p.slotTaken slot young (.engine .waiting) [armedCue slot (.tapFollow true) .now notify false true none]
      (stateItem slot false)).nextCue = some (armedCue slot (.tapFollow true) .now notify false true none) := by
    unfold Part.nextCue
    rw [hslot]
    rfl
  show Part.executeNext _ = _
  unfold Part.executeNext
  rw [hnext]
  have hdrop : [armedCue slot (.tapFollow true) .now notify false true none].filter (fun b => b.slot != slot) = [] := by
    simp [armedCue]
  have hvec : (p.watch.owners.set slot (.engine .waiting)).set slot .host = p.watch.owners.set slot .host :=
    Vector.set_set _ _
  have hended : ∀ x : Part, x.cues = { posted := young, take := none, arms :=
        [armedCue slot (.tapFollow true) .now notify false true none], writes := [stateItem slot false] } → x.stamp = p.stamp →
      x.endCue (armedCue slot (.tapFollow true) .now notify false true none) .ok 0 = { x with
        cues := { posted := young, take := none, arms := [], writes := [resultItem p.stamp slot .ok 0 .done notify] }
        watch := { x.watch with owners := x.watch.owners.set slot .host } } := by
    intro x hcues hstamp
    have hq : queueWrite (resultItem p.stamp slot .ok 0 .done notify) [stateItem slot false] =
        [resultItem p.stamp slot .ok 0 .done notify] := if_pos ⟨rfl, Bool.false_ne_true⟩
    unfold Part.endCue Part.dropArm Part.queueResult Part.queueItem Part.setOwner
    dsimp only
    rw [hcues]
    dsimp only
    refine (congrArg (fun l => ({ x with
      cues := { posted := young, take := none, arms := l.1, writes := l.2 }
      watch := { x.watch with owners := x.watch.owners.set slot .host } } : Part)) (Prod.ext hdrop ?_ : (_, _) = ([], [_])))
    exact (congrArg (fun st => queueWrite (resultItem st slot .ok 0 .done notify) [stateItem slot false]) hstamp).trans hq
  refine (hended { p.slotTaken slot young (.engine .waiting) [armedCue slot (.tapFollow true) .now notify false true none]
    (stateItem slot false) with timeline := { p.timeline with tapFollow := true } } rfl rfl).trans ?_
  unfold Part.slotTaken
  dsimp only
  rw [hvec]

/-- Settles O54: the read's start; the checks in their order; and the cue armed, with what it supersedes, claims or frees. -/
theorem takeReadsDecideTheCue : Obligations.TakeReadsDecideTheCue := by
  unfold Obligations.TakeReadsDecideTheCue
  intro s slot young read p bytes num half place kind first notify result after refused follow waits changing outside clock
    unready absent full levels spelled needs again
  refine ⟨fun hp ht hw => ?_, fun h => ?_, fun hrun hfirst htake hpost hyoung hw hlen => ?_⟩
  · exact next_part (startTake_starts hp ht hw)
  · exact congrArg _ (withPart_of_eq (startTake_waits h))
  have hexec := takeReadComplete_of (s := s) hrun rfl hfirst htake hlen
  have refuses : ∀ outcome, outcome.final = .refused → p.slotRead.checkCue s.order bytes = .error outcome → refused outcome := by
    intro outcome hfinal hc
    have hdone := takeDone_refused hpost hyoung hw hc
    rw [hfinal] at hdone
    exact hexec.trans (congrArg (fun y => Host.Outcome.next { s with part := y }) hdone)
  obtain ⟨hk0, hk11, hk15, hk16⟩ := kindRefusal_cases kind
  have houtside : outside ↔ 3 < num 5 ∨ slotOutside s.order bytes kind := Iff.rfl
  have arms : ∀ (cue : Cue) (boundary : Boundary) (fetch : Option ShadowFetch), 1 ≤ kind → kind ≤ 11 → ¬outside → ¬unready →
      ¬absent → ¬full → (∀ b ∈ p.cues.arms, b.slot ≠ slot) → spelled[kind - 1]? = some cue →
      [Boundary.now, .beat, .bar, .newSection][num 5]? = some boundary → needs fetch →
      let works := fetch.isSome || decide (kind = 10)
      let due := boundary == .now || !p.clockRuns
      let placed := p.slotTaken slot young (.engine (if works then .working else .waiting))
        (p.cues.arms ++ [armedCue slot cue boundary notify works due (if kind = 10 then some [] else none)]) (stateItem slot works)
      let armed := if cue.sceneChanging = true then placed.changeScene slot fetch else placed
      exec .takeReadComplete s = .next { s with part := if (due && !works) = true then armed.executeDue else armed } := by
    intro cue boundary fetch h1 h11 hin hu ha hf harms hcue hb hneeds works due placed armed
    have hc := (checkCue_cases (p := p.slotRead) (order := s.order) (bytes := bytes) kind rfl h1 h11).2.2.2.2 hin hu ha hf
      cue boundary hcue hb
    have harm := cueArmed_eq (boundary := boundary) (notify := notify) hpost hyoung hw harms
      (fetchNeeded_eq kind h1 h11 hcue hneeds)
    rw [spelled_isRemap kind h1 h11 hcue, if_congr (decide_eq_true_iff (p := kind = 10)) rfl rfl] at harm
    exact hexec.trans (congrArg (fun y => Host.Outcome.next { s with part := y }) ((takeDone_armed hc).trans harm))
  refine ⟨fun h => refuses _ rfl (checkCue_kind (hk0 h)), fun h h' => refuses _ rfl (checkCue_kind (hk15 h h')),
    fun h => refuses _ rfl (checkCue_kind (hk16 h)), fun h1 h11 => ?_, fun h6 hon hheld => ⟨fun h5 harms => ?_, fun h5 hruns hroom harms => ?_⟩,
    fun cue boundary fetch old h1 h11 hin hu ha hf harms hcue hb hneeds hold => ?_⟩
  · obtain ⟨c1, c2, c3, c4, -⟩ := checkCue_cases (p := p.slotRead) (order := s.order) (bytes := bytes) kind rfl h1 h11
    refine ⟨fun h => refuses _ rfl (c1 h), fun h hu => refuses _ rfl (c2 h hu), fun h ha => ?_,
      fun h hu ha hf => refuses _ rfl (c4 h hu ha hf)⟩
    by_cases hu : unready
    · exfalso
      have hk2 : kind = 2 := ha.1
      have hloaded : p.pointer.loaded = true := ha.2.1
      rcases hu with ⟨-, hl⟩ | ⟨hk, -⟩ | ⟨hk, -⟩ | ⟨hk, -⟩
      · rw [hloaded] at hl; cases hl
      all_goals omega
    · exact refuses _ rfl (c3 h hu ha)
  · have hone : numAt bytes 8 = 1 := hon
    have hin : ¬outside := by
      rw [houtside]
      unfold slotOutside
      omega
    have hspelled : spelled[kind - 1]? = some (.tapFollow true) := by
      show (slotSpells s.order bytes)[kind - 1]? = _
      unfold slotSpells
      rw [h6, show numAt bytes 8 = 1 from hon]
      rfl
    have hexec := arms (.tapFollow true) .now none (by omega) (by omega) hin
      (by rintro (⟨h, -⟩ | ⟨h, -⟩ | ⟨h, -⟩ | ⟨h, -⟩) <;> omega) (fun h => by have := h.1; omega)
      (fun h => by have := h.1; rw [harms] at this; exact absurd this (by decide)) (by rw [harms]; simp) hspelled
      (by rw [h5]; rfl) (.inr (.inr ⟨by omega, rfl⟩))
    have hremap : decide (kind = 10) = false := decide_eq_false (by omega)
    rw [hremap, harms, if_neg (show kind ≠ 10 by omega)] at hexec
    exact ⟨_, hexec, tapFollow_executes p slot young notify hheld⟩
  · have hone : numAt bytes 8 = 1 := hon
    have hin : ¬outside := by
      rw [houtside]
      unfold slotOutside
      omega
    have hspelled : spelled[kind - 1]? = some (.tapFollow true) := by
      show (slotSpells s.order bytes)[kind - 1]? = _
      unfold slotSpells
      rw [h6, show numAt bytes 8 = 1 from hon]
      rfl
    have hexec := arms (.tapFollow true) .beat none (by omega) (by omega) hin
      (by rintro (⟨h, -⟩ | ⟨h, -⟩ | ⟨h, -⟩ | ⟨h, -⟩) <;> omega) (fun h => by have := h.1; omega)
      (fun h => by have := h.1; omega) harms hspelled (by rw [h5]; rfl) (.inr (.inr ⟨by omega, rfl⟩))
    have hremap : decide (kind = 10) = false := decide_eq_false (by omega)
    rw [hremap, hruns, if_neg (show kind ≠ 10 by omega)] at hexec
    exact hexec
  · have hexec := arms cue boundary fetch h1 h11 hin hu ha hf harms hcue hb hneeds
    have hchange : cue.sceneChanging = true ↔ changing := spelled_sceneChanging kind h1 h11 hcue
    intro works due a placed taking base owned
    have hagain := fun now u => armed_executes (s := s) again (fun _ => rfl) now u
    refine ⟨if cue.sceneChanging = true then placed.changeScene slot fetch else placed,
      hexec.trans (hagain (due && !works) (if cue.sceneChanging = true then placed.changeScene slot fetch else placed)),
      fun hno => if_neg fun hc => hno (hchange.mp hc), fun hch => ?_⟩
    rw [if_pos (hchange.mpr hch)]
    have hcases := changeScene_cases (p := placed) (a := a) (arms := p.cues.arms) old fetch rfl harms (hold hch) rfl
    have hbase : placed.supersedingAny old = base := by
      cases old with
      | none => rfl
      | some o =>
        show placed.superseding o = taking o
        have hmem : o ∈ p.cues.arms.filter (·.cue.sceneChanging) := by rw [hold hch]; simp
        have hne : slot ≠ o.slot := fun hc => harms o (List.mem_filter.mp hmem).1 hc.symm
        have hdrop : (p.cues.arms ++ [a]).filter (fun b => b.slot != o.slot) =
            (p.cues.arms.filter fun b => b.slot != o.slot) ++ [a] := by
          rw [List.filter_append]
          congr 1
          exact List.filter_eq_self.mpr fun b hb => by
            obtain rfl := List.mem_singleton.mp hb
            simpa using hne
        exact congrArg (fun l => ({ taking o with cues := { (taking o).cues with arms := l } } : Part)) hdrop
    rw [hbase] at hcases
    exact hcases

end Sys2Proof.Machine
end

section
/-! PROOFS. The end of a settle time: refreshes, Stale records, and shadow records fetched again (8.3, 8.7, 10.5, 3.4). -/

namespace Sys2Proof.Machine

section Settle
variable {p : Part} {role : Role} {e : Resident}

theorem settleDue_iff : p.settleDue role = true ↔ ∃ d, p.resident role = some d ∧ d.state = .settling 0 := by
  unfold Part.settleDue
  constructor
  · intro h
    split at h
    · rename_i hd
      exact ⟨_, hd, rfl⟩
    · cases h
  · rintro ⟨⟨kind, number, base, length, state, refetch⟩, hd, hs⟩
    obtain rfl : state = .settling 0 := hs
    rw [hd]
    rfl

theorem endSettle_waits (h : ∀ d, p.resident role = some d → d.state ≠ .settling 0) : p.endSettle role = p := by
  unfold Part.endSettle
  refine if_neg fun hdue => ?_
  obtain ⟨d, hd, hs⟩ := settleDue_iff.mp hdue
  exact h d hd hs

theorem endSettle_due (h : p.resident role = some e) (hs : e.state = .settling 0) : p.endSettle role = p.settleEnded role := by
  unfold Part.endSettle
  exact if_pos (settleDue_iff.mpr ⟨e, h, hs⟩)

/-- An entry as a fetch begun anew leaves it (R166). -/
def Resident.begun (e : Resident) : Resident := { e with state := .refreshing, refetch := 0 }

theorem beginRefreshing_eq (h : p.resident role = some e) : p.beginRefreshing role = p.putResident role (some e.begun) := by
  unfold Part.beginRefreshing
  rw [h]
  rfl

/-- An entry that is not Stale becomes so, and is journaled (R168). -/
theorem makeStale_journals (reason : StaleReason) (h : p.resident role = some e) (hs : e.state ≠ .stale) :
    p.makeStale role reason = { p with
      watch := { p.watch with residents := p.watch.residents.put role (some { e with state := .stale, refetch := 0 }) }
      notice := p.handed (.recordStale role e.kind e.number reason) } := by
  unfold Part.makeStale
  rw [h]
  exact if_neg hs

theorem beginSongRefresh_eq (sceneNext : Bool) (h : p.resident .activeSong = some e) :
    p.beginSongRefresh sceneNext =
      ((p.putResident .activeSong (some e.begun)).putResident .shadowSong (some e.begun)).ownShadow (.refreshSong sceneNext)
        (some (songAgainFetch e none)) := by
  unfold Part.beginSongRefresh
  rw [h]
  dsimp only
  rw [beginRefreshing_eq h]
  rfl

theorem beginSceneRefresh_eq (h : p.resident .activeScene = some e) :
    p.beginSceneRefresh =
      ((p.putResident .activeScene (some e.begun)).putResident .shadowScene (some e.begun)).ownShadow .refreshScene
        (some (sceneAgainFetch e)) := by
  unfold Part.beginSceneRefresh
  rw [h]
  dsimp only
  rw [beginRefreshing_eq h]
  rfl

theorem refreshSound_eq (i : Fin 4) (h : p.resident (.click i) = some e) :
    p.refreshSound i = ((p.endCursorsOn i).putResident (.click i) (some e.begun)).setClickFetch i
      (some { kind := .refresh, base := e.base, length := (p.click.sounds[i]).length, words := e.length / 4, done := 0 }) := by
  unfold Part.refreshSound
  rw [h]
  dsimp only
  rw [beginRefreshing_eq (p := p.endCursorsOn i) h]

/-- A shadow record's fetch begun while no other runs, or left waiting for the one that does (log 14). -/
theorem refetchShadow_eq (h : p.resident role = some e) :
    (p.loader.fetch = none → p.refetchShadow role =
      (p.putResident role (some e.begun)).setFetch (some (p.againFetch role { e with refetch := 0 }))) ∧
    (∀ f, p.loader.fetch = some f → p.refetchShadow role =
      (p.putResident role (some e.begun)).setFetch (some { f with also := true })) := by
  unfold Part.refetchShadow
  rw [h, beginRefreshing_eq h]
  exact ⟨fun hf => by rw [hf], fun f hf => by rw [hf]⟩

end Settle

/-- Settles O29: by the entry's role, and for the active records by the shadow's owner. -/
theorem settleEndRefreshes : Obligations.SettleEndRefreshes := by
  unfold Obligations.SettleEndRefreshes
  intro role s e p r begun gone refetch claimed songClaimed sceneClaimed stale ended again clicked
  have hends : ∀ {role : Role} {q : Part}, p.endSettle role = q → exec (.settleEnd role) s = .next { s with part := q } :=
    fun h => next_part h
  refine ⟨fun h => congrArg _ (withPart_of_eq (endSettle_waits h)), fun hs => ?_⟩
  have hfresh : e.state ≠ .stale := by rw [hs]; exact fun h => nomatch h
  refine ⟨fun h hfree => hends ?_, fun h howned => hends ?_, fun h hfree => hends ?_, fun h howned => hends ?_,
    fun i h => hends ?_⟩
  · refine (endSettle_due (role := .activeSong) h hs).trans ((if_pos ?_).trans (beginSongRefresh_eq false h))
    rw [hfree]; rfl
  · refine (endSettle_due (role := .activeSong) h hs).trans ((if_neg ?_).trans (makeStale_journals .deferred h hfresh))
    exact fun hc => howned (Option.isNone_iff_eq_none.mp hc)
  · refine (endSettle_due (role := .activeScene) h hs).trans ((if_pos ?_).trans (beginSceneRefresh_eq h))
    rw [hfree]; rfl
  · refine (endSettle_due (role := .activeScene) h hs).trans ((if_neg ?_).trans (makeStale_journals .deferred h hfresh))
    exact fun hc => howned (Option.isNone_iff_eq_none.mp hc)
  · have hended : ∀ m : Mix, m.endOn i = ended i m := fun m => endOn_eq m i
    refine (endSettle_due (role := .click i) h hs).trans ((refreshSound_eq i h).trans ?_)
    unfold Part.endCursorsOn
    simp only [hended]
    rfl

/-- Settles O30: by the record, and by whether the other one is being fetched. -/
theorem settleEndRefetchesShadow : Obligations.SettleEndRefetchesShadow := by
  unfold Obligations.SettleEndRefetchesShadow
  intro s e hs p r begun song scene fetching
  have hends : ∀ {role : Role} {q : Part}, p.endSettle role = q → exec (.settleEnd role) s = .next { s with part := q } :=
    fun h => next_part h
  refine ⟨fun h hf => hends ?_, fun f h hf => hends ?_, fun f h hf => hends ?_,
    fun a slot number start autoStart h hf howner harms hslot hcue => hends ?_⟩
  · exact (endSettle_due (role := .shadowScene) h hs).trans ((refetchShadow_eq (role := .shadowScene) h).1 hf)
  · exact (endSettle_due (role := .shadowScene) h hs).trans ((refetchShadow_eq (role := .shadowScene) h).2 f hf)
  · exact (endSettle_due (role := .shadowSong) h hs).trans ((refetchShadow_eq (role := .shadowSong) h).2 f hf)
  · have hstart : p.ownerStart = some start := by
      have harm : p.armOf slot = some a := by
        unfold Part.armOf
        rw [harms, ← hslot, List.find?_cons_of_pos (by simp)]
      unfold Part.ownerStart
      rw [howner]
      dsimp only
      rw [harm]
      obtain ⟨_, cue, _⟩ := a
      obtain rfl : cue = .songLoad number start autoStart := hcue
      rfl
    refine (endSettle_due (role := .shadowSong) h hs).trans (((refetchShadow_eq (role := .shadowSong) h).1 hf).trans ?_)
    unfold Part.againFetch
    rw [hstart]
    rfl

end Sys2Proof.Machine
end

section
/-! PROOFS. The moment of a switch and the end of a hold: a section's and a cue's switch made, held, or forced (8.4 to 8.6). -/

namespace Sys2Proof.Machine

section Switches
variable {p : Part} {sc : Scene} {target scene : Nat} {cause : SectionCause} {announced : Option Nat} {a : ArmedCue}
  {incoming : Option Scene}

/-! ### A switch behind its setup messages -/

/-- The setup messages of the scene that a switch brings in (R127). -/
def setupOf (incoming : Option Scene) : List SetupMessage :=
  match incoming with
  | none => []
  | some scene => scene.setup

theorem shadowBatch_of (h : p.loader.shadowScene = incoming) : p.shadowBatch = setupOf incoming := by
  subst h
  rfl

/-- A switch made behind its setup messages has sent them and the pedal carry (R94, R127). -/
theorem made_sends {q : Part} (setup : List SetupMessage)
    (h : Part.carriesTo { p with voices := p.voices.admitBatch setup } incoming q.voices q.tracker.fan) :
    p.switchSends q incoming setup :=
  switchSends_of p _ incoming setup q (admitBatch_received setup p.voices) h

/-! ### The hold run out (R130) -/

theorem expireHold_waits (h : ∀ held, p.loader.held = some held → held.countdown ≠ 0) : p.expireHold = p := by
  unfold Part.expireHold
  cases hh : p.loader.held with
  | none => rfl
  | some held => exact if_pos (h held hh)

/-- The part once its batch is offered message by message and SwitchPartial is journaled. -/
def Part.offeredBatch (p : Part) (cause : HeldCause) (batch : List SetupMessage) : Part := { p with
  voices := (p.voices.forceBatch batch).1
  notice := p.handed (.switchPartial cause.journaled (p.voices.forceBatch batch).2.1 (p.voices.forceBatch batch).2.2) }

theorem expireHold_forces {cause : HeldCause} (h : p.loader.held = some { cause := cause, countdown := 0 }) :
    p.expireHold = (p.offeredBatch cause p.shadowBatch).completeHeld cause (some (p.voices.forceBatch p.shadowBatch).2.1) := by
  unfold Part.expireHold
  rw [h]
  exact if_neg (not_not.mpr rfl)

/-- What a forced switch leaves of the ports and the fan-out sets behind the offered messages (R94, R130). -/
def Part.carries (p q : Part) (incoming : Option Scene) (w : Voices) : Prop :=
  (p.carryDowns incoming = [] → q.voices = w ∧ q.tracker.fan = p.tracker.fan) ∧
    ({ p with voices := w } : Part).switchSends q incoming [] ∧ q.voices.reserve = p.voices.reserve ∧
    ∀ v : Fin 8, (w.ports[v]).queue <+: (q.voices.ports[v]).queue

theorem carries_of {q : Part} {w : Voices} (hreserve : w.reserve = p.voices.reserve)
    (h : Part.carriesTo { p with voices := w } incoming q.voices q.tracker.fan) : p.carries q incoming w := by
  have ⟨⟨hres, hqueues⟩, hnone, _⟩ := h
  exact ⟨hnone, switchSends_of { p with voices := w } w incoming [] q (received_nil w) h, hres.trans hreserve, hqueues⟩

/-! ### The moment of a switch (R127, R128) -/

theorem lateDue_iff {late : LateSwitch} (h : p.loader.late = some late) :
    p.lateDue = true ↔ (late.atOnce = true ∨ p.clockRuns = false) ∧ p.loader.ready = true ∧
      p.loader.owner = some (.lookahead late.scene) := by
  unfold Part.lateDue
  rw [h]
  simp only [Bool.and_eq_true, Bool.or_eq_true, Bool.not_eq_true', beq_iff_eq, lookaheadScene_iff]
  exact and_assoc

/-- A pending section switch whose shadow is ready is begun (R122, R123). -/
theorem makeSwitch_late {late : LateSwitch} (h : p.loader.late = some late) (hnow : late.atOnce = true ∨ p.clockRuns = false)
    (hready : p.loader.ready = true) (howner : p.loader.owner = some (.lookahead late.scene)) :
    p.makeSwitch = p.beginSection late.target late.scene late.cause late.announced := by
  unfold Part.makeSwitch
  rw [if_pos ((lateDue_iff h).mpr ⟨hnow, hready, howner⟩)]
  unfold Part.makeLateNow
  rw [h]
  refine (if_pos (by simpa using hnow)).trans ?_
  unfold Part.makeLate
  rw [h]
  exact if_pos (by simpa [hready] using (lookaheadScene_iff p late.scene).mpr howner)

theorem makeSwitch_no_late (h : p.loader.late = none) :
    p.makeSwitch = match p.nextCue with
      | none => p
      | some a => if a.cue.sceneChanging = true then p.executeCue a else p := by
  have hdue : ¬p.lateDue = true := by unfold Part.lateDue; rw [h]; exact Bool.false_ne_true
  unfold Part.makeSwitch
  exact if_neg hdue

theorem nextCue_no_arms (h : p.cues.arms = []) : p.nextCue = none := by
  unfold Part.nextCue
  rw [h]
  rfl

theorem heldSlot_none (h : p.loader.held = none) : p.heldSlot = none := by
  unfold Part.heldSlot
  rw [h]

theorem nextCue_single (ha : p.cues.arms = [a]) (hheld : p.loader.held = none) (hdue : a.due = true)
    (hwork : a.working = false) : p.nextCue = some a := by
  unfold Part.nextCue
  rw [ha, heldSlot_none hheld]
  unfold firstExecutable
  rw [if_neg (fun h => nomatch h), if_pos (by rw [hdue, hwork]; rfl)]

/-- A scene-changing cue that owns the ready shadow begins its switch (R126, R127). -/
theorem executeCue_begins (hchange : a.cue.sceneChanging = true) (hjump : ∀ place, a.cue = .sectionJump place → place < p.sectionCount)
    (howner : p.loader.owner = some (.cue a.slot)) : p.executeCue a = p.beginCue a := by
  unfold Part.executeCue
  cases hc : a.cue with
  | songLoad number start autoStart => rfl
  | sectionJump place =>
    show p.executeJump a place = p.beginCue a
    unfold Part.executeJump
    rw [if_neg (Nat.not_le.mpr (hjump place hc)), if_pos ((ownedBy_iff p a.slot).mpr howner)]
  | _ => rw [hc] at hchange; cases hchange

theorem beginCue_held (h : p.voices.batchFits p.shadowBatch = false) : p.beginCue a = { p with loader := { p.loader with
    held := some { cause := .cue a.slot, countdown := p.loader.holdLimit } } } := by
  unfold Part.beginCue
  exact if_neg (Bool.eq_false_iff.mp h)

theorem beginCue_made (h : p.voices.batchFits p.shadowBatch = true) :
    p.beginCue a = ({ p with voices := p.voices.admitBatch p.shadowBatch } : Part).completeCue a none := by
  unfold Part.beginCue
  exact if_pos h

/-- A cue that fits its switch is a scene-changing cue whose target exists. -/
theorem cueFits_changes (h : p.cueFits a incoming) :
    a.cue.sceneChanging = true ∧ ∀ place, a.cue = .sectionJump place → place < p.sectionCount := by
  rcases h with ⟨place, sec, hcue, hsec, -⟩ | ⟨number, start, autoStart, song, sec, hfit⟩
  · refine ⟨by rw [hcue]; rfl, fun place' h => ?_⟩
    obtain rfl : place = place' := by
      rw [hcue] at h
      exact Cue.sectionJump.inj h
    unfold Part.sectionAt at hsec
    unfold Part.sectionCount
    cases hsong : p.loader.activeSong with
    | none => rw [hsong] at hsec; cases hsec
    | some song =>
      rw [hsong] at hsec
      exact (List.getElem?_eq_some_iff.mp hsec).1
  · have hcue : a.cue = .songLoad number start autoStart := hfit.1
    exact ⟨by rw [hcue]; rfl, fun place h => by rw [hcue] at h; cases h⟩

end Switches

/-- Settles O31: the batch offered, then the switch of the hold's cause. -/
theorem holdExpiryForcesTheSwitch : Obligations.HoldExpiryForcesTheSwitch := by
  unfold Obligations.HoldExpiryForcesTheSwitch
  intro s sc target scene cause announced a incoming p setup carries
  refine ⟨fun h => congrArg _ (withPart_of_eq (expireHold_waits h)), fun hh hs hsong hl ht => ?_, fun hh ha hw hl hin hfits => ?_⟩
  · have hb : p.shadowBatch = sc.setup := shadowBatch_of hs
    have hforced := expireHold_forces hh
    have hoffered := forceBatch_offeredAlone sc.setup p.voices
    rw [hb, completeHeld_entry] at hforced
    obtain ⟨hmade, hcarry⟩ := completeSection_made (p.offeredBatch (.entry target scene cause announced) sc.setup) sc target
      cause announced hs hsong ht
    exact ⟨_, _, _, _, next_part hforced, hoffered, hmade, carries_of hoffered.1 hcarry⟩
  · have hb : p.shadowBatch = setup := shadowBatch_of hin
    have hforced := expireHold_forces hh
    have hoffered := forceBatch_offeredAlone setup p.voices
    rw [hb, completeHeld_cue (p.offeredBatch (.cue a.slot) setup) a _ ha] at hforced
    obtain ⟨hmade, hcarry⟩ := completeCue_made (p.offeredBatch (.cue a.slot) setup) a incoming
      (some (p.voices.forceBatch setup).2.1) ha hw hl hin hfits
    exact ⟨_, _, _, _, next_part hforced, hoffered, hmade, carries_of hoffered.1 hcarry⟩

/-- Settles O58: a pending section switch, or the cue that executes next, by the batch check. -/
theorem sectionSwitchIsMadeOrHeld : Obligations.SectionSwitchIsMadeOrHeld := by
  unfold Obligations.SectionSwitchIsMadeOrHeld
  intro s sc target cause atOnce announced p late run holding
  have runs : ∀ {q : Part}, p.makeSwitch = q → run q := fun h => next_part h
  refine ⟨fun hl ha => runs ?_, fun hl hnow hready howner hs hsong => ⟨fun hf => runs ?_, fun hf ht => ?_⟩, fun a incoming => ?_⟩
  · rw [makeSwitch_no_late hl, nextCue_no_arms ha]
  · have hb : p.shadowBatch = sc.setup := shadowBatch_of hs
    rw [makeSwitch_late hl hnow hready howner]
    unfold Part.beginSection
    rw [hb]
    exact if_neg (Bool.eq_false_iff.mp hf)
  · refine ⟨_, runs (makeSwitch_late hl hnow hready howner), ?_⟩
    exact (beginSection_begun p sc target cause announced hs hsong ht).1 hf
  · intro setup ha hdue hwork hw hl hheld howner hin
    have hb : p.shadowBatch = setup := shadowBatch_of hin
    have begins : a.cue.sceneChanging = true → (∀ place, a.cue = .sectionJump place → place < p.sectionCount) →
        p.makeSwitch = p.beginCue a := fun hchange hjump => by
      rw [makeSwitch_no_late hl, nextCue_single ha hheld hdue hwork]
      exact (if_pos hchange).trans (executeCue_begins hchange hjump howner)
    refine ⟨fun hf hchange hjump => runs ((begins hchange hjump).trans ?_), fun hf hfits => ?_⟩
    · rw [beginCue_held (by rw [hb]; exact hf)]
      show _ = ({ p with loader := { p.loader with
        late := none, held := some { cause := .cue a.slot, countdown := p.loader.holdLimit } } } : Part)
      rw [← hl]
    · obtain ⟨hchange, hjump⟩ := cueFits_changes hfits
      have hmake := (begins hchange hjump).trans (beginCue_made (by rw [hb]; exact hf))
      rw [hb] at hmake
      obtain ⟨hmade, hcarry⟩ := completeCue_made { p with voices := p.voices.admitBatch setup } a incoming none ha hw hl hin hfits
      exact ⟨_, runs hmake, hmade, made_sends setup hcarry⟩

end Sys2Proof.Machine
end

section
/-! PROOFS. The watch's decision on host writes into resident records (10.4, 10.5, 8.3, 8.6). -/

namespace Sys2Proof.Machine

/-! ### Which fetches a write reaches (R118, R164) -/

section Hits
variable {p : Part} {roles : List Role} {role : Role} {e : Resident} {kind : RegionKind}

theorem isRefreshing_iff : p.isRefreshing role = true ↔ ∃ e, p.resident role = some e ∧ e.state = .refreshing := by
  unfold Part.isRefreshing
  cases p.resident role with
  | none => simp
  | some e => simp

theorem not_isRefreshing (h : p.resident role = some e) (hs : e.state ≠ .refreshing) : ¬p.isRefreshing role = true := by
  intro hc
  obtain ⟨d, hd, hr⟩ := isRefreshing_iff.mp hc
  obtain rfl := Option.some.inj (h.symm.trans hd)
  exact hs hr

theorem hitsSong_iff : p.hitsSong roles = true ↔
    ∃ role ∈ roles, (role = .activeSong ∨ role = .shadowSong) ∧ p.isRefreshing role = true := by
  unfold Part.hitsSong
  simp only [Bool.or_eq_true, Bool.and_eq_true, List.contains_iff_mem]
  constructor
  · rintro (⟨hm, hr⟩ | ⟨hm, hr⟩)
    · exact ⟨_, hm, .inl rfl, hr⟩
    · exact ⟨_, hm, .inr rfl, hr⟩
  · rintro ⟨role, hm, rfl | rfl, hr⟩
    · exact .inl ⟨hm, hr⟩
    · exact .inr ⟨hm, hr⟩

theorem hitsScene_iff : p.hitsScene roles = true ↔
    ∃ role ∈ roles, (role = .activeScene ∨ role = .shadowScene) ∧ p.isRefreshing role = true := by
  unfold Part.hitsScene
  simp only [Bool.or_eq_true, Bool.and_eq_true, List.contains_iff_mem]
  constructor
  · rintro (⟨hm, hr⟩ | ⟨hm, hr⟩)
    · exact ⟨_, hm, .inl rfl, hr⟩
    · exact ⟨_, hm, .inr rfl, hr⟩
  · rintro ⟨role, hm, rfl | rfl, hr⟩
    · exact .inl ⟨hm, hr⟩
    · exact .inr ⟨hm, hr⟩

/-- Whether a role is a song's, or a scene's. -/
def songRole : Role → Bool
  | .activeSong => true
  | .shadowSong => true
  | _ => false

def sceneRole : Role → Bool
  | .activeScene => true
  | .shadowScene => true
  | _ => false

theorem hits_refreshing (h : ∀ role ∈ roles, p.isRefreshing role = true) :
    p.hitsSong roles = roles.any songRole ∧ p.hitsScene roles = roles.any sceneRole := by
  have hsong : ∀ role, songRole role = true ↔ role = .activeSong ∨ role = .shadowSong := fun role => by
    cases role <;> simp [songRole]
  have hscene : ∀ role, sceneRole role = true ↔ role = .activeScene ∨ role = .shadowScene := fun role => by
    cases role <;> simp [sceneRole]
  refine ⟨Bool.eq_iff_iff.mpr ?_, Bool.eq_iff_iff.mpr ?_⟩
  · rw [hitsSong_iff, List.any_eq_true]
    exact ⟨fun ⟨role, hm, hr, _⟩ => ⟨role, hm, (hsong role).mpr hr⟩, fun ⟨role, hm, hr⟩ => ⟨role, hm, (hsong role).mp hr, h role hm⟩⟩
  · rw [hitsScene_iff, List.any_eq_true]
    exact ⟨fun ⟨role, hm, hr, _⟩ => ⟨role, hm, (hscene role).mpr hr⟩, fun ⟨role, hm, hr⟩ => ⟨role, hm, (hscene role).mp hr, h role hm⟩⟩

theorem mem_allSounds : ∀ i, i ∈ allSounds := by decide

theorem mem_refreshingSounds (i : Fin 4) : i ∈ p.refreshingSounds ↔ p.isRefreshing (.click i) = true := by
  unfold Part.refreshingSounds
  rw [List.mem_filter]
  exact ⟨fun h => h.2, fun h => ⟨mem_allSounds i, h⟩⟩

theorem refreshingSounds_nodup (p : Part) : p.refreshingSounds.Nodup := List.Nodup.filter _ (by decide)

/-- The clicks' part of a write's count: nothing where no click entry is written. -/
theorem countClicks_none : ∀ (l : List (Fin 4)) (p : Part), (∀ i ∈ l, Role.click i ∉ roles) →
    l.foldl (fun p i => if roles.contains (.click i) then p.countClick i else p) p = p
  | [], _, _ => rfl
  | i :: rest, p, h => by
    have hi : ¬roles.contains (.click i) = true := by
      rw [List.contains_iff_mem]
      exact h i (by simp)
    rw [List.foldl_cons, if_neg hi]
    exact countClicks_none rest p fun j hj => h j (by simp [hj])

theorem countClicks_one (i : Fin 4) : ∀ (l : List (Fin 4)) (p : Part), l.Nodup → i ∈ l →
    l.foldl (fun p j => if [Role.click i].contains (.click j) then p.countClick j else p) p = p.countClick i
  | [], _, _, hi => absurd hi (by simp)
  | j :: rest, p, hnd, hi => by
    obtain ⟨hj, hrest⟩ := List.nodup_cons.mp hnd
    rw [List.foldl_cons]
    by_cases hij : j = i
    · subst hij
      rw [if_pos (by simp)]
      refine countClicks_none rest _ fun k hk hc => hj ?_
      have hkj : k = j := by simpa using hc
      exact hkj ▸ hk
    · rw [if_neg (by simp [hij])]
      exact countClicks_one i rest p hrest ((List.mem_cons.mp hi).resolve_left fun h => hij h.symm)

theorem reads_nothing (f : ShadowFetch) : f.reads false false = false ∧ f.waits false false = false := by
  unfold ShadowFetch.reads ShadowFetch.waits
  refine ⟨?_, ?_⟩
  · split
    · rfl
    · split <;> rfl
  · split <;> simp

theorem countShadow_nothing (p : Part) : p.countShadow false false = p := by
  unfold Part.countShadow
  cases p.loader.fetch with
  | none => rfl
  | some f =>
    obtain ⟨hr, hw⟩ := reads_nothing f
    dsimp only
    rw [hr, hw]
    rfl

/-- Records under fetch are counted, not edited (R162). -/
theorem editOne_refreshing (h : p.isRefreshing role = true) : Part.editOne kind p role = p := by
  unfold Part.editOne
  exact if_pos h

theorem foldl_editOne_refreshing : ∀ (roles : List Role), (∀ role ∈ roles, p.isRefreshing role = true) →
    roles.foldl (Part.editOne kind) p = p
  | [], _ => rfl
  | role :: rest, h => by
    rw [List.foldl_cons, editOne_refreshing (h role (by simp))]
    exact foldl_editOne_refreshing rest fun x hx => h x (by simp [hx])

/-- One record written that is not under fetch: it alone is edited. -/
theorem edit_single (h : p.resident role = some e) (hs : e.state ≠ .refreshing) :
    p.edit kind [role] = Part.editOne kind p role := by
  have hrole := not_isRefreshing h hs
  have hsong : p.hitsSong [role] = false := Bool.eq_false_iff.mpr fun hc => by
    obtain ⟨x, hx, -, hr⟩ := hitsSong_iff.mp hc
    exact hrole (List.mem_singleton.mp hx ▸ hr)
  have hscene : p.hitsScene [role] = false := Bool.eq_false_iff.mpr fun hc => by
    obtain ⟨x, hx, -, hr⟩ := hitsScene_iff.mp hc
    exact hrole (List.mem_singleton.mp hx ▸ hr)
  have hclicks : ∀ i ∈ p.refreshingSounds, Role.click i ∉ [role] := fun i hi hm =>
    hrole (List.mem_singleton.mp hm ▸ (mem_refreshingSounds i).mp hi)
  unfold Part.edit Part.countWrite
  dsimp only
  rw [hsong, hscene, countShadow_nothing]
  exact countClicks_none _ _ hclicks

/-- Records under the shadow's fetch written: the write is counted against it. -/
theorem edit_shadow (h : ∀ role ∈ roles, p.isRefreshing role = true) (hno : ∀ i, Role.click i ∉ roles) :
    p.edit kind roles = p.countShadow (p.hitsSong roles) (p.hitsScene roles) := by
  unfold Part.edit Part.countWrite
  rw [foldl_editOne_refreshing roles h]
  exact countClicks_none _ _ fun i _ => hno i

/-- A click sound under fetch written. -/
theorem edit_click (i : Fin 4) (h : p.isRefreshing (.click i) = true) : p.edit kind [.click i] = p.countClick i := by
  have hsong : p.hitsSong [.click i] = false := Bool.eq_false_iff.mpr fun hc => by
    obtain ⟨x, hx, hx', -⟩ := hitsSong_iff.mp hc
    rw [List.mem_singleton.mp hx] at hx'
    rcases hx' with hx' | hx' <;> cases hx'
  have hscene : p.hitsScene [.click i] = false := Bool.eq_false_iff.mpr fun hc => by
    obtain ⟨x, hx, hx', -⟩ := hitsScene_iff.mp hc
    rw [List.mem_singleton.mp hx] at hx'
    rcases hx' with hx' | hx' <;> cases hx'
  unfold Part.edit Part.countWrite
  dsimp only
  rw [foldl_editOne_refreshing [.click i] (by simpa using h), hsong, hscene, countShadow_nothing]
  exact countClicks_one i _ _ (refreshingSounds_nodup p) ((mem_refreshingSounds i).mpr h)

end Hits

/-! ### An edit of a record that is not under fetch (R120, R129, R162) -/

section Edits
variable {p : Part} {role : Role} {e : Resident}

/-- An entry as a Live edit leaves it. -/
def Resident.edited (e : Resident) (rate : SampleRate) : Resident := { e with state := .settling (rate.hz / 1000) }

theorem editLive_eq (h : p.resident role = some e) : p.editLive role =
    if inShadow role = true then (p.putResident role (some (e.edited p.timeline.rate))).shadowEdited
    else p.putResident role (some (e.edited p.timeline.rate)) := by
  unfold Part.editLive Part.setResidentState
  rw [h]
  rfl

/-- The part with the shadow not ready and a held switch cancelled for an edit (R120, R129). -/
def Part.unreadied (p : Part) : Part := { p with loader := { p.loader with
  ready := false, held := none
  late := match p.loader.held with
    | some { cause := .entry target scene cause announced, .. } =>
      some { target := target, scene := scene, cause := cause, waiting := false, atOnce := true, announced := announced }
    | _ => p.loader.late } }

theorem cancelHoldForEdit_eq (p : Part) :
    ({ p with loader := { p.loader with ready := false } } : Part).cancelHoldForEdit = p.unreadied := by
  unfold Part.cancelHoldForEdit Part.unreadied
  dsimp only
  cases hh : p.loader.held with
  | none => rfl
  | some held =>
    obtain ⟨cause, n⟩ := held
    cases cause <;> rfl

theorem shadowEdited_alone (h : p.loader.ready = false ∨ ∀ slot, p.loader.owner ≠ some (.cue slot)) :
    p.shadowEdited = p.unreadied := by
  unfold Part.shadowEdited
  dsimp only
  rw [cancelHoldForEdit_eq]
  split
  · rename_i slot ho
    rcases h with h | h
    · exact if_neg (by rw [h]; exact Bool.false_ne_true)
    · exact absurd ho (h slot)
  · rfl

theorem shadowEdited_working {slot : Fin 32} (hready : p.loader.ready = true) (howner : p.loader.owner = some (.cue slot)) :
    p.shadowEdited = p.unreadied.setWorking slot true := by
  unfold Part.shadowEdited
  dsimp only
  rw [cancelHoldForEdit_eq, show p.unreadied.loader.owner = some (.cue slot) from howner]
  exact if_pos hready

theorem checkReady_ready (h : p.loader.ready = true) : p.checkReady = p := by
  unfold Part.checkReady
  exact if_neg (by simp [h])

theorem makeStale_stale (reason : StaleReason) (h : p.resident role = some e) (hs : e.state = .stale) :
    p.makeStale role reason = p := by
  unfold Part.makeStale
  rw [h]
  exact if_pos hs

end Edits

/-! ### A fetch begun again, or failed at the fourth restart (R118, R119) -/

section Restarts
variable {p : Part} {f : ShadowFetch} {hitSong hitScene : Bool}

/-- An entry with a restart counted, while it is under fetch (R166). -/
def Resident.counted (n : Nat) (e : Resident) : Resident := if e.state = .refreshing then { e with refetch := n } else e

theorem countShadow_restarts (hf : p.loader.fetch = some f) (halso : f.also = false)
    (hreads : f.reads hitSong hitScene = true) (hcount : f.count < 3) :
    p.countShadow hitSong hitScene = p.restartFetch f hitSong := by
  have hwaits : f.waits hitSong hitScene = false := by
    unfold ShadowFetch.waits
    rw [halso]
    rfl
  have hlow : decide (3 ≤ f.count) = false := decide_eq_false (by omega)
  unfold Part.countShadow
  rw [hf]
  dsimp only
  rw [hreads, hwaits, hlow]
  rfl

theorem countShadow_fails (hf : p.loader.fetch = some f) (hreads : f.reads hitSong hitScene = true) (hcount : 3 ≤ f.count) :
    p.countShadow hitSong hitScene = p.fetchFailed .unstable := by
  unfold Part.countShadow
  rw [hf]
  refine if_pos ?_
  rw [hreads, decide_eq_true hcount]
  rfl

theorem restartFetch_load (h : f.songLoad = true) (hitSong : Bool) : p.restartFetch f hitSong =
    (((p.dropFetched f hitSong).setFetch (some (f.restart hitSong))).countEntry .shadowSong (f.count + 1)).countEntry
      .shadowScene (f.count + 1) := by
  unfold Part.restartFetch ShadowFetch.countedRoles
  rw [h]
  rfl

theorem restartFetch_song (h : f.songLoad = false) (hstage : f.role = .shadowSong) (hitSong : Bool) :
    p.restartFetch f hitSong = ((p.setFetch (some (f.restart hitSong))).countEntry .shadowSong (f.count + 1)).countEntry
      .activeSong (f.count + 1) := by
  unfold Part.restartFetch ShadowFetch.countedRoles Part.dropFetched
  rw [h, hstage]
  rfl

theorem restartFetch_scene (h : f.songLoad = false) (hstage : f.role = .shadowScene) (hitSong : Bool) :
    p.restartFetch f hitSong = ((p.setFetch (some (f.restart hitSong))).countEntry .shadowScene (f.count + 1)).countEntry
      .activeScene (f.count + 1) := by
  unfold Part.restartFetch ShadowFetch.countedRoles Part.dropFetched
  rw [h, hstage]
  rfl

theorem restart_song (h : f.songLoad = true) :
    f.restart true = { f with bytes := [], count := f.count + 1, stage := .songIndex, scene := 0, base := 0 } := by
  unfold ShadowFetch.restart
  rw [h]
  rfl

/-- A scene part, or a lookahead's scene, begun again from the index. -/
theorem restart_scene (hstage : f.stage = .sceneRecord) (h : f.indexed = true) :
    f.restart false = { f with bytes := [], count := f.count + 1, stage := .sceneIndex, base := 0 } := by
  have hrole : f.role = .shadowScene := by unfold ShadowFetch.role; rw [hstage]
  unfold ShadowFetch.restart
  rw [hrole, h]
  cases f.songLoad <;> rfl

theorem restart_record (h : f.songLoad = false) (hindex : f.indexed = false) (hitSong : Bool) :
    f.restart hitSong = { f with bytes := [], count := f.count + 1 } := by
  unfold ShadowFetch.restart
  rw [h, hindex]
  rfl

theorem counted_not_refreshing {role : Role} (n : Nat) (h : p.isRefreshing role = false) :
    (p.resident role).map (Resident.counted n) = p.resident role := by
  cases hr : p.resident role with
  | none => rfl
  | some e =>
    have hs : e.state ≠ .refreshing := fun hc =>
      Bool.false_ne_true (h.symm.trans (isRefreshing_iff.mpr ⟨e, hr, hc⟩))
    exact congrArg some (if_neg hs)

/-- The failed fetch of a lookahead (R119). -/
theorem fetchFailed_lookahead {scene : Nat} (howner : p.loader.owner = some (.lookahead scene)) :
    p.fetchFailed .unstable = { p.shadowFreed with
      loader := { p.shadowFreed.loader with trigger := none, late := none }
      notice := p.handed (.sceneBad scene .unstable) } := by
  unfold Part.fetchFailed
  rw [howner]
  exact freeShadow_untriggered _ rfl rfl

/-- The failed fetch of a cue (R119). -/
theorem fetchFailed_cue {a : ArmedCue} (howner : p.loader.owner = some (.cue a.slot))
    (harm : p.cues.arms.find? (fun b => b.slot == a.slot) = some a) (hnone : p.loader.trigger = none ∧ p.loader.late = none) :
    p.fetchFailed .unstable = (p.endCue a .unstable 0).shadowFreed := by
  unfold Part.fetchFailed
  rw [howner]
  dsimp only
  rw [show p.armOf a.slot = some a from harm]
  exact freeShadow_untriggered _ hnone.2 hnone.1

/-- The failed fetch of a refresh: its active record is Stale (R119, R133). -/
theorem fetchFailed_song {next : Bool} (howner : p.loader.owner = some (.refreshSong next)) {e : Resident}
    (he : p.resident .activeSong = some e) (hs : e.state ≠ .stale) (hnone : p.loader.trigger = none ∧ p.loader.late = none) :
    p.fetchFailed .unstable = { p.shadowFreed with
      watch := { p.shadowFreed.watch with residents := { p.shadowFreed.watch.residents with
        activeSong := some { e with state := .stale, refetch := 0 } } }
      notice := p.handed (.recordStale .activeSong e.kind e.number .unstable) } := by
  unfold Part.fetchFailed
  rw [howner]
  dsimp only
  rw [show CueOutcome.stale .unstable = .unstable from rfl, makeStale_journals .unstable he hs]
  exact freeShadow_untriggered _ hnone.2 hnone.1

theorem fetchFailed_scene (howner : p.loader.owner = some .refreshScene) {e : Resident}
    (he : p.resident .activeScene = some e) (hs : e.state ≠ .stale) (hnone : p.loader.trigger = none ∧ p.loader.late = none) :
    p.fetchFailed .unstable = { p.shadowFreed with
      watch := { p.shadowFreed.watch with residents := { p.shadowFreed.watch.residents with
        activeScene := some { e with state := .stale, refetch := 0 } } }
      notice := p.handed (.recordStale .activeScene e.kind e.number .unstable) } := by
  unfold Part.fetchFailed
  rw [howner]
  dsimp only
  rw [show CueOutcome.stale .unstable = .unstable from rfl, makeStale_journals .unstable he hs]
  exact freeShadow_untriggered _ hnone.2 hnone.1

/-- A click sound's fetch begun again, or failed (R52, R118). -/
theorem countClick_cases (i : Fin 4) {g : ClickFetch} {e : Resident} (hf : p.loader.clickFetches[i] = some g)
    (he : p.resident (.click i) = some e) (hs : e.state ≠ .stale) :
    (e.refetch < 3 → p.countClick i = (p.setClickFetch i (some { g with done := 0 })).putResident (.click i)
      (some { e with refetch := e.refetch + 1 })) ∧
    (3 ≤ e.refetch → p.countClick i = { p with
      watch := { p.watch with residents := p.watch.residents.put (.click i) (some { e with state := .stale, refetch := 0 }) }
      click := { p.click with sounds := p.click.sounds.set i { samples := [], length := 0 } }
      loader := { p.loader with clickFetches := p.loader.clickFetches.set i none }
      notice := p.handed (.recordStale (.click i) e.kind e.number .unstable) }) := by
  unfold Part.countClick
  rw [hf, he]
  refine ⟨fun h => if_pos h, fun h => (if_neg (Nat.not_lt.mpr h)).trans ?_⟩
  exact makeStale_journals (p := { p.setClickFetch i none with
    click := p.click.setSound i { samples := [], length := 0 } }) .unstable he hs

end Restarts

/-! ### The decision (R161 to R164) -/

section Records
variable {p : Part} {address : Nat}

theorem writeRecords_guarded (h : p.touched address ≠ []) (hk : p.watch.region.effective address = .guarded) :
    p.writeRecords address = (p.guardRefuse (p.touched address) address false, false) := by
  unfold Part.writeRecords
  dsimp only
  rw [if_neg (fun hc => h (List.isEmpty_iff.mp hc)), hk]

theorem writeRecords_edits (h : p.touched address ≠ [])
    (hk : p.watch.region.effective address = .live ∨ p.watch.region.effective address = .staged) :
    p.writeRecords address = (p.edit (p.watch.region.effective address) (p.touched address), true) := by
  unfold Part.writeRecords
  dsimp only
  rw [if_neg (fun hc => h (List.isEmpty_iff.mp hc))]
  rcases hk with hk | hk <;> rw [hk]

end Records

/-- A cue made Working, with nothing in the write list (R143). -/
theorem setWorking_true (p : Part) (slot : Fin 32) (hw : p.cues.writes = []) : p.setWorking slot true = { p with
    cues := { p.cues with
      arms := p.cues.arms.map fun b => if b.slot = slot then { b with working := true } else b
      writes := [stateItem slot true] }
    watch := { p.watch with owners := p.watch.owners.set slot (.engine .working) } } := by
  unfold Part.setWorking Part.mapArm Part.setOwner Part.queueState Part.queueItem
  dsimp only
  rw [hw]
  rfl

/-- A Staged edit: Stale and journaled, where the record was not Stale before (R162). -/
theorem editStaged_cases {p : Part} {role : Role} {e : Resident} (he : p.resident role = some e)
    (hready : inShadow role = true → p.loader.ready = true) :
    (e.state ≠ .stale → p.editStaged role = { p with
      watch := { p.watch with residents := p.watch.residents.put role (some { e with state := .stale, refetch := 0 }) }
      notice := p.handed (.recordStale role e.kind e.number .staged) }) ∧
    (e.state = .stale → p.editStaged role = p) := by
  have hcheck : ∀ q : Part, q.loader = p.loader → (if inShadow role = true then q.checkReady else q) = q := by
    intro q hq
    by_cases hsh : inShadow role = true
    · rw [if_pos hsh, checkReady_ready (by rw [hq]; exact hready hsh)]
    · exact if_neg hsh
  refine ⟨fun hs => ?_, fun hs => ?_⟩
  · exact (congrArg (fun q : Part => if inShadow role = true then q.checkReady else q)
      (makeStale_journals .staged he hs)).trans (hcheck _ rfl)
  · exact (congrArg (fun q : Part => if inShadow role = true then q.checkReady else q)
      (makeStale_stale .staged he hs)).trans (hcheck p rfl)

/-- Settles O48: the write's branch, and for a watched record its entry's state. -/
theorem watchDecidesHostWrites : Obligations.WatchDecidesHostWrites := by
  unfold Obligations.WatchDecidesHostWrites
  intro address d s wf hfree hrun p at_ kind outside refused took r holds holding settling stale
  have records : outside → s.decided address d = p.hostGranted.writeRecords at_ := fun ⟨ha, hboard, htaken⟩ =>
    (decideWrite_beyond (p := p.hostGranted) hrun ha hboard).2 (takenHalf_none htaken)
  have edits : outside → ∀ roles, p.touched at_ = roles → roles ≠ [] → kind = .live ∨ kind = .staged →
      ∀ q, p.hostGranted.edit kind roles = q → took q := by
    intro hout roles ht hne hk q hq
    subst ht
    have hd := (records hout).trans (writeRecords_edits (p := p.hostGranted) hne hk)
    exact exec_hostWrite_performs wf hfree (hd.trans (congrArg (fun x : Part => (x, true)) hq))
  refine ⟨fun ha => ?_, fun hout ht hk => ?_, fun role e hout ht he hs => ?_, fun i e f hout ht he hs hf hk => ?_,
    fun f hout hf halso hk hrefreshing => ?_⟩
  · exact exec_hostWrite_refused hfree (decideWrite_directory (p := p.hostGranted) hrun ha)
  · exact exec_hostWrite_refused hfree ((records hout).trans (writeRecords_guarded (p := p.hostGranted) ht hk))
  · intro shadow unready
    have hshadow : inShadow role = true ↔ shadow := by
      show _ ↔ role = .shadowSong ∨ role = .shadowScene
      cases role <;> simp [inShadow]
    have edited : kind = .live ∨ kind = .staged → ∀ q, Part.editOne kind p.hostGranted role = q → took q := fun hk q hq =>
      edits hout [role] ht (by simp) hk q ((edit_single (p := p.hostGranted) he hs).trans hq)
    have hnot := not_isRefreshing (p := p.hostGranted) he hs
    have hlive := editLive_eq (p := p.hostGranted) he
    have live : ∀ q, kind = .live → p.hostGranted.editLive role = q → took q := fun q hk hq =>
      edited (.inl hk) q (by
        rw [hk]
        exact (if_neg hnot).trans hq)
    refine ⟨fun hk hno => live _ hk (hlive.trans (if_neg fun hc => hno (hshadow.mp hc))), fun hk hsh hready => live _ hk ?_,
      fun slot hk hsh hready howner hw => live _ hk ?_, fun hk hready => ?_⟩
    · exact (hlive.trans (if_pos (hshadow.mpr hsh))).trans
        (shadowEdited_alone (p := p.hostGranted.putResident role (some (e.edited p.timeline.rate))) hready)
    · exact ((hlive.trans (if_pos (hshadow.mpr hsh))).trans
        (shadowEdited_working (p := p.hostGranted.putResident role (some (e.edited p.timeline.rate))) hready howner)).trans
        (setWorking_true _ slot hw)
    · obtain ⟨h1, h2⟩ := editStaged_cases (p := p.hostGranted) he fun hsh => hready (hshadow.mp hsh)
      have staged : ∀ q, p.hostGranted.editStaged role = q → took q := fun q hq => edited (.inr hk) q (by
        rw [hk]
        exact (if_neg hnot).trans hq)
      exact ⟨fun hs => staged _ (h1 hs), fun hs => staged _ (h2 hs)⟩
  · have hclick := edit_click (p := p.hostGranted) (kind := kind) i (isRefreshing_iff.mpr ⟨e, he, hs⟩)
    obtain ⟨h1, h2⟩ := countClick_cases (p := p.hostGranted) i hf he (by rw [hs]; exact fun h => nomatch h)
    exact ⟨fun h => edits hout _ ht (by simp) hk _ (hclick.trans (h1 h)),
      fun h => edits hout _ ht (by simp) hk _ (hclick.trans (h2 h))⟩
  · intro counted again fromSong fromScene songs scenes both freed noneWaits
    have refreshes : ∀ roles, p.touched at_ = roles → ∀ role ∈ roles, p.isRefreshing role = true := fun roles ht role hr =>
      hrefreshing role (ht ▸ hr)
    have counts : ∀ roles, p.touched at_ = roles → roles ≠ [] → (∀ i, Role.click i ∉ roles) →
        f.reads (roles.any songRole) (roles.any sceneRole) = true →
        (f.count < 3 → ∀ q, p.hostGranted.restartFetch f (roles.any songRole) = q → took q) ∧
        (3 ≤ f.count → ∀ q, p.hostGranted.fetchFailed .unstable = q → took q) := by
      intro roles ht hne hno hreads
      have hedit := edit_shadow (p := p.hostGranted) (kind := kind) (refreshes roles ht) hno
      obtain ⟨hsong, hscene⟩ := hits_refreshing (p := p.hostGranted) (refreshes roles ht)
      rw [hsong, hscene] at hedit
      exact ⟨fun hc q hq => edits hout roles ht hne hk q
          (hedit.trans ((countShadow_restarts (p := p.hostGranted) hf halso hreads hc).trans hq)),
        fun hc q hq => edits hout roles ht hne hk q
          (hedit.trans ((countShadow_fails (p := p.hostGranted) hf hreads hc).trans hq))⟩
    have hcounted : ∀ e : Option Resident, e.map (Resident.counted (f.count + 1)) = counted e := fun _ => rfl
    refine ⟨fun scene howner hload hindex hstage ht hactive => ?_, fun a howner hload hindex => ?_,
      fun next e howner hload hindex hstage ht he => ?_, fun e howner hload hindex hstage ht he => ?_⟩
    · have hrole : f.role = .shadowScene := by unfold ShadowFetch.role; rw [hstage]
      obtain ⟨h1, h2⟩ := counts [.shadowScene] ht (by simp) (by simp) (by
        unfold ShadowFetch.reads
        rw [hload, hrole]; rfl)
      refine ⟨fun hc => h1 hc _ ?_, fun hc => h2 hc _ (fetchFailed_lookahead (p := p.hostGranted) howner)⟩
      rw [restartFetch_scene hload hrole]
      have hsame : counted r.activeScene = r.activeScene := counted_not_refreshing (p := p) (f.count + 1) hactive
      have hrestart : f.restart ([Role.shadowScene].any songRole) = _ := restart_scene hstage hindex
      rw [hrestart]
      show ({ p.hostGranted with
        loader := { p.loader with fetch := _ }
        watch := holds { r with shadowScene := counted r.shadowScene, activeScene := counted r.activeScene } } : Part) = _
      rw [hsame]
    · have fits : ∀ hitSong hitScene, (hitSong || hitScene) = true → f.reads hitSong hitScene = true := fun _ _ h => by
        unfold ShadowFetch.reads
        rw [hload]
        exact h
      refine ⟨fun ht hc => ?_, fun ht hstage hc => ?_, fun ht hc harm hnone hw => ?_⟩
      · refine (counts [.shadowSong] ht (by simp) (by simp) (fits _ _ rfl)).1 hc _ ?_
        rw [restartFetch_load hload]
        have hrestart : f.restart ([Role.shadowSong].any songRole) = _ := restart_song hload
        have hdrop : p.hostGranted.dropFetched f ([Role.shadowSong].any songRole) =
            { p.hostGranted with loader := { p.loader with shadowSong := none } } := by
          unfold Part.dropFetched
          rw [hload]
          rfl
        rw [hrestart, hdrop]
        rfl
      · refine (counts [.shadowScene] ht (by simp) (by simp) (fits _ _ rfl)).1 hc _ ?_
        rw [restartFetch_load hload]
        have hrestart : f.restart ([Role.shadowScene].any songRole) = _ := restart_scene hstage hindex
        have hdrop : p.hostGranted.dropFetched f ([Role.shadowScene].any songRole) = p.hostGranted := by
          unfold Part.dropFetched
          rw [hload]
          rfl
        rw [hrestart, hdrop]
        rfl
      · have hfail := fetchFailed_cue (p := p.hostGranted) howner harm hnone
        have hqueue : queueWrite (resultItem p.stamp a.slot .unstable a.missed .refused a.notify) p.cues.writes = _ :=
          (congrArg _ hw).trans rfl
        have hend : p.hostGranted.endCue a .unstable 0 = { p.hostGranted with
            cues := { p.cues with
              arms := p.cues.arms.filter fun b => b.slot != a.slot
              writes := [resultItem p.stamp a.slot .unstable a.missed .refused a.notify] }
            watch := { p.watch with owners := p.watch.owners.set a.slot .host } } :=
          congrArg (fun l => ({ p.hostGranted with
            cues := { p.cues with arms := p.cues.arms.filter fun b => b.slot != a.slot, writes := l }
            watch := { p.watch with owners := p.watch.owners.set a.slot .host } } : Part)) hqueue
        rw [hend] at hfail
        rcases ht with ht | ht
        · exact (counts [.shadowSong] ht (by simp) (by simp) (fits _ _ rfl)).2 hc _ hfail
        · exact (counts [.shadowScene] ht (by simp) (by simp) (fits _ _ rfl)).2 hc _ hfail
    · have hrole : f.role = .shadowSong := by unfold ShadowFetch.role; rw [hstage]
      obtain ⟨d, hd, hs⟩ := isRefreshing_iff.mp (refreshes _ ht .activeSong (by simp))
      obtain rfl := Option.some.inj (hd.symm.trans he)
      obtain ⟨h1, h2⟩ := counts [.activeSong, .shadowSong] ht (by simp) (by simp) (by
        unfold ShadowFetch.reads
        rw [hload, hrole]; rfl)
      refine ⟨fun hc => h1 hc _ ?_, fun hc hnone => h2 hc _
        (fetchFailed_song (p := p.hostGranted) howner he (by rw [hs]; exact fun h => nomatch h) hnone)⟩
      rw [restartFetch_song hload hrole, restart_record hload hindex]
      rfl
    · have hrole : f.role = .shadowScene := by unfold ShadowFetch.role; rw [hstage]
      obtain ⟨d, hd, hs⟩ := isRefreshing_iff.mp (refreshes _ ht .activeScene (by simp))
      obtain rfl := Option.some.inj (hd.symm.trans he)
      obtain ⟨h1, h2⟩ := counts [.activeScene, .shadowScene] ht (by simp) (by simp) (by
        unfold ShadowFetch.reads
        rw [hload, hrole]; rfl)
      refine ⟨fun hc => h1 hc _ ?_, fun hc hnone => h2 hc _
        (fetchFailed_scene (p := p.hostGranted) howner he (by rw [hs]; exact fun h => nomatch h) hnone)⟩
      rw [restartFetch_scene hload hrole, restart_record hload hindex]
      rfl

end Sys2Proof.Machine
end

section
/-! PROOFS. Fetches: the granted word, click sounds read whole, and the words that fail a fetch (3.4, 8.3, 10.5). -/

namespace Sys2Proof.Machine

/-! ### The fetch engine's word (R115) -/

section Words
variable {s : State} {turn : Fin 5} {f : ShadowFetch} {g : ClickFetch}

/-- The part as a word of a fetch finds it: the loader's grant and the rotation of the fetches passed on. -/
def Part.fetchTurn (p : Part) (turn : Fin 5) : Part := (p.markGrant .sceneLoader).passTurn turn

theorem loaderAccess_shadow {p : Part} (hst : p.starting = .none) (hturn : p.loader.nextTurn = some turn)
    (hunit : FetchUnit.ofTurn turn = .shadow) (hf : p.loader.fetch = some f) :
    p.accessOf .sceneLoader = some (.shadowWord turn f) := by
  show p.loaderAccess = _
  unfold Part.loaderAccess
  rw [hst]
  dsimp only
  rw [hturn]
  dsimp only
  rw [hunit, hf]
  rfl

theorem loaderAccess_click {p : Part} {i : Fin 4} (hst : p.starting = .none) (hturn : p.loader.nextTurn = some turn)
    (hunit : FetchUnit.ofTurn turn = .click i) (hf : p.loader.clickFetches[i] = some g) :
    p.accessOf .sceneLoader = some (.clickWord turn i g) := by
  show p.loaderAccess = _
  unfold Part.loaderAccess
  rw [hst]
  dsimp only
  rw [hturn]
  dsimp only
  rw [hunit]
  dsimp only
  rw [hf]
  rfl

/-- A word of a fetch granted while Running: it acts on the part, and the drain's test does nothing. -/
theorem engineGrant_word {access : EngineAccess} (hrun : s.part.engine = .running)
    (hnext : s.part.nextGrant = some (.sceneLoader, access)) (hwrites : s.part.accessWrites s.order access = none)
    (hsteady : ∀ read, access ≠ .directoryWord read) :
    let word := s.mem.readWord (s.part.accessAddress access)
    s.engineGrant = { s with part := (s.part.markGrant .sceneLoader).accessEffect s.order word access } := by
  refine (engineGrant_of_next hnext).trans (carryOut_read (by rw [markGrant_writes, hwrites]) (drainTest_of_not_stopping ?_))
  have hs := accessEffect_steady (p := s.part.markGrant .sceneLoader) s.order (s.mem.readWord (s.part.accessAddress access)) hsteady
  rcases hs.1 with h | ⟨h, -⟩
  · rw [h, show (s.part.markGrant .sceneLoader).engine = .running from hrun]
    decide
  · rw [show (s.part.markGrant .sceneLoader).engine = .running from hrun] at h
    cases h

/-- What is granted to the loader for the shadow's fetch, as the part that it makes. -/
theorem shadow_word (hrun : s.part.engine = .running) (hfirst : s.part.arbiter.rotation = .sceneLoader)
    (hst : s.part.starting = .none) (hturn : s.part.loader.nextTurn = some turn) (hunit : FetchUnit.ofTurn turn = .shadow)
    (hf : s.part.loader.fetch = some f) :
    let word := s.mem.readWord (f.address s.part.layout)
    let q := (s.part.fetchTurn turn).shadowWord s.order f word
    exec .engineWordAccess s = .next { s with part := q } ∧
      (f.endsWith s.order word = true → exec .fetchComplete s = .next { s with part := q }) := by
  have hnext := nextGrant_first (p := s.part) (access := .shadowWord turn f) (by
    rw [hfirst]; exact loaderAccess_shadow hst hturn hunit hf)
  rw [hfirst] at hnext
  have hgrant := engineGrant_word hrun hnext rfl fun _ h => nomatch h
  refine ⟨congrArg _ hgrant, fun hends => congrArg Host.Outcome.next (Eq.trans ?_ hgrant)⟩
  exact (grantIf_of_next hnext hends).trans (engineGrant_of_next hnext).symm

theorem click_word {i : Fin 4} (hrun : s.part.engine = .running) (hfirst : s.part.arbiter.rotation = .sceneLoader)
    (hst : s.part.starting = .none) (hturn : s.part.loader.nextTurn = some turn) (hunit : FetchUnit.ofTurn turn = .click i)
    (hf : s.part.loader.clickFetches[i] = some g) (hlast : g.words ≤ g.done + 1) :
    let word := s.mem.readWord (g.base + 4 * g.done)
    let q := (s.part.fetchTurn turn).clickWord s.order i g word
    exec .fetchComplete s = .next { s with part := q } := by
  have hnext := nextGrant_first (p := s.part) (access := .clickWord turn i g) (by
    rw [hfirst]; exact loaderAccess_click hst hturn hunit hf)
  rw [hfirst] at hnext
  have hgrant := engineGrant_word hrun hnext rfl fun _ h => nomatch h
  exact congrArg _ (((grantIf_of_next hnext (decide_eq_true hlast)).trans (engineGrant_of_next hnext).symm).trans hgrant)

end Words

/-! ### A click sound read whole (R43, R51, R52) -/

section Clicks
variable {p : Part} {i : Fin 4} {g : ClickFetch} {e : Resident} {order : ByteOrder}

theorem putSample_getD : ∀ (l : List Halfword) (n k : Nat) (v : Halfword),
    (putSample l n v).getD k 0 = if k = n then v else l.getD k 0
  | [], 0, 0, _ => rfl
  | [], 0, k + 1, v => by simp [putSample]
  | [], n + 1, 0, v => by simp [putSample]
  | [], n + 1, k + 1, v => by simpa [putSample] using putSample_getD [] n k v
  | x :: rest, 0, 0, _ => rfl
  | x :: rest, 0, k + 1, v => by simp [putSample]
  | x :: rest, n + 1, 0, v => by simp [putSample]
  | x :: rest, n + 1, k + 1, v => by simpa [putSample] using putSample_getD rest n k v

/-- A sample as its two bytes spell it in the strap's order. -/
theorem sampleOf_eq (order : ByteOrder) (a b : Byte) :
    sampleOf order a b = match order with | .leastFirst => b ++ a | .mostFirst => a ++ b := by
  have hvalue : ∀ x y : Byte, BitVec.ofNat 16 (leastFirstValue [x, y]) = (y ++ x : Halfword) := by
    intro x y
    have hx := x.isLt
    have hy := y.isLt
    apply BitVec.eq_of_toNat_eq
    rw [BitVec.toNat_append, ← Nat.shiftLeft_add_eq_or_of_lt hx, Nat.shiftLeft_eq, BitVec.toNat_ofNat]
    simp only [leastFirstValue]
    omega
  cases order with
  | leastFirst => exact hvalue a b
  | mostFirst => exact hvalue b a

/-- The samples after the last word of a sound of a length. -/
theorem storeWord_samples (sound : Sound) (bytes : List Byte) (hlast : g.done + 1 = g.words) :
    let samples := (sound.storeWord order g bytes).samples
    samples.getD (2 * g.done) 0 = sampleOf order (byteAt bytes 0) (byteAt bytes 1) ∧
      (g.length % 2 = 0 → samples.getD (2 * g.done + 1) 0 = sampleOf order (byteAt bytes 2) (byteAt bytes 3)) ∧
      ∀ k, k < 2 * g.done → samples.getD k 0 = sound.samples.getD k 0 := by
  unfold Sound.storeWord
  dsimp only
  by_cases hodd : g.done + 1 = g.words ∧ g.length % 2 = 1
  · rw [if_pos hodd]
    refine ⟨(putSample_getD _ _ _ _).trans (if_pos rfl), fun h => by omega, fun k hk => ?_⟩
    exact (putSample_getD _ _ _ _).trans (if_neg (by omega))
  · rw [if_neg hodd]
    refine ⟨?_, fun _ => (putSample_getD _ _ _ _).trans (if_pos rfl), fun k hk => ?_⟩
    · exact (putSample_getD _ _ _ _).trans ((if_neg (by omega)).trans ((putSample_getD _ _ _ _).trans (if_pos rfl)))
    · exact (putSample_getD _ _ _ _).trans ((if_neg (by omega)).trans ((putSample_getD _ _ _ _).trans (if_neg (by omega))))

/-- The part with a click sound's fetch over, and the click generator as given. -/
def Part.soundRead (p : Part) (i : Fin 4) (c : ClickGen) : Part :=
  { p with click := c, loader := { p.loader with clickFetches := p.loader.clickFetches.set i none } }

/-- The last word of a load or a refresh of a click sound (R51, R52). -/
theorem clickWord_last (bytes : List Byte) (hlast : g.done + 1 = g.words) (hkind : g.kind ≠ .starting)
    (he : p.watch.residents.clicks[i] = some e) :
    p.clickWord order i g bytes = { p with
      notice := if g.kind = .refresh then p.handed (.recordRefreshed (.click i) .click i.val) else p.notice
      click := p.click.setSound i { samples := ((p.click.sounds[i]).storeWord order g bytes).samples, length := g.length }
      loader := { p.loader with clickFetches := p.loader.clickFetches.set i none }
      watch := { p.watch with residents := { p.watch.residents with
        clicks := p.watch.residents.clicks.set i (some { e with state := .current, refetch := 0 }) } } } := by
  have hsound : ∀ x : Sound, ((p.click.setSound i x).sounds[i]) = x := fun x => by
    show (p.click.sounds.set i x)[i] = x
    simp
  have hset : ∀ x y : Sound, (p.click.setSound i x).setSound i y = p.click.setSound i y := fun x y => by
    unfold ClickGen.setSound
    dsimp only
    congr 1
    exact Vector.set_set _ _
  have hcurrent : ∀ q : Part, q.watch = p.watch → q.makeCurrent (.click i) =
      q.putResident (.click i) (some { e with state := .current, refetch := 0 }) := by
    intro q hq
    unfold Part.makeCurrent
    rw [show q.resident (.click i) = some e from by unfold Part.resident; rw [hq]; exact he]
    rfl
  have hstored : ({ p.click.setSound i ((p.click.sounds[i]).storeWord order g bytes) with } : ClickGen).setSound i
      { (p.click.setSound i ((p.click.sounds[i]).storeWord order g bytes)).sounds[i] with length := g.length } =
      p.click.setSound i { samples := ((p.click.sounds[i]).storeWord order g bytes).samples, length := g.length } := by
    rw [hsound]
    exact hset _ _
  unfold Part.clickWord
  dsimp only
  rw [if_neg (by omega)]
  unfold Part.clickFetched
  dsimp only at hstored ⊢
  cases hk : g.kind with
  | starting => exact absurd hk hkind
  | load =>
    simp only [reduceCtorEq, if_false]
    refine (congrArg (fun c => (p.soundRead i c).makeCurrent (.click i)) hstored).trans ?_
    exact hcurrent (p.soundRead i _) rfl
  | refresh =>
    simp only [if_true]
    refine (congrArg (fun c => ((p.soundRead i c).makeCurrent (.click i)).journal (.recordRefreshed (.click i) .click i.val))
      hstored).trans ?_
    exact congrArg (Part.journal · (.recordRefreshed (.click i) .click i.val)) (hcurrent (p.soundRead i _) rfl)

end Clicks

/-! ### The words that fail a fetch (R116) -/

section Checks
variable {f : ShadowFetch} {order : ByteOrder} {word bytes : List Byte} {base : Nat} {start : Option Nat}

/-- An index entry names no place for a header of a size (R116). -/
def namesNowhere (place header : Nat) : Prop := place = 0 ∨ place % 4 ≠ 0 ∨ 0x3FFFF < place + header - 1

theorem badPlace_of {place header : Nat} (h : namesNowhere place header) : badPlace place header = true := by
  have hram : Config.ramBytes = 262144 := rfl
  have hfits : fitsRam place header = true ↔ place + header ≤ 262144 := fitsRam_iff
  unfold badPlace
  rw [Bool.or_eq_true, Bool.or_eq_true, beq_iff_eq, bne_iff_ne, Bool.not_eq_true', ← Bool.not_eq_true, hfits]
  rcases h with h | h | h
  · exact .inl (.inl h)
  · exact .inl (.inr h)
  · exact .inr (by omega)

theorem step_songIndex_fails (hs : f.stage = .songIndex) (h : namesNowhere (fieldValue order word) 16) :
    f.step order word = .failed .badSong := by
  unfold ShadowFetch.step
  rw [hs]
  exact if_pos (badPlace_of h)

theorem step_sceneIndex_fails (hs : f.stage = .sceneIndex) (h : namesNowhere (fieldValue order word) 8) :
    f.step order word = .failed .badScene := by
  unfold ShadowFetch.step
  rw [hs]
  exact if_pos (badPlace_of h)

theorem step_song_fails {outcome : CueOutcome} (hs : f.stage = .songRecord)
    (h : songCheck f.base f.start (f.bytes ++ word) = some outcome) : f.step order word = .failed outcome := by
  unfold ShadowFetch.step
  rw [hs]
  show f.songWord order (f.bytes ++ word) = _
  unfold ShadowFetch.songWord
  dsimp only
  rw [h]

theorem step_scene_fails {outcome : CueOutcome} (hs : f.stage = .sceneRecord)
    (h : sceneCheck f.base (f.bytes ++ word) = some outcome) : f.step order word = .failed outcome := by
  unfold ShadowFetch.step
  rw [hs]
  show f.sceneWord (f.bytes ++ word) = _
  unfold ShadowFetch.sceneWord
  dsimp only
  rw [h]

/-- The counts of a song's first word are outside their ranges (R116). -/
def songCountsBad (base count : Nat) : Prop := count = 0 ∨ 16 < count ∨ 0x3FFFF < base + (16 + 16 * count) - 1

theorem songCountsBad_iff (base count : Nat) :
    songCountsBad base count ↔ count = 0 ∨ 16 < count ∨ (!fitsRam base (songLength count)) = true := by
  have hfits : fitsRam base (songLength count) = true ↔ base + (16 + 16 * count) ≤ 262144 := fitsRam_iff
  rw [Bool.not_eq_true', ← Bool.not_eq_true, hfits]
  unfold songCountsBad
  omega

theorem songCheck_counts (h4 : bytes.length = 4) (h : songCountsBad base (numAt bytes 0)) :
    songCheck base start bytes = some .badSong := by
  unfold songCheck
  dsimp only
  rw [if_pos h4, if_pos ((songCountsBad_iff _ _).mp h)]

theorem songCheck_start {n : Nat} (h4 : bytes.length = 4) (hok : ¬songCountsBad base (numAt bytes 0))
    (h : numAt bytes 0 ≤ n) : songCheck base (some n) bytes = some .badParam := by
  unfold songCheck
  dsimp only
  rw [if_pos h4, if_neg (fun hc => hok ((songCountsBad_iff _ _).mpr hc))]
  exact if_pos (decide_eq_true h)

theorem songCheck_section (h16 : 16 < bytes.length) (h4 : bytes.length % 16 = 4)
    (h : numAt bytes (bytes.length - 2) ∉ [1, 2, 3, 4, 6]) : songCheck base start bytes = some .badSong := by
  unfold songCheck
  dsimp only
  rw [if_neg (by omega), if_pos ⟨h16, h4⟩]
  exact if_neg fun hc => h (List.contains_iff_mem.mp hc)

theorem sceneCheck_counts (h4 : bytes.length = 4) (h : numAt bytes 0 = 0 ∨ 8 < numAt bytes 0 ∨ 32 < numAt bytes 1 ∨
      0x3FFFF < base + (8 + 16 * numAt bytes 0 + 4 * numAt bytes 1) - 1) : sceneCheck base bytes = some .badScene := by
  have hfits : fitsRam base (sceneLength (numAt bytes 0) (numAt bytes 1)) = true ↔
      base + (8 + 16 * numAt bytes 0 + 4 * numAt bytes 1) ≤ 262144 := fitsRam_iff
  unfold sceneCheck
  dsimp only
  rw [if_pos h4, if_pos]
  rw [Bool.not_eq_true', ← Bool.not_eq_true, hfits]
  omega

theorem expandSetup_length (bytes : List Byte) (o : Nat) :
    (expandSetup bytes o).length = if numAt bytes (o + 1) = 1 then 2 else 1 := by
  unfold expandSetup
  dsimp only
  split
  · rename_i h; rw [h]; rfl
  · rename_i h; rw [h]; rfl
  · rename_i h0 h1; exact (if_neg h1).symm

theorem expandSetups_length (bytes : List Byte) (layers setups : Nat) : (expandSetups bytes layers setups).length =
    ((List.range setups).map fun j => if numAt bytes (8 + 16 * layers + 4 * j + 1) = 1 then 2 else 1).sum := by
  unfold expandSetups
  rw [List.length_flatMap]
  congr 1
  exact List.map_congr_left fun j _ => expandSetup_length bytes (sceneLength layers j)

theorem sceneCheck_setup (h4 : bytes.length ≠ 4) (hlong : 8 + 16 * numAt bytes 0 < bytes.length)
    (h : 2 < numAt bytes (bytes.length - 3) ∨
      32 < (expandSetups bytes (numAt bytes 0) ((bytes.length - (8 + 16 * numAt bytes 0)) / 4)).length) :
    sceneCheck base bytes = some .badScene := by
  unfold sceneCheck
  dsimp only
  rw [if_neg h4, if_pos (show sceneLength (numAt bytes 0) 0 < bytes.length from hlong)]
  exact if_pos h

end Checks

/-! ### What a failed fetch leaves (R119) -/

section Failed
variable {p q : Part} {f : ShadowFetch} {order : ByteOrder} {word : List Byte} {outcome : CueOutcome}

theorem shadowWord_fails (h : f.step order word = .failed outcome) : p.shadowWord order f word = p.fetchFailed outcome := by
  unfold Part.shadowWord
  rw [h]

/-- The shadow freed with no section entry waiting: the standing trigger is acted on (R114, R121). -/
theorem freeShadow_triggers (h : p.loader.late = none) : p.shadowFreed.triggered p.freeShadow :=
  (freeShadow_frees p).1 fun w hw => by rw [h] at hw; cases hw

theorem fetchFailed_of_cue {a : ArmedCue} (howner : p.loader.owner = some (.cue a.slot))
    (harm : p.cues.arms.find? (fun b => b.slot == a.slot) = some a) : p.fetchFailed outcome = (p.endCue a outcome 0).freeShadow := by
  unfold Part.fetchFailed
  rw [howner]
  dsimp only
  rw [show p.armOf a.slot = some a from harm]

theorem fetchFailed_of_lookahead {scene : Nat} (howner : p.loader.owner = some (.lookahead scene)) (h : outcome.bad = .invalid) :
    p.fetchFailed outcome = { p.shadowFreed with
      loader := { p.shadowFreed.loader with trigger := none, late := none }
      notice := p.handed (.sceneBad scene .invalid) } := by
  unfold Part.fetchFailed
  rw [howner]
  dsimp only
  rw [h]
  exact freeShadow_untriggered _ rfl rfl

theorem fetchFailed_of_song {next : Bool} (howner : p.loader.owner = some (.refreshSong next)) :
    p.fetchFailed outcome = (p.makeStale .activeSong outcome.stale).freeShadow := by
  unfold Part.fetchFailed
  rw [howner]

theorem fetchFailed_of_scene (howner : p.loader.owner = some .refreshScene) :
    p.fetchFailed outcome = (p.makeStale .activeScene outcome.stale).freeShadow := by
  unfold Part.fetchFailed
  rw [howner]

/-- A cue ended with nothing in the write list (R144). -/
theorem endCue_alone (a : ArmedCue) (hw : p.cues.writes = []) : p.endCue a outcome 0 = { p with
    cues := { p.cues with
      arms := p.cues.arms.filter fun b => b.slot != a.slot
      writes := [resultItem p.stamp a.slot outcome a.missed outcome.final a.notify] }
    watch := { p.watch with owners := p.watch.owners.set a.slot .host } } := by
  have hqueue : queueWrite (resultItem p.stamp a.slot outcome a.missed outcome.final a.notify) p.cues.writes = _ :=
    (congrArg _ hw).trans rfl
  exact congrArg (fun l => ({ p with
    cues := { p.cues with arms := p.cues.arms.filter fun b => b.slot != a.slot, writes := l }
    watch := { p.watch with owners := p.watch.owners.set a.slot .host } } : Part)) hqueue

end Failed

end Sys2Proof.Machine
end

section
/-! PROOFS. Fetches completed: readiness, a SongLoad's two parts, and refreshes swapped in (8.3, 8.7, 2.7). -/

namespace Sys2Proof.Machine

/-! ### The end of a fetch (R115, R120) -/

section Ends
variable {p : Part} {f : ShadowFetch} {role : Role} {slot : Fin 32}

/-- An entry as the end of its fetch leaves it (R166). -/
def Resident.finished (e : Resident) : Resident :=
  if e.state = .refreshing then { e with state := .current, refetch := 0 } else e

theorem putResident_self (p : Part) (role : Role) : p.putResident role (p.resident role) = p := by
  cases role with
  | click i =>
    unfold Part.putResident Part.resident ResidentSet.put ResidentSet.get
    dsimp only
    rw [show p.watch.residents.clicks.set i p.watch.residents.clicks[i] = p.watch.residents.clicks from
      Vector.set_getElem_self _]
  | _ => rfl

theorem finishEntry_eq (p : Part) (role : Role) :
    p.finishEntry role = p.putResident role ((p.resident role).map Resident.finished) := by
  unfold Part.finishEntry
  by_cases h : p.isRefreshing role = true
  · obtain ⟨e, he, hs⟩ := isRefreshing_iff.mp h
    rw [if_pos h]
    unfold Part.makeCurrent
    rw [he]
    exact congrArg (fun x => p.putResident role (some x)) (if_pos hs).symm
  · rw [if_neg h]
    have hsame : (p.resident role).map Resident.finished = p.resident role := by
      cases hr : p.resident role with
      | none => rfl
      | some e => exact congrArg some (if_neg fun hs => h (isRefreshing_iff.mpr ⟨e, hr, hs⟩))
    rw [hsame, putResident_self]

/-- The part with the shadow's fetch over and its entries read. -/
def Part.fetchEnded (p : Part) : Part := { p with
  loader := { p.loader with fetch := none }
  watch := { p.watch with residents := { p.watch.residents with
    shadowSong := p.watch.residents.shadowSong.map Resident.finished
    shadowScene := p.watch.residents.shadowScene.map Resident.finished } } }

theorem fetchEnded_eq (p : Part) :
    ((p.setFetch none).finishEntry .shadowSong).finishEntry .shadowScene = p.fetchEnded := by
  rw [finishEntry_eq, finishEntry_eq]
  rfl

theorem isSettling_iff : p.isSettling role = true ↔ ∃ e n, p.resident role = some e ∧ e.state = .settling n := by
  unfold Part.isSettling
  constructor
  · intro h
    split at h
    · rename_i he
      exact ⟨_, _, he, rfl⟩
    · cases h
  · rintro ⟨⟨kind, number, base, length, state, refetch⟩, n, he, hs⟩
    obtain rfl : state = .settling n := hs
    rw [he]

/-- A record that does not settle still does not once its fetch is over. -/
theorem finished_unsettled {e : Option Resident} (h : ∀ x n, e = some x → x.state ≠ .settling n) :
    ∀ x n, e.map Resident.finished = some x → x.state ≠ .settling n := by
  intro x n hx hs
  obtain ⟨d, hd, rfl⟩ := Option.map_eq_some_iff.mp hx
  unfold Resident.finished at hs
  split at hs
  · cases hs
  · exact h d n hd hs

theorem checkReady_fires (hstore : (p.loader.shadowSong.isSome || p.loader.shadowScene.isSome) = true)
    (hfetch : p.loader.fetch = none) (hready : p.loader.ready = false)
    (hsong : ∀ x n, p.watch.residents.shadowSong = some x → x.state ≠ .settling n)
    (hscene : ∀ x n, p.watch.residents.shadowScene = some x → x.state ≠ .settling n) : p.checkReady = p.shadowReady := by
  have settled : ∀ role, (∀ x n, p.resident role = some x → x.state ≠ .settling n) → p.isSettling role = false :=
    fun role h => Bool.eq_false_iff.mpr fun hc => by
      obtain ⟨e, n, he, hs⟩ := isSettling_iff.mp hc
      exact h e n he hs
  unfold Part.checkReady
  rw [hstore, hfetch, hready, settled .shadowSong hsong, settled .shadowScene hscene]
  rfl

theorem makeLateNow_none (h : p.loader.late = none) : p.makeLateNow = p := by
  unfold Part.makeLateNow
  rw [h]

theorem shadowReady_lookahead {number : Nat} (howner : p.loader.owner = some (.lookahead number)) (hl : p.loader.late = none) :
    p.shadowReady = { p with loader := { p.loader with ready := true } } := by
  unfold Part.shadowReady
  dsimp only
  rw [howner]
  exact makeLateNow_none hl

theorem shadowReady_cue (howner : p.loader.owner = some (.cue slot)) :
    p.shadowReady = ({ p with loader := { p.loader with ready := true } } : Part).setWorking slot false := by
  unfold Part.shadowReady
  dsimp only
  rw [howner]

/-- A cue made Waiting, with nothing in the write list (R143). -/
theorem setWorking_false (p : Part) (slot : Fin 32) (hw : p.cues.writes = []) : p.setWorking slot false = { p with
    cues := { p.cues with
      arms := p.cues.arms.map fun b => if b.slot = slot then { b with working := false } else b
      writes := [stateItem slot false] }
    watch := { p.watch with owners := p.watch.owners.set slot (.engine .waiting) } } := by
  unfold Part.setWorking Part.mapArm Part.setOwner Part.queueState Part.queueItem
  dsimp only
  rw [hw]
  rfl

/-- A fetch over, for an owner that is no refresh. -/
theorem fetchDone_unrefreshed (h : (∃ number, p.loader.owner = some (.lookahead number)) ∨ ∃ slot, p.loader.owner = some (.cue slot)) :
    p.fetchDone = p.fetchEnded.checkReady := by
  unfold Part.fetchDone
  dsimp only
  rw [fetchEnded_eq]
  rcases h with ⟨number, h⟩ | ⟨slot, h⟩
  · rw [show p.fetchEnded.loader.owner = some (.lookahead number) from h]
  · rw [show p.fetchEnded.loader.owner = some (.cue slot) from h]

/-- The fetch over and the shadow ready. -/
def Part.fetchReady (p : Part) : Part :=
  { p.fetchEnded with loader := { p.loader with fetch := none, ready := true } }

/-- The end of a fetch that makes the shadow ready (R120, R143). -/
theorem fetchDone_ready (hstore : (p.loader.shadowSong.isSome || p.loader.shadowScene.isSome) = true)
    (hready : p.loader.ready = false)
    (hsong : ∀ x n, p.watch.residents.shadowSong = some x → x.state ≠ .settling n)
    (hscene : ∀ x n, p.watch.residents.shadowScene = some x → x.state ≠ .settling n) :
    (∀ number, p.loader.owner = some (.lookahead number) → p.loader.late = none → p.fetchDone = p.fetchReady) ∧
    (∀ slot, p.loader.owner = some (.cue slot) → p.fetchDone = p.fetchReady.setWorking slot false) := by
  have hcheck := checkReady_fires (p := p.fetchEnded) hstore rfl hready (finished_unsettled hsong) (finished_unsettled hscene)
  refine ⟨fun number howner hl => ?_, fun slot howner => ?_⟩
  · exact (fetchDone_unrefreshed (.inl ⟨number, howner⟩)).trans
      (hcheck.trans (shadowReady_lookahead (p := p.fetchEnded) howner hl))
  · exact (fetchDone_unrefreshed (.inr ⟨slot, howner⟩)).trans (hcheck.trans (shadowReady_cue (p := p.fetchEnded) howner))

/-! ### The last words (R115 to R117) -/

theorem step_sceneRead {order : ByteOrder} {word : List Byte} (hs : f.stage = .sceneRecord)
    (hc : sceneCheck f.base (f.bytes ++ word) = none)
    (hlen : (f.bytes ++ word).length = 8 + 16 * numAt (f.bytes ++ word) 0 + 4 * numAt (f.bytes ++ word) 1) :
    f.step order word = .sceneRead (parseScene f.scene (f.bytes ++ word)) := by
  unfold ShadowFetch.step
  rw [hs]
  show f.sceneWord (f.bytes ++ word) = _
  unfold ShadowFetch.sceneWord
  dsimp only
  rw [hc]
  exact if_pos (show sceneLength _ _ ≤ _ from hlen.ge)

theorem step_songRead {order : ByteOrder} {word : List Byte} (hs : f.stage = .songRecord)
    (hc : songCheck f.base f.start (f.bytes ++ word) = none)
    (hlen : (f.bytes ++ word).length = 16 + 16 * numAt (f.bytes ++ word) 0) :
    f.step order word = .songRead (parseSong order f.song (f.bytes ++ word)) := by
  unfold ShadowFetch.step
  rw [hs]
  show f.songWord order (f.bytes ++ word) = _
  unfold ShadowFetch.songWord
  dsimp only
  rw [hc]
  exact if_pos (show songLength _ ≤ _ from hlen.ge)

theorem refetchDone_alone (halso : f.also = false) : p.refetchDone f = p.fetchDone := by
  unfold Part.refetchDone
  rw [halso]

theorem shadowWord_scene {order : ByteOrder} {word : List Byte} {scene : Scene} (h : f.step order word = .sceneRead scene)
    (halso : f.also = false) : p.shadowWord order f word =
      ({ p with loader := { p.loader with shadowScene := some scene } } : Part).fetchDone := by
  unfold Part.shadowWord
  rw [h]
  exact refetchDone_alone halso

theorem shadowWord_song {order : ByteOrder} {word : List Byte} {song : Song} (h : f.step order word = .songRead song) :
    p.shadowWord order f word = p.songFetched f song := by
  unfold Part.shadowWord
  rw [h]

/-- A SongLoad's song read: its start section's scene is fetched next, or the fetch is over (R115). -/
theorem songFetched_load {song : Song} {start : Nat} {sec : SongSection} (hload : f.songLoad = true) (hstart : f.start = some start)
    (hsec : song.sections[start]? = some sec) :
    (∀ number, sec.scene = some number → p.songFetched f song =
      { p with loader := { p.loader with
        shadowSong := some song
        fetch := some { f with stage := .sceneIndex, scene := number, base := 0, bytes := [] } } }) ∧
    (sec.scene = none → p.songFetched f song =
      (({ p with loader := { p.loader with shadowSong := some song } } : Part).putResident .shadowScene none).fetchDone) := by
  have hscene : (song.sections[f.start.getD 0]?).bind (·.scene) = sec.scene := by
    rw [hstart]
    show (song.sections[start]?).bind (·.scene) = sec.scene
    rw [hsec]
    rfl
  unfold Part.songFetched
  dsimp only
  rw [if_pos hload, hscene]
  exact ⟨fun number h => by rw [h]; rfl, fun h => by rw [h]⟩

theorem songFetched_again {song : Song} (hload : f.songLoad = false) (halso : f.also = false) :
    p.songFetched f song = ({ p with loader := { p.loader with shadowSong := some song } } : Part).fetchDone := by
  unfold Part.songFetched
  dsimp only
  rw [if_neg (by rw [hload]; exact Bool.false_ne_true)]
  exact refetchDone_alone halso

/-- Whether a song's last word ends its fetch. -/
theorem endsWith_song {order : ByteOrder} {word : List Byte} {song : Song} (h : f.step order word = .songRead song)
    (hno : f.songLoad = false ∨ (song.sections[f.start.getD 0]?).bind (·.scene) = none) : f.endsWith order word = true := by
  unfold ShadowFetch.endsWith
  rw [h]
  dsimp only
  rcases hno with hno | hno <;> rw [hno] <;> simp

theorem endsWith_scene {order : ByteOrder} {word : List Byte} {scene : Scene} (h : f.step order word = .sceneRead scene) :
    f.endsWith order word = true := by
  unfold ShadowFetch.endsWith
  rw [h]

end Ends

end Sys2Proof.Machine
end

section
/-! PROOFS. Refreshed records swapped in, and the fetch settled (8.7, 2.7, 10.5). -/

namespace Sys2Proof.Machine

/-! ### A scene swapped in (R80, R94, R133) -/

section Scenes
variable {p : Part} {scene : Scene} {e : Resident}

/-- The pedal carry of the active scene (R94). -/
theorem carryPedals_carries (h : p.layers = scene.layers) : ∃ v fan,
    p.carryPedals = { p with voices := v, tracker := { p.tracker with fan := fan } } ∧ p.carriesTo (some scene) v fan := by
  obtain ⟨v, fan, hmade, hgrows, -, hnone, hroom⟩ := carry_from scene allPlayers p (by decide) h
  have hall : ∀ i : Fin 4, i ∈ allPlayers := by decide
  refine ⟨v, fan, hmade, ?_⟩
  unfold Part.carriesTo
  rw [carryDowns_flat]
  exact ⟨hgrows, hnone, fun hr => ⟨(hroom hr).1, fun i => (hroom hr).2 i (hall i)⟩⟩

/-- The part with a refreshed scene in the active store, before its pedals are carried. -/
def Part.sceneReplaced (p : Part) (scene : Scene) (e : Resident) : Part := { p with
  flags := flagsBelow p.flags scene.layers.length
  loader := { p.loader with activeScene := some scene }
  watch := { p.watch with residents := { p.watch.residents with
    activeScene := some { e with state := .current, refetch := 0 }, shadowScene := none } } }

theorem swapRefreshedScene_swaps (he : p.watch.residents.shadowScene = some e) (hl : p.loader.late = none) :
    ∃ v fan q, p.carriesTo (some scene) v fan ∧
      Part.triggered { (p.sceneReplaced scene e).shadowFreed with
        voices := v, tracker := { p.tracker with fan := fan } } q ∧
      p.swapRefreshedScene scene = q.journal (.recordRefreshed .activeScene .scene scene.number) := by
  obtain ⟨v, fan, hmade, hcarry⟩ := carryPedals_carries (p := p.sceneReplaced scene e) (scene := scene) rfl
  let w : Part := { p.sceneReplaced scene e with voices := v, tracker := { p.tracker with fan := fan } }
  refine ⟨v, fan, w.freeShadow, hcarry, freeShadow_triggers (p := w) hl, ?_⟩
  have hput : ((({ p with flags := flagsBelow p.flags scene.layers.length
                          loader := { p.loader with activeScene := some scene } } : Part).putResident .activeScene
      (p.resident .shadowScene)).putResident .shadowScene none).makeCurrent .activeScene = p.sceneReplaced scene e := by
    rw [show p.resident .shadowScene = some e from he]
    rfl
  exact congrArg (fun x : Part => x.freeShadow.journal (.recordRefreshed .activeScene .scene scene.number))
    ((congrArg Part.carryPedals hput).trans hmade)

end Scenes

/-! ### A song swapped in (R41, R133) -/

section Songs
variable {p : Part} {song : Song} {sec : SongSection} {e : Resident}

/-- The pointer moved to the last section where its own is gone (R41, step 1). -/
def SongPointer.placedIn (r : SongPointer) (song : Song) : SongPointer :=
  if song.sections.length ≤ r.sectionIndex then { r with
    sectionIndex := song.sections.length - 1, pass := 1, bar := 1, beat := 1, vamp := false, leave := false }
  else r

/-- The pointer's other fields brought inside the song (R41, steps 2 to 6). -/
def SongPointer.inside (r : SongPointer) (song : Song) (sec : SongSection) : SongPointer := { r with
  bar := min r.bar sec.bars, beat := min r.beat sec.beats
  startSection := min r.startSection (song.sections.length - 1)
  countInBar := if r.phase = .countIn then max 1 (min r.countInBar song.countIn) else r.countInBar
  entry := r.entry.map fun x => { x with target := min x.target (song.sections.length - 1) } }

/-- What a corrected section journals (R41, step 1). -/
def Part.placedNotice (p : Part) (song : Song) : Notice :=
  if song.sections.length ≤ p.pointer.sectionIndex then
    ({ p with pointer := p.pointer.placedIn song } : Part).handed (.sectionEntered .refresh (song.sections.length - 1) 1)
  else p.notice

/-- The part with its pointer inside the song, before the Parked tempo. -/
def Part.pointed (p : Part) (song : Song) (sec : SongSection) : Part :=
  { p with pointer := (p.pointer.placedIn song).inside song sec, notice := p.placedNotice song }

/-- The part with its pointer inside the song, and the Parked tempo (R41). -/
def Part.corrected (p : Part) (song : Song) (sec : SongSection) : Part :=
  let q := p.pointed song sec
  { q with timeline := { p.timeline with
    tempo := if p.timeline.clock = .parked then q.startTempo q.pointer.startSection else p.timeline.tempo } }

theorem correctSection_eq (h : p.loader.activeSong = some song) :
    p.correctSection = { p with pointer := p.pointer.placedIn song, notice := p.placedNotice song } := by
  have hcount : p.sectionCount = song.sections.length := by unfold Part.sectionCount; rw [h]
  unfold Part.correctSection Part.placedNotice SongPointer.placedIn
  dsimp only
  rw [hcount]
  by_cases hgone : song.sections.length ≤ p.pointer.sectionIndex
  · rw [if_neg (Nat.not_lt.mpr hgone), if_pos hgone, if_pos hgone]
    rfl
  · rw [if_pos (Nat.lt_of_not_le hgone), if_neg hgone, if_neg hgone]

theorem correctFields_eq (h : p.loader.activeSong = some song) (hsec : song.sections[p.pointer.sectionIndex]? = some sec) :
    p.correctFields = { p with pointer := p.pointer.inside song sec } := by
  have hcount : p.sectionCount = song.sections.length := by unfold Part.sectionCount; rw [h]
  have hbars : p.countInBars = song.countIn := by unfold Part.countInBars; rw [h]
  have hcurrent : p.currentSection = some sec := by
    unfold Part.currentSection Part.sectionAt
    rw [h]
    exact hsec
  unfold Part.correctFields
  dsimp only
  rw [hcount, hbars, hcurrent]
  rfl

theorem correctPointer_eq (h : p.loader.activeSong = some song)
    (hsec : song.sections[(p.pointer.placedIn song).sectionIndex]? = some sec) :
    let r := (p.pointer.placedIn song).inside song sec
    let q := p.corrected song sec
    p.correctPointer = { q with loader := { p.loader with
      trigger := if (p.timeline.clock = .playing ∨ p.timeline.clock = .paused) ∧ r.phase = .song ∧
          (r.leave = true ∨ sec.bars ≤ r.bar) then some q.nextTrigger else p.loader.trigger } } := by
  intro r q
  have hfields : p.correctSection.correctFields = { p with pointer := r, notice := p.placedNotice song } := by
    rw [correctSection_eq h]
    exact correctFields_eq (p := { p with pointer := p.pointer.placedIn song, notice := p.placedNotice song }) h hsec
  have hq : q.loader = p.loader ∧ q.pointer = r ∧ q.timeline.clock = p.timeline.clock := by
    exact ⟨rfl, rfl, rfl⟩
  obtain ⟨hload, hpoint, hclock⟩ := hq
  have hlast : q.inLastBar = (r.leave || decide (sec.bars ≤ r.bar)) := by
    have hcurrent : q.currentSection = some sec := by
      unfold Part.currentSection Part.sectionAt
      rw [hload, hpoint, h]
      exact hsec
    unfold Part.inLastBar
    rw [hcurrent, hpoint]
  have hmade : p.correctPointer =
      q.giveTriggerIf ((q.timeline.clock = .playing || q.timeline.clock = .paused) && q.inLastBar) := by
    have htempo : (if (p.pointed song sec).timeline.clock = .parked then
        (p.pointed song sec).setTempo ((p.pointed song sec).startTempo (p.pointed song sec).pointer.startSection)
        else p.pointed song sec) = q := by
      show _ = p.corrected song sec
      unfold Part.corrected
      dsimp only
      split
      · rename_i hparked
        rw [if_pos (show p.timeline.clock = .parked from hparked)]
        rfl
      · rename_i hparked
        rw [if_neg (show ¬p.timeline.clock = .parked from hparked)]
        rfl
    unfold Part.correctPointer
    dsimp only
    rw [hfields]
    exact congrArg (fun q2 : Part => q2.giveTriggerIf
      ((q2.timeline.clock = .playing || q2.timeline.clock = .paused) && q2.inLastBar)) htempo
  have hiff : ((((q.timeline.clock = .playing || q.timeline.clock = .paused) && q.inLastBar) && q.pointer.phase = .song &&
      q.timeline.clock ≠ .idle && q.timeline.clock ≠ .parked) = true) ↔
      (p.timeline.clock = .playing ∨ p.timeline.clock = .paused) ∧ r.phase = .song ∧ (r.leave = true ∨ sec.bars ≤ r.bar) := by
    rw [hlast, hclock, hpoint]
    cases p.timeline.clock <;> simp [and_comm]
  rw [hmade]
  unfold Part.giveTriggerIf
  by_cases hg : (p.timeline.clock = .playing ∨ p.timeline.clock = .paused) ∧ r.phase = .song ∧ (r.leave = true ∨ sec.bars ≤ r.bar)
  · rw [if_pos (hiff.mpr hg), if_pos hg]
    unfold Part.setTrigger
    rw [hload]
  · rw [if_neg (fun hc => hg (hiff.mp hc)), if_neg hg, ← hload]

/-- The part with a refreshed song in the active store. -/
def Part.songReplaced (p : Part) (song : Song) (e : Resident) : Part := { p with
  loader := { p.loader with activeSong := some song }
  watch := { p.watch with residents := { p.watch.residents with
    activeSong := some { e with state := .current, refetch := 0 }, shadowSong := none } } }

theorem emptyShadow_beginSceneRefresh {c : Resident} (h : p.resident .activeScene = some c) :
    p.emptyShadow.beginSceneRefresh =
      ((p.emptyShadow.putResident .activeScene (some c.begun)).putResident .shadowScene (some c.begun)).ownShadow
        .refreshScene (some (sceneAgainFetch c)) := beginSceneRefresh_eq (p := p.emptyShadow) h

/-- A refreshed song swapped in: then the active scene's refresh, or the shadow is free (R41, R133, R146). -/
theorem swapRefreshedSong_swaps (he : p.watch.residents.shadowSong = some e) :
    let x := (p.songReplaced song e).correctPointer.journal (.recordRefreshed .activeSong .song song.number)
    (∀ c, x.resident .activeScene = some c → p.swapRefreshedSong song true =
      ((x.emptyShadow.putResident .activeScene (some c.begun)).putResident .shadowScene (some c.begun)).ownShadow .refreshScene
        (some (sceneAgainFetch c))) ∧
    ∀ next, next = false ∨ x.resident .activeScene = none → p.swapRefreshedSong song next = x.freeShadow := by
  intro x
  have hput : ((({ p with loader := { p.loader with activeSong := some song } } : Part).putResident .activeSong
      (p.resident .shadowSong)).putResident .shadowSong none).makeCurrent .activeSong = p.songReplaced song e := by
    rw [show p.resident .shadowSong = some e from he]
    rfl
  have hmade : ∀ next, p.swapRefreshedSong song next =
      if (next && (x.resident .activeScene).isSome) = true then x.emptyShadow.beginSceneRefresh else x.freeShadow :=
    fun next => congrArg (fun y : Part =>
      let x := y.correctPointer.journal (.recordRefreshed .activeSong .song song.number)
      if (next && (x.resident .activeScene).isSome) = true then x.emptyShadow.beginSceneRefresh else x.freeShadow) hput
  refine ⟨fun c hc => ?_, fun next h => ?_⟩
  · rw [hmade, if_pos (by rw [hc]; rfl)]
    exact emptyShadow_beginSceneRefresh hc
  · rw [hmade, if_neg]
    rcases h with h | h <;> rw [h] <;> simp

end Songs

end Sys2Proof.Machine
end

section
/-! PROOFS. The fetch settled: its last words and the words that fail it (O57). -/

namespace Sys2Proof.Machine

section LastWords
variable {p : Part} {f : ShadowFetch} {order : ByteOrder} {word : List Byte} {outcome : CueOutcome}

theorem address_record {layout : Layout} (h : f.stage = .songRecord ∨ f.stage = .sceneRecord) :
    f.address layout = f.base + f.bytes.length := by
  unfold ShadowFetch.address
  rcases h with h | h <;> rw [h]

/-- The scene read, for an owner that is no refresh: the shadow is ready (R115, R120, R143). -/
theorem sceneWord_ready {scene : Scene} (hstep : f.step order word = .sceneRead scene) (halso : f.also = false)
    (hready : p.loader.ready = false)
    (hsong : ∀ x n, p.watch.residents.shadowSong = some x → x.state ≠ .settling n)
    (hscene : ∀ x n, p.watch.residents.shadowScene = some x → x.state ≠ .settling n) :
    let q := ({ p with loader := { p.loader with shadowScene := some scene } } : Part).fetchReady
    (∀ number, p.loader.owner = some (.lookahead number) → p.loader.late = none → p.shadowWord order f word = q) ∧
    (∀ slot, p.loader.owner = some (.cue slot) → p.shadowWord order f word = q.setWorking slot false) := by
  obtain ⟨hlook, hcue⟩ := fetchDone_ready (p := { p with loader := { p.loader with shadowScene := some scene } })
    (by simp) hready hsong hscene
  have hword := shadowWord_scene (p := p) hstep halso
  exact ⟨fun number howner hl => hword.trans (hlook number howner hl), fun slot howner => hword.trans (hcue slot howner)⟩

/-- A SongLoad's song read whose start section names no scene: the shadow is ready (R115, R143). -/
theorem songWord_ready {song : Song} {start : Nat} {sec : SongSection} {slot : Fin 32}
    (hstep : f.step order word = .songRead song) (hload : f.songLoad = true) (hstart : f.start = some start)
    (hsec : song.sections[start]? = some sec) (hno : sec.scene = none) (hready : p.loader.ready = false)
    (hsong : ∀ x n, p.watch.residents.shadowSong = some x → x.state ≠ .settling n)
    (howner : p.loader.owner = some (.cue slot)) :
    p.shadowWord order f word = ((({ p with loader := { p.loader with shadowSong := some song } } : Part).putResident
      .shadowScene none).fetchReady).setWorking slot false := by
  obtain ⟨-, hcue⟩ := fetchDone_ready
    (p := ({ p with loader := { p.loader with shadowSong := some song } } : Part).putResident .shadowScene none)
    rfl hready hsong (fun _ _ h => nomatch h)
  exact (shadowWord_song hstep).trans (((songFetched_load hload hstart hsec).2 hno).trans (hcue slot howner))

/-- A refreshed scene read: it is swapped in (R133). -/
theorem sceneWord_swaps {scene : Scene} (hstep : f.step order word = .sceneRead scene) (halso : f.also = false)
    (howner : p.loader.owner = some .refreshScene) : p.shadowWord order f word =
      ({ p with loader := { p.loader with shadowScene := some scene } } : Part).fetchEnded.swapRefreshedScene scene := by
  refine (shadowWord_scene hstep halso).trans ?_
  unfold Part.fetchDone
  dsimp only
  rw [fetchEnded_eq]
  unfold Part.fetchEnded
  dsimp only
  rw [howner]

theorem songWord_swaps {song : Song} {next : Bool} (hstep : f.step order word = .songRead song) (hload : f.songLoad = false)
    (halso : f.also = false) (howner : p.loader.owner = some (.refreshSong next)) : p.shadowWord order f word =
      ({ p with loader := { p.loader with shadowSong := some song } } : Part).fetchEnded.swapRefreshedSong song next := by
  refine (shadowWord_song hstep).trans ((songFetched_again hload halso).trans ?_)
  unfold Part.fetchDone
  dsimp only
  rw [fetchEnded_eq]
  unfold Part.fetchEnded
  dsimp only
  rw [howner]

theorem finished_of_refreshing {e : Resident} (h : e.state = .refreshing) :
    e.finished = { e with state := .current, refetch := 0 } := if_pos h

end LastWords

/-! ### Failing words -/

section Failing
variable {p : Part} {f : ShadowFetch} {order : ByteOrder} {word : List Byte} {outcome : CueOutcome}

/-- The outcomes of a record that the fetch unit cannot use (R116). -/
def CueOutcome.unusable (o : CueOutcome) : Prop := o = .badSong ∨ o = .badParam ∨ o = .badScene

theorem unusable_reported (h : outcome.unusable) :
    outcome.final = .refused ∧ outcome.bad = .invalid ∧ outcome.stale = .invalid := by
  rcases h with rfl | rfl | rfl <;> exact ⟨rfl, rfl, rfl⟩

/-- A cue's fetch that a word fails: the cue ends with the outcome and the shadow is freed (R119). -/
theorem failedWord_cue {a : ArmedCue} (hstep : f.step order word = .failed outcome) (hout : outcome.unusable)
    (howner : p.loader.owner = some (.cue a.slot)) (harm : p.cues.arms.find? (fun b => b.slot == a.slot) = some a)
    (hw : p.cues.writes = []) (hl : p.loader.late = none) :
    Part.triggered { p.shadowFreed with
      cues := { p.cues with
        arms := p.cues.arms.filter fun b => b.slot != a.slot
        writes := [resultItem p.stamp a.slot outcome a.missed .refused a.notify] }
      watch := { p.shadowFreed.watch with owners := p.watch.owners.set a.slot .host } } (p.shadowWord order f word) := by
  have hended := endCue_alone (p := p) (outcome := outcome) a hw
  rw [(unusable_reported hout).1] at hended
  have hmade : p.shadowWord order f word = _ :=
    (shadowWord_fails hstep).trans ((fetchFailed_of_cue howner harm).trans (congrArg Part.freeShadow hended))
  rw [hmade]
  exact freeShadow_triggers (p := { p with
    cues := { p.cues with
      arms := p.cues.arms.filter fun b => b.slot != a.slot
      writes := [resultItem p.stamp a.slot outcome a.missed .refused a.notify] }
    watch := { p.watch with owners := p.watch.owners.set a.slot .host } }) hl

/-- A refresh that a word fails: the record it reads again is Stale (R119, R133). -/
theorem failedWord_refresh {role : Role} {e : Resident} (hstep : f.step order word = .failed outcome) (hout : outcome.unusable)
    (howner : (role = .activeSong ∧ ∃ next, p.loader.owner = some (.refreshSong next)) ∨
      (role = .activeScene ∧ p.loader.owner = some .refreshScene))
    (he : p.resident role = some e) (hs : e.state ≠ .stale) (hl : p.loader.late = none) :
    Part.triggered (({ p with
      watch := { p.watch with residents := p.watch.residents.put role (some { e with state := .stale, refetch := 0 }) }
      notice := p.handed (.recordStale role e.kind e.number .invalid) } : Part).shadowFreed) (p.shadowWord order f word) := by
  have hstale := makeStale_journals (p := p) .invalid he hs
  have hfailed : p.fetchFailed outcome = (p.makeStale role .invalid).freeShadow := by
    rcases howner with ⟨rfl, next, howner⟩ | ⟨rfl, howner⟩
    · rw [fetchFailed_of_song howner, (unusable_reported hout).2.2]
    · rw [fetchFailed_of_scene howner, (unusable_reported hout).2.2]
  rw [(shadowWord_fails hstep).trans (hfailed.trans (congrArg Part.freeShadow hstale))]
  exact freeShadow_triggers (p := { p with
    watch := { p.watch with residents := p.watch.residents.put role (some { e with state := .stale, refetch := 0 }) }
    notice := p.handed (.recordStale role e.kind e.number .invalid) }) hl

end Failing

/-! ### What each unit's last word makes of a Running part -/

section Settled
variable {s : State} {turn : Fin 5}

/-- The last word of a click sound (R51, R52). -/
theorem clickWord_completes (hrun : s.part.engine = .running) (hfirst : s.part.arbiter.rotation = .sceneLoader)
    (hst : s.part.starting = .none) (hturn : s.part.loader.nextTurn = some turn) (i : Fin 4) (f : ClickFetch) (e : Resident)
    (hunit : FetchUnit.ofTurn turn = .click i) (hf : s.part.loader.clickFetches[i] = some f) (hkind : f.kind ≠ .starting)
    (hlast : f.done + 1 = f.words) (he : s.part.watch.residents.clicks[i] = some e) :
    let p := s.part
    let word := s.mem.readWord (f.base + 4 * f.done)
    let old := (p.click.sounds[i]).samples
    ∃ samples, exec .fetchComplete s = .next { s with part := { p.engineGranted .sceneLoader with
        notice := if f.kind = .refresh then p.handed (.recordRefreshed (.click i) .click i.val) else p.notice
        click := { p.click with sounds := p.click.sounds.set i { samples := samples, length := f.length } }
        loader := { p.loader with turn := turn + 1, clickFetches := p.loader.clickFetches.set i none }
        watch := { p.watch with residents := { p.watch.residents with
          clicks := p.watch.residents.clicks.set i (some { e with state := .current, refetch := 0 }) } } } } ∧
      samples.getD (2 * f.done) 0 = sampleOf s.order (byteAt word 0) (byteAt word 1) ∧
      (f.length % 2 = 0 → samples.getD (2 * f.done + 1) 0 = sampleOf s.order (byteAt word 2) (byteAt word 3)) ∧
      ∀ k, k < 2 * f.done → samples.getD k 0 = old.getD k 0 := by
  intro p word old
  refine ⟨((p.click.sounds[i]).storeWord s.order f word).samples, ?_, storeWord_samples (p.click.sounds[i]) word hlast⟩
  exact (click_word hrun hfirst hst hturn hunit hf (le_of_eq hlast.symm)).trans
    (congrArg (fun q => Host.Outcome.next { s with part := q })
      (clickWord_last (p := p.fetchTurn turn) (order := s.order) word hlast hkind he))

/-- The words of R116 that fail a fetch, as the bytes spell them. -/
theorem step_fails {order : ByteOrder} {f : ShadowFetch} {mem : Memory} {layout : Layout} (outcome : CueOutcome) :
    let bytes := f.bytes ++ mem.readWord (f.base + f.bytes.length)
    let num (k : Nat) := numAt bytes k
    let place (index number : Nat) := fieldValue order (mem.readWord (index + 4 * number))
    let first := bytes.length = 4
    let setups := (bytes.length - (8 + 16 * num 0)) / 4
    let code (j : Nat) := num (8 + 16 * num 0 + 4 * j + 1)
    (f.stage = .songIndex ∧ namesNowhere (place layout.songIndex f.song) 16 ∧ outcome = .badSong) ∨
      (f.stage = .songRecord ∧ first ∧ songCountsBad f.base (num 0) ∧ outcome = .badSong) ∨
      (∃ start, f.stage = .songRecord ∧ first ∧ ¬songCountsBad f.base (num 0) ∧ f.start = some start ∧ num 0 ≤ start ∧
        outcome = .badParam) ∨
      (f.stage = .songRecord ∧ 16 < bytes.length ∧ bytes.length % 16 = 4 ∧
        num (bytes.length - 2) ∉ [1, 2, 3, 4, 6] ∧ outcome = .badSong) ∨
      (f.stage = .sceneIndex ∧ namesNowhere (place layout.sceneIndex f.scene) 8 ∧ outcome = .badScene) ∨
      (f.stage = .sceneRecord ∧ first ∧ (num 0 = 0 ∨ 8 < num 0 ∨ 32 < num 1 ∨
        0x3FFFF < f.base + (8 + 16 * num 0 + 4 * num 1) - 1) ∧ outcome = .badScene) ∨
      (f.stage = .sceneRecord ∧ 8 + 16 * num 0 < bytes.length ∧ ¬first ∧ (2 < num (bytes.length - 3) ∨
        32 < ((List.range setups).map fun j => if code j = 1 then 2 else 1).sum) ∧ outcome = .badScene) →
    f.step order (mem.readWord (f.address layout)) = .failed outcome ∧ outcome.unusable := by
  intro bytes num place first setups code h
  rcases h with ⟨hs, hbad, rfl⟩ | ⟨hs, hfour, hbad, rfl⟩ | ⟨start, hs, hfour, hok, hstart, hbad, rfl⟩ |
    ⟨hs, hlong, hfour, hbad, rfl⟩ | ⟨hs, hbad, rfl⟩ | ⟨hs, hfour, hbad, rfl⟩ | ⟨hs, hlong, hfour, hbad, rfl⟩
  · refine ⟨step_songIndex_fails hs ?_, .inl rfl⟩
    unfold ShadowFetch.address
    rw [hs]
    exact hbad
  · rw [address_record (.inl hs)]
    exact ⟨step_song_fails hs (songCheck_counts hfour hbad), .inl rfl⟩
  · rw [address_record (.inl hs)]
    exact ⟨step_song_fails hs (hstart ▸ songCheck_start hfour hok hbad), .inr (.inl rfl)⟩
  · rw [address_record (.inl hs)]
    exact ⟨step_song_fails hs (songCheck_section hlong hfour hbad), .inl rfl⟩
  · refine ⟨step_sceneIndex_fails hs ?_, .inr (.inr rfl)⟩
    unfold ShadowFetch.address
    rw [hs]
    exact hbad
  · rw [address_record (.inr hs)]
    exact ⟨step_scene_fails hs (sceneCheck_counts hfour hbad), .inr (.inr rfl)⟩
  · rw [address_record (.inr hs)]
    refine ⟨step_scene_fails hs (sceneCheck_setup hfour hlong ?_), .inr (.inr rfl)⟩
    rw [expandSetups_length]
    exact hbad

/-- A refreshed scene's last word, as the part it makes of a Running part (R80, R94, R133, R166). -/
theorem sceneWord_refreshes {p : Part} {f : ShadowFetch} {order : ByteOrder} {word : List Byte} {scene : Scene} {e : Resident}
    (hstep : f.step order word = .sceneRead scene) (halso : f.also = false) (howner : p.loader.owner = some .refreshScene)
    (he : p.watch.residents.shadowScene = some e) (hs : e.state = .refreshing) (hl : p.loader.late = none) :
    let freed : Loader := { p.loader with
      owner := none, shadowSong := none, shadowScene := none, ready := false, fetch := none, activeScene := some scene }
    let current : Resident := { e with state := .current, refetch := 0 }
    ∃ x q, p.switchSends x (some scene) [] ∧
      x = { p with
        loader := freed
        watch := { p.watch with residents := { p.watch.residents with
          shadowSong := none, shadowScene := none, activeScene := some current } }
        flags := p.flags &&& BitVec.ofNat 8 (2 ^ scene.layers.length - 1)
        tracker := { p.tracker with fan := x.tracker.fan }
        voices := x.voices } ∧
      x.triggered q ∧
      p.shadowWord order f word = { q with notice := q.handed (.recordRefreshed .activeScene .scene scene.number) } := by
  intro freed current
  let w : Part := ({ p with loader := { p.loader with shadowScene := some scene } } : Part).fetchEnded
  have hentry : w.watch.residents.shadowScene = some current := by
    show Option.map Resident.finished p.watch.residents.shadowScene = _
    rw [he]
    exact congrArg some (finished_of_refreshing hs)
  obtain ⟨v, fan, q, hcarry, htrig, hmade⟩ := swapRefreshedScene_swaps (p := w) (scene := scene) hentry hl
  exact ⟨_, q, switchSends_of p p.voices (some scene) []
    { (w.sceneReplaced scene current).shadowFreed with voices := v, tracker := { w.tracker with fan := fan } }
    (received_nil _) hcarry, rfl, htrig, (sceneWord_swaps hstep halso howner).trans hmade⟩

/-- The trigger that a pointer in its last bar gives (R40). -/
def Song.follows (song : Song) (r : SongPointer) : Trigger :=
  if r.vamp then .toSection r.sectionIndex
  else if r.sectionIndex + 1 < song.sections.length then .toSection (r.sectionIndex + 1)
  else if song.loopLast then .toSection r.sectionIndex else .toEnd

theorem nextTrigger_of {p : Part} {song : Song} (h : p.loader.activeSong = some song) :
    p.nextTrigger = song.follows p.pointer := by
  unfold Part.nextTrigger Part.sectionCount Song.follows
  rw [h]

/-- The tempo of a clock Parked at a section of the song, and of any other clock as it is (R41). -/
def Timeline.parkedIn (t : Timeline) (song : Song) (start : Nat) : Nat :=
  if t.clock = .parked then
    match song.sections[start]? with
    | none => t.tempo
    | some x => clampTempo x.startTempo
  else t.tempo

theorem parkedIn_startTempo {p : Part} {song : Song} (h : p.loader.activeSong = some song) (start : Nat) :
    p.timeline.parkedIn song start = if p.timeline.clock = .parked then p.startTempo start else p.timeline.tempo := by
  have hsection : p.sectionAt start = song.sections[start]? := by
    unfold Part.sectionAt
    rw [h]
    rfl
  cases hs : song.sections[start]? <;> simp only [Part.startTempo, Timeline.parkedIn, hsection, hs]

/-- The part with a refreshed song swapped in and the shadow empty, before the swap is journaled (R41, R133). -/
def Part.songSwapped (p : Part) (song : Song) (sec : SongSection) (e : Resident) : Part :=
  let r := (p.pointer.placedIn song).inside song sec
  { p with
    pointer := r
    timeline := { p.timeline with tempo := p.timeline.parkedIn song r.startSection }
    loader := { p.loader with
      owner := none, shadowSong := none, shadowScene := none, ready := false, fetch := none, activeSong := some song
      trigger := if (p.timeline.clock = .playing ∨ p.timeline.clock = .paused) ∧ r.phase = .song ∧
          (r.leave = true ∨ sec.bars ≤ r.bar) then some (song.follows r) else p.loader.trigger }
    watch := { p.watch with residents := { p.watch.residents with
      shadowSong := none, shadowScene := none, activeSong := some { e with state := .current, refetch := 0 } } } }

/-- The swap journaled, behind the correction of the section (R41, R133). -/
def Part.songRefreshed (p : Part) (song : Song) (sec : SongSection) (e : Resident) : Part := { p.songSwapped song sec e with
  notice := (p.placedNotice song).handOver {
    event := .recordRefreshed .activeSong .song song.number, stamp := (p.songSwapped song sec e).stamp } }

/-- A song just brought in, its pointer corrected, as the shadow freed leaves it (R41). -/
theorem correctPointer_swapped {p : Part} {song : Song} {sec : SongSection} {e : Resident}
    (hsec : song.sections[(p.pointer.placedIn song).sectionIndex]? = some sec) :
    ((p.songReplaced song e).correctPointer).shadowFreed =
      { p.songSwapped song sec e with notice := p.placedNotice song } := by
  let r := (p.pointer.placedIn song).inside song sec
  let w := p.songReplaced song e
  have hcorrected : w.corrected song sec = { w with
      pointer := r, notice := p.placedNotice song
      timeline := { p.timeline with tempo := p.timeline.parkedIn song r.startSection } } :=
    congrArg (fun n => ({ w.pointed song sec with timeline := { p.timeline with tempo := n } } : Part))
      (parkedIn_startTempo (p := w.pointed song sec) (song := song) rfl r.startSection).symm
  have hfollows : (w.corrected song sec).nextTrigger = song.follows r := nextTrigger_of (p := w.corrected song sec) rfl
  have hpointer := correctPointer_eq (p := w) (song := song) rfl hsec
  dsimp only at hpointer
  rw [hfollows, hcorrected] at hpointer
  exact congrArg Part.shadowFreed hpointer

/-- A refreshed song's last word, as the part it makes of a Running part (R41, R133, R146, R166). -/
theorem songWord_refreshes {p : Part} {f : ShadowFetch} {order : ByteOrder} {word : List Byte} {song : Song} {next : Bool}
    {sec : SongSection} {e : Resident}
    (hstep : f.step order word = .songRead song) (hload : f.songLoad = false) (halso : f.also = false)
    (howner : p.loader.owner = some (.refreshSong next)) (he : p.watch.residents.shadowSong = some e)
    (hs : e.state = .refreshing) (hsec : song.sections[(p.pointer.placedIn song).sectionIndex]? = some sec) :
    let x := p.songRefreshed song sec e
    (∀ c, next = true → p.watch.residents.activeScene = some c → p.shadowWord order f word = { x with
      loader := { x.loader with owner := some .refreshScene, fetch := some (sceneAgainFetch c) }
      watch := { x.watch with residents := { x.watch.residents with
        activeScene := some c.begun, shadowScene := some c.begun } } }) ∧
    (next = false ∨ p.watch.residents.activeScene = none → p.loader.late = none →
      x.triggered (p.shadowWord order f word)) := by
  let w : Part := ({ p with loader := { p.loader with shadowSong := some song } } : Part).fetchEnded
  have hentry : w.watch.residents.shadowSong = some { e with state := .current, refetch := 0 } := by
    show Option.map Resident.finished p.watch.residents.shadowSong = _
    rw [he]
    exact congrArg some (finished_of_refreshing hs)
  have hswapped := correctPointer_swapped (p := w) (song := song) (sec := sec) (e := { e with state := .current, refetch := 0 }) hsec
  obtain ⟨hgoes, hends⟩ := swapRefreshedSong_swaps (p := w) (song := song) hentry
  have hword := songWord_swaps (p := p) hstep hload halso howner
  generalize (w.songReplaced song _).correctPointer = z at hgoes hends hswapped
  have hfreed : (z.journal (.recordRefreshed .activeSong .song song.number)).shadowFreed = p.songRefreshed song sec e :=
    congrArg (fun x : Part => x.journal (.recordRefreshed .activeSong .song song.number)) hswapped
  generalize z.journal (.recordRefreshed .activeSong .song song.number) = y at hgoes hends hfreed
  have hscene : y.resident .activeScene = p.watch.residents.activeScene :=
    (show y.shadowFreed.watch.residents.activeScene = _ by rw [hfreed]; rfl)
  have hlate : y.loader.late = p.loader.late :=
    (show y.shadowFreed.loader.late = _ by rw [hfreed]; rfl)
  refine ⟨fun c hnext hc => ?_, fun hnext hl => ?_⟩
  · subst hnext
    refine (hword.trans (hgoes c (hscene.trans hc))).trans ?_
    exact congrArg (fun z : Part => { z with
      loader := { z.loader with owner := some .refreshScene, fetch := some (sceneAgainFetch c) }
      watch := { z.watch with residents := { z.watch.residents with
        activeScene := some c.begun, shadowScene := some c.begun } } }) hfreed
  · rw [hword.trans (hends next (hnext.imp_right hscene.trans)), ← hfreed]
    exact freeShadow_triggers (hlate.trans hl)

end Settled

end Sys2Proof.Machine
end

section
/-! PROOFS. The obligation about fetches (O57). -/

namespace Sys2Proof.Machine

section Running
variable {s : State} {turn : Fin 5} {f : ShadowFetch} {outcome : CueOutcome}

/-- A word that fails the shadow's fetch, by the shadow's owner (R119, R133). -/
theorem failingWord_ends (hrun : s.part.engine = .running) (hfirst : s.part.arbiter.rotation = .sceneLoader)
    (hst : s.part.starting = .none) (hturn : s.part.loader.nextTurn = some turn) (hunit : FetchUnit.ofTurn turn = .shadow)
    (hf : s.part.loader.fetch = some f)
    (hstep : f.step s.order (s.mem.readWord (f.address s.part.layout)) = .failed outcome) (hout : outcome.unusable) :
    let p := s.part
    let ended : Part := { p.engineGranted .sceneLoader with
      loader := { p.loader with
        owner := none, shadowSong := none, shadowScene := none, ready := false, fetch := none, turn := turn + 1 }
      watch := { p.watch with residents := { p.watch.residents with shadowSong := none, shadowScene := none } } }
    let goesOn (q : Part) : Prop := exec .engineWordAccess s = .next { s with part := q }
    let stale (e : Resident) : Resident := { e with state := .stale, refetch := 0 }
    (∀ a, p.loader.owner = some (.cue a.slot) → p.cues.arms.find? (fun b => b.slot == a.slot) = some a →
      p.cues.writes = [] → p.loader.late = none → ∃ q, goesOn q ∧ Part.triggered { ended with
        cues := { p.cues with
          arms := p.cues.arms.filter fun b => b.slot != a.slot
          writes := [resultItem p.stamp a.slot outcome a.missed .refused a.notify] }
        watch := { ended.watch with owners := p.watch.owners.set a.slot .host } } q) ∧
    (∀ number, p.loader.owner = some (.lookahead number) → goesOn { ended with
      loader := { ended.loader with trigger := none, late := none }
      notice := p.handed (.sceneBad number .invalid) }) ∧
    (∀ next e, p.loader.owner = some (.refreshSong next) → p.watch.residents.activeSong = some e → e.state ≠ .stale →
      p.loader.late = none → ∃ q, goesOn q ∧ Part.triggered { ended with
        watch := { ended.watch with residents := { ended.watch.residents with activeSong := some (stale e) } }
        notice := p.handed (.recordStale .activeSong e.kind e.number .invalid) } q) ∧
    ∀ e, p.loader.owner = some .refreshScene → p.watch.residents.activeScene = some e → e.state ≠ .stale →
      p.loader.late = none → ∃ q, goesOn q ∧ Part.triggered { ended with
        watch := { ended.watch with residents := { ended.watch.residents with activeScene := some (stale e) } }
        notice := p.handed (.recordStale .activeScene e.kind e.number .invalid) } q := by
  intro p ended goesOn stale
  obtain ⟨hgrant, -⟩ := shadow_word hrun hfirst hst hturn hunit hf
  refine ⟨fun a howner harm hw hl => ⟨_, hgrant, ?_⟩, fun number howner => ?_,
    fun next e howner he hs hl => ⟨_, hgrant, ?_⟩, fun e howner he hs hl => ⟨_, hgrant, ?_⟩⟩
  · exact failedWord_cue (p := s.part.fetchTurn turn) hstep hout howner harm hw hl
  · exact hgrant.trans (congrArg (fun x => Host.Outcome.next { s with part := x }) ((shadowWord_fails hstep).trans
      (fetchFailed_of_lookahead (p := s.part.fetchTurn turn) howner (unusable_reported hout).2.1)))
  · exact failedWord_refresh (p := s.part.fetchTurn turn) (role := .activeSong) (e := e) hstep hout
      (.inl ⟨rfl, next, howner⟩) he hs hl
  · exact failedWord_refresh (p := s.part.fetchTurn turn) (role := .activeScene) (e := e) hstep hout
      (.inr ⟨rfl, howner⟩) he hs hl

end Running

/-- Settles O57: what the loader's grant makes of the word at the fetch's address, by the stage of the fetch and the shadow's
owner. -/
theorem fetchesComplete : Obligations.FetchesComplete := by
  unfold Obligations.FetchesComplete
  intro s turn hrun hfirst hst hturn p r current stale
  refine ⟨fun i f e hunit hf hkind hlast he => ?_, ?_⟩
  · intro word half old told
    obtain ⟨samples, hexec, hlow, hhigh, hkept⟩ := clickWord_completes hrun hfirst hst hturn i f e hunit hf hkind hlast he
    exact ⟨samples, hexec, hlow.trans (sampleOf_eq _ _ _), fun heven => (hhigh heven).trans (sampleOf_eq _ _ _), hkept⟩
  intro f hunit hf halso bytes num scene song completes goesOn after read unsettled freed bare waiting sceneEnds songEnds
  obtain ⟨hgrant, hlast⟩ := shadow_word hrun hfirst hst hturn hunit hf
  let word := s.mem.readWord (f.address s.part.layout)
  let t := p.fetchTurn turn
  have hgoes : ∀ q : Part, t.shadowWord s.order f word = q → goesOn q :=
    fun q h => hgrant.trans (congrArg (fun x => Host.Outcome.next { s with part := x }) h)
  have hcompletes : ∀ q : Part, f.endsWith s.order word = true → t.shadowWord s.order f word = q → completes q :=
    fun q hends h => (hlast hends).trans (congrArg (fun x => Host.Outcome.next { s with part := x }) h)
  have hscene : sceneEnds → f.step s.order word = .sceneRead scene := by
    rintro ⟨hs, hcheck, hlen⟩
    have haddress := address_record (f := f) (layout := s.part.layout) (.inr hs)
    show f.step s.order (s.mem.readWord (f.address s.part.layout)) = _
    rw [haddress]
    exact step_sceneRead hs hcheck hlen
  have hsong : songEnds → f.step s.order word = .songRead song := by
    rintro ⟨hs, hcheck, hlen⟩
    have haddress := address_record (f := f) (layout := s.part.layout) (.inl hs)
    show f.step s.order (s.mem.readWord (f.address s.part.layout)) = _
    rw [haddress]
    exact step_songRead hs hcheck hlen
  refine ⟨?_, ?_, ?_, ?_, ?_⟩
  · intro hends hready hone htwo q
    have hstep := hscene hends
    obtain ⟨hlook, hcue⟩ := sceneWord_ready (p := t) hstep halso hready hone htwo
    refine ⟨fun number howner hl => ?_, fun slot howner hw => ?_⟩
    · exact hcompletes q (endsWith_scene hstep) (hlook number howner hl)
    · exact hcompletes (waiting slot q) (endsWith_scene hstep) ((hcue slot howner).trans (setWorking_false _ slot hw))
  · intro slot start sec hends hload hstart hsec howner
    have hstep := hsong hends
    refine ⟨fun number hnumber => ?_, fun hno hready hone hw => ?_⟩
    · exact hgoes _ ((shadowWord_song hstep).trans ((songFetched_load hload hstart hsec).1 number hnumber))
    · refine hcompletes (waiting slot _) (endsWith_song hstep (.inr ?_))
        ((songWord_ready (p := t) hstep hload hstart hsec hno hready hone howner).trans (setWorking_false _ slot hw))
      show (song.sections[f.start.getD 0]?).bind (·.scene) = none
      rw [hstart]
      show (song.sections[start]?).bind (·.scene) = none
      rw [hsec]
      exact hno
  · intro e hends howner he hs _ hl
    have hstep := hscene hends
    obtain ⟨x, q, hsends, hx, htrig, hmade⟩ := sceneWord_refreshes (p := t) hstep halso howner he hs hl
    exact ⟨x, q, hsends, hx, htrig, hcompletes _ (endsWith_scene hstep) hmade⟩
  · intro next e sec hends hload howner he hs _ last gone placed hsec pointer told clock tempo follows gives trigger fixed x
    have hstep := hsong hends
    obtain ⟨hagain, hfree⟩ := songWord_refreshes (p := t) hstep hload halso howner he hs hsec
    refine ⟨fun c hnext hc => ?_, fun hnext hl => ?_⟩
    · exact hcompletes _ (endsWith_song hstep (.inl hload)) (hagain c hnext hc)
    · exact ⟨_, hfree hnext hl, hcompletes _ (endsWith_song hstep (.inl hload)) rfl⟩
  · intro outcome place nowhere first setups code badCounts hbad
    obtain ⟨hstep, hout⟩ := step_fails (order := s.order) (mem := s.mem) (layout := s.part.layout) outcome hbad
    exact failingWord_ends hrun hfirst hst hturn hunit hf hstep hout

end Sys2Proof.Machine
end

section
/-! PROOFS. Cues executed: which cue is next, how it ends, and the effects that make no switch (9.4, 9.5). -/

namespace Sys2Proof.Machine

/-! ### The cue that executes (R124, R144) -/

section Next
variable {p q : Part} {a : ArmedCue} {held : Option (Fin 32)}

theorem firstExecutable_none : ∀ {l : List ArmedCue}, (∀ b ∈ l, b.due = false ∨ b.working = true) → firstExecutable held l = none
  | [], _ => rfl
  | b :: rest, h => by
    have hb : (b.due && !b.working) = false := by
      rcases h b (by simp) with hb | hb <;> rw [hb] <;> simp
    have ih : firstExecutable held rest = none := firstExecutable_none fun c hc => h c (by simp [hc])
    unfold firstExecutable
    rw [hb, ih]
    simp

/-- The cues ahead that cannot execute and whose switch is not held are passed over. -/
theorem firstExecutable_append : ∀ {l rest : List ArmedCue},
    (∀ b ∈ l, (b.due = false ∨ b.working = true) ∧ held ≠ some b.slot) →
    firstExecutable held (l ++ rest) = firstExecutable held rest
  | [], _, _ => rfl
  | b :: l, rest, h => by
    obtain ⟨hb, hheld⟩ := h b (by simp)
    have hstill : (b.due && !b.working) = false := by
      rcases hb with hb | hb <;> rw [hb] <;> simp
    have ih : firstExecutable held (l ++ rest) = firstExecutable held rest :=
      firstExecutable_append fun c hc => h c (by simp [hc])
    rw [List.cons_append]
    refine Eq.trans ?_ ih
    rw [firstExecutable, if_neg hheld, hstill]
    simp

/-- No cue executes behind the one whose switch is held, where none ahead of it can. -/
theorem firstExecutable_held {h : ArmedCue} (hheld : held = some h.slot) : ∀ {l rest : List ArmedCue},
    (∀ b ∈ l, b.due = false ∨ b.working = true) → firstExecutable held (l ++ h :: rest) = none
  | [], rest, _ => if_pos hheld
  | b :: l, rest, hl => by
    have hb : (b.due && !b.working) = false := by
      rcases hl b (by simp) with hb | hb <;> rw [hb] <;> simp
    have ih : firstExecutable held (l ++ h :: rest) = none := firstExecutable_held hheld fun c hc => hl c (by simp [hc])
    rw [List.cons_append, firstExecutable, hb, ih]
    simp

/-- The switch of a cue is held. -/
def Part.holdsCue (p : Part) (b : ArmedCue) : Prop := ∃ n, p.loader.held = some { cause := .cue b.slot, countdown := n }

theorem nextCue_none (h : ∀ b ∈ p.cues.arms, b.due = false ∨ b.working = true) : p.executeNext = p := by
  have hnone : p.nextCue = none := firstExecutable_none h
  unfold Part.executeNext
  rw [hnone]

theorem nextCue_held {ahead rest : List ArmedCue} {h : ArmedCue} (harms : p.cues.arms = ahead ++ h :: rest) (hheld : p.holdsCue h)
    (hahead : ∀ b ∈ ahead, b.due = false ∨ b.working = true) : p.executeNext = p := by
  have hnone : p.nextCue = none := by
    unfold Part.nextCue
    rw [harms]
    exact firstExecutable_held ((heldSlot_iff p h.slot).mpr hheld) hahead
  unfold Part.executeNext
  rw [hnone]

/-- The cue that executes next: due and ready, with no cue ahead that can execute or whose switch is held. -/
theorem executeNext_first {waiting rest : List ArmedCue} (harms : p.cues.arms = waiting ++ a :: rest)
    (hwaiting : ∀ b ∈ waiting, (b.due = false ∨ b.working = true) ∧ ¬p.holdsCue b) (hheld : ¬p.holdsCue a)
    (hdue : a.due = true) (hready : a.working = false) : p.executeNext = p.executeCue a := by
  have hnext : p.nextCue = some a := by
    unfold Part.nextCue
    rw [harms, firstExecutable_append fun b hb =>
      ⟨(hwaiting b hb).1, fun hc => (hwaiting b hb).2 ((heldSlot_iff p b.slot).mp hc)⟩]
    exact (if_neg fun hc => hheld ((heldSlot_iff p a.slot).mp hc)).trans (if_pos (by rw [hdue, hready]; rfl))
  unfold Part.executeNext
  rw [hnext]

/-- The write list holds nothing, or a state word of the cue's own slot, which its result replaces (R148). -/
def Part.writesOwn (p : Part) (slot : Fin 32) : Prop :=
  p.cues.writes = [] ∨ ∃ w, p.cues.writes = [w] ∧ w.slot = slot ∧ w.result = false

theorem queueWrite_own {item : WriteItem} (h : p.writesOwn item.slot) : queueWrite item p.cues.writes = [item] := by
  rcases h with h | ⟨w, h, hslot, hresult⟩
  · rw [h]
    rfl
  · rw [h]
    exact if_pos ⟨hslot, by simp [hresult]⟩

/-- The part with a cue over and its result queued alone (R144, R148). -/
def Part.cueEnded (q : Part) (a : ArmedCue) (outcome : CueOutcome) : Part := { q with
  cues := { q.cues with
    arms := q.cues.arms.filter fun b => b.slot != a.slot
    writes := [resultItem q.stamp a.slot outcome a.missed outcome.final a.notify] }
  watch := { q.watch with owners := q.watch.owners.set a.slot .host } }

theorem endCue_ended (outcome : CueOutcome) (h : q.writesOwn a.slot) : q.endCue a outcome 0 = q.cueEnded a outcome := by
  have hqueue := queueWrite_own (item := resultItem q.stamp a.slot outcome a.missed outcome.final a.notify) h
  exact congrArg (fun l => ({ q with
    cues := { q.cues with arms := q.cues.arms.filter fun b => b.slot != a.slot, writes := l }
    watch := { q.watch with owners := q.watch.owners.set a.slot .host } } : Part)) hqueue

/-- A cue of a kind that makes no switch: its effect, and its end (R145). -/
theorem executeCue_plain {outcome : CueOutcome} (hkind : a.cue.sceneChanging = false) (heffect : p.plainEffect a = (q, outcome))
    (hwrites : q.cues.writes = p.cues.writes) (h : p.writesOwn a.slot) : p.executeCue a = q.cueEnded a outcome := by
  have hplain : p.executeCue a = ((p.plainEffect a).1).endCue a (p.plainEffect a).2 0 := by
    unfold Part.executeCue
    cases hc : a.cue with
    | songLoad number start autoStart => rw [hc] at hkind; cases hkind
    | sectionJump target => rw [hc] at hkind; cases hkind
    | _ => rfl
  have hown : q.writesOwn a.slot := by
    unfold Part.writesOwn
    rw [hwrites]
    exact h
  rw [hplain, heffect]
  exact endCue_ended outcome hown

end Next

/-! ### Tempo, click generator and clock source (R7, R21, R49, R51) -/

section Plain
variable {p : Part}

/-- The override that a TempoSet makes of the tempo in force, with the beats it counts as taken (R7, R9). -/
def Part.overrideTo (p : Part) (target ramp taken : Nat) (keep : Bool) : Override :=
  { base := p.timeline.tempo, target := clampTempo target, ramp := min ramp 1024, taken := taken, keep := keep }

theorem setOverride_cases (target ramp : Nat) (keep : Bool) :
    (p.clockRuns = true → p.setOverride target ramp keep =
      { p with timeline := { p.timeline with plan := some (p.overrideTo target ramp 0 keep) } }) ∧
    (p.clockRuns = false → p.setOverride target ramp keep =
      { p with timeline := { p.timeline with
        plan := some (p.overrideTo target ramp (min ramp 1024) keep), tempo := clampTempo target } }) := by
  unfold Part.setOverride
  exact ⟨fun h => if_pos h, fun h => if_neg (by rw [h]; exact Bool.false_ne_true)⟩

theorem mixSet_eq (mix : Fin 8) (levels : ByClass) (trim : Nat) (mute : Bool) :
    let old := p.click.mixes[mix]
    p.mixSet mix levels trim mute = { p with click := { p.click with mixes := p.click.mixes.set mix {
      levels := levels, trim := trim, mute := mute
      cursor := { old.cursor with
        running := if mute = true ∧ old.mute = false then false else old.cursor.running } } } } := by
  intro old
  have hcursor : (if (mute && !old.mute) = true then old.cursor.stopped else old.cursor) =
      { old.cursor with running := if mute = true ∧ old.mute = false then false else old.cursor.running } := by
    by_cases h : mute = true ∧ old.mute = false
    · rw [if_pos h, if_pos (by rw [h.1, h.2]; rfl)]
      rfl
    · rw [if_neg h, if_neg (by simpa using h)]
  exact congrArg (fun c : Cursor => ({ p with click := { p.click with mixes := p.click.mixes.set mix {
    levels := levels, trim := trim, mute := mute, cursor := c } } } : Part)) hcursor

theorem clockSelect_external : (p.timeline.source = .external ∨ p.timeline.monitor = .present →
      p.clockSelect .external = ({ p with timeline := { p.timeline with source := .external } }, .ok)) ∧
    (p.timeline.source = .internal → p.timeline.monitor = .absent → p.clockSelect .external = (p, .notReady)) := by
  unfold Part.clockSelect
  dsimp only
  refine ⟨fun h => ?_, fun hs hm => ?_⟩
  · by_cases hs : p.timeline.source = .external
    · rw [if_pos hs, ← hs]
    · rw [if_neg hs, if_pos (h.resolve_left hs)]
      rfl
  · rw [if_neg (by rw [hs]; decide), if_neg (by rw [hm]; decide)]

end Plain

/-! ### Transport (R15 to R18) -/

section Transports
variable {p : Part}

theorem transportCue_fits {action : TransportAction} (h : action.fits p.timeline.clock = true) :
    p.transportCue action = (p.transport action, .ok) := if_pos h

theorem transportCue_unfit {action : TransportAction} (h : action.fits p.timeline.clock = false) :
    p.transportCue action = (p, .notReady) := if_neg (by rw [h]; exact Bool.false_ne_true)

theorem fits_of_runs (h : p.clockRuns = true) :
    TransportAction.fits .pause p.timeline.clock = true ∧ TransportAction.fits .stop p.timeline.clock = true := by
  unfold Part.clockRuns at h
  cases hc : p.timeline.clock <;> simp_all [TransportAction.fits]

theorem requestStop_voices (p : Part) : p.requestStop = { p with voices :=
    if p.clockRuns && !p.timeline.startPending then p.voices.request .stop else p.voices } := by
  unfold Part.requestStop
  split <;> rfl

/-- A Pause with no section switch pending (R15, R20, R124). -/
theorem pauseClock_eq (hl : p.loader.late = none) : p.pauseClock = { p with
    timeline := { p.timeline with
      clock := .paused
      pausedFrom := some (if p.timeline.clock = .countIn then .countIn else .playing) }
    cues := { p.cues with arms := p.cues.arms.map fun b => { b with due := true } }
    voices := if p.clockRuns && !p.timeline.startPending then p.voices.request .stop else p.voices } := by
  let paused (q : Part) : Part := { q with
    timeline := { q.timeline with
      clock := .paused
      pausedFrom := some (if p.timeline.clock = .countIn then .countIn else .playing) } }
  have hmade : p.pauseClock = (paused p.requestStop).cuesDueAtOnce := makeLateNow_none (by rw [requestStop_voices]; exact hl)
  exact hmade.trans (congrArg (fun q => (paused q).cuesDueAtOnce) (requestStop_voices p))

theorem resumeClock_eq : p.resumeClock = { p with
    timeline := { p.timeline with
      clock := if p.timeline.pausedFrom = some .countIn then .countIn else .playing
      pausedFrom := none }
    voices := if p.timeline.startPending then p.voices else p.voices.request .resume } := by
  unfold Part.resumeClock
  dsimp only
  rcases hp : p.timeline.pausedFrom with _ | (_ | _) <;> (split <;> rfl)

end Transports

end Sys2Proof.Machine
end

section
/-! PROOFS. Cues executed: vamps, loads, refreshes, region tables and jumps (2.5, 3.4, 8.4, 8.7, 10.3). -/

namespace Sys2Proof.Machine

/-! ### Vamp (R37 to R40) -/

section Vamps
variable {p : Part} {trigger : Trigger}

/-- A trigger is given in the song phase of a clock that is neither Idle nor Parked (R40). -/
theorem giveTriggerIf_gives (hp : p.pointer.phase = .song) (hi : p.timeline.clock ≠ .idle) (hk : p.timeline.clock ≠ .parked) :
    p.giveTriggerIf true = p.setTrigger (some p.nextTrigger) := by
  unfold Part.giveTriggerIf
  rw [if_pos (by rw [hp]; simp [hi, hk])]

theorem giveTriggerIf_still {given : Bool} (h : ¬(p.pointer.phase = .song ∧ p.timeline.clock ≠ .idle ∧
    p.timeline.clock ≠ .parked ∧ given = true)) : p.giveTriggerIf given = p := by
  unfold Part.giveTriggerIf
  rw [if_neg]
  intro hc
  simp only [Bool.and_eq_true, decide_eq_true_eq] at hc
  obtain ⟨⟨⟨hg, hp⟩, hi⟩, hk⟩ := hc
  exact h ⟨hp, hi, hk, hg⟩

/-- The scene that a trigger asks for, where it is not the active one (R121). -/
def Part.wantedBy (p : Part) (trigger : Trigger) (scene : Nat) : Prop :=
  ∃ target, trigger = .toSection target ∧ p.sceneOf target = some scene ∧ p.loader.activeScene.map (·.number) ≠ some scene

/-- A scene loader at rest, with a trigger that stands: it looks for the scene that the trigger asks for (R121). -/
theorem actTrigger_wanted {scene : Nat} (hrest : p.loaderAtRest) (ht : p.loader.trigger = some trigger)
    (h : p.wantedBy trigger scene) : p.actTrigger = p.lookFor scene := by
  obtain ⟨howner, hlate, hheld⟩ := hrest
  obtain ⟨target, rfl, hscene, hactive⟩ := h
  rw [actTrigger_rest p howner hlate hheld _ ht, triggerWants_section p target ht, hscene]
  dsimp only
  rw [if_neg (show ¬p.activeSceneNumber = some scene from hactive)]

theorem actTrigger_unwanted (hrest : p.loaderAtRest) (ht : p.loader.trigger = some trigger)
    (h : ∀ target scene, trigger = .toSection target → p.sceneOf target = some scene →
      p.loader.activeScene.map (·.number) = some scene) : p.actTrigger = p := by
  obtain ⟨howner, hlate, hheld⟩ := hrest
  have hwants : p.triggerWants = none := by
    cases htrigger : trigger with
    | toEnd =>
      unfold Part.triggerWants
      rw [ht, htrigger]
    | toSection target =>
      rw [triggerWants_section p target (htrigger ▸ ht)]
      cases hscene : p.sceneOf target with
      | none => rfl
      | some scene => exact if_pos (h target scene htrigger hscene)
  rw [actTrigger_rest p howner hlate hheld _ ht, hwants]

/-- A Vamp Set in a bar that is not the last (R37). -/
theorem vampSet_quiet (hlast : p.inLastBar = false) (ht : p.loader.trigger = none) :
    p.vampSet.actTrigger = { p with pointer := { p.pointer with vamp := true, leave := false } } := by
  have hset : p.vampSet = p.setPointer { p.pointer with vamp := true, leave := false } := by
    unfold Part.vampSet
    dsimp only
    rw [hlast]
    exact giveTriggerIf_still fun h => nomatch h.2.2.2
  rw [hset]
  exact actTrigger_off (p.setPointer { p.pointer with vamp := true, leave := false }) (.inl ht)

/-- A Vamp Set in the last bar: the section itself is triggered (R37, R40). -/
theorem vampSet_triggers (hlast : p.inLastBar = true) (hp : p.pointer.phase = .song) (hi : p.timeline.clock ≠ .idle)
    (hk : p.timeline.clock ≠ .parked) : p.vampSet = { p with
      pointer := { p.pointer with vamp := true, leave := false }
      loader := { p.loader with trigger := some (.toSection p.pointer.sectionIndex) } } := by
  unfold Part.vampSet
  dsimp only
  rw [hlast]
  exact giveTriggerIf_gives (p := p.setPointer { p.pointer with vamp := true, leave := false }) hp hi hk

/-- The pointer after a Vamp Release (R38, R39). -/
def Part.vampFreed (p : Part) (nextBar : Bool) : Part :=
  p.setPointer { p.pointer with vamp := false, leave := nextBar || p.pointer.leave }

theorem vampRelease_eq (nextBar : Bool) : p.vampRelease nextBar =
    (p.vampFreed nextBar).giveTriggerIf (nextBar || (p.pointer.vamp && p.inLastBar)) := by
  unfold Part.vampRelease
  cases nextBar with
  | false => rfl
  | true => rfl

/-- The conditions under which a Vamp Release gives a trigger (R38 to R40). -/
def Part.vampGives (p : Part) (nextBar : Bool) : Prop :=
  p.pointer.phase = .song ∧ p.timeline.clock ≠ .idle ∧ p.timeline.clock ≠ .parked ∧
    (nextBar = true ∨ (p.pointer.vamp = true ∧ p.inLastBar = true))

theorem vampRelease_quiet {nextBar : Bool} (h : ¬p.vampGives nextBar) (ht : p.loader.trigger = none) :
    (p.vampRelease nextBar).actTrigger = p.vampFreed nextBar := by
  have hstill : p.vampRelease nextBar = p.vampFreed nextBar := by
    rw [vampRelease_eq]
    refine giveTriggerIf_still fun hc => h ?_
    obtain ⟨hp, hi, hk, hg⟩ := hc
    exact ⟨hp, hi, hk, by simpa using hg⟩
  rw [hstill]
  exact actTrigger_off (p.vampFreed nextBar) (.inl ht)

theorem vampRelease_triggers {nextBar : Bool} (h : p.vampGives nextBar) :
    p.vampRelease nextBar = (p.vampFreed nextBar).setTrigger (some (p.vampFreed nextBar).nextTrigger) := by
  obtain ⟨hp, hi, hk, hg⟩ := h
  have hgiven : (nextBar || (p.pointer.vamp && p.inLastBar)) = true := by simpa using hg
  rw [vampRelease_eq, hgiven]
  exact giveTriggerIf_gives (p := p.vampFreed nextBar) hp hi hk

end Vamps

/-! ### Sounds, refreshes and region tables (R51, R146, R159, R169) -/

section Records
variable {p : Part}

theorem loadSound_eq (sound : Fin 4) (address length : Nat) : let words := (length + 1) / 2
    p.loadSound sound address length = { p with
      click := { p.click with mixes := Vector.ofFn fun i =>
        if (p.click.mixes[i]).cursor.sound = some sound then
          { p.click.mixes[i] with cursor := { (p.click.mixes[i]).cursor with running := false } }
        else p.click.mixes[i] }
      loader := { p.loader with clickFetches := p.loader.clickFetches.set sound (some {
        kind := .load, base := address, length := length, words := words, done := 0 }) }
      watch := { p.watch with residents := { p.watch.residents with clicks := p.watch.residents.clicks.set sound (some {
        kind := .click, number := sound.val, base := address, length := 4 * words, state := .refreshing
        refetch := 0 }) } } } := rfl

theorem isStale_iff {role : Role} : p.isStale role = true ↔ ∃ e, p.resident role = some e ∧ e.state = .stale := by
  unfold Part.isStale
  cases p.resident role with
  | none => simp
  | some e => simp

theorem sceneRefresh_cases :
    (p.isStale .activeSong = false → p.isStale .activeScene = false → p.sceneRefresh = (p, .ok)) ∧
    (p.isStale .activeSong = true ∨ p.isStale .activeScene = true → p.loader.owner ≠ none → p.sceneRefresh = (p, .notReady)) ∧
    (p.loader.owner = none → p.isStale .activeSong = true →
      p.sceneRefresh = (p.beginSongRefresh (p.isStale .activeScene), .ok)) ∧
    (p.loader.owner = none → p.isStale .activeSong = false → p.isStale .activeScene = true →
      p.sceneRefresh = (p.beginSceneRefresh, .ok)) := by
  unfold Part.sceneRefresh
  refine ⟨fun h1 h2 => by rw [h1, h2]; rfl, fun h howner => ?_, fun howner h => ?_, fun howner h1 h2 => ?_⟩
  · rw [if_neg (by rcases h with h | h <;> simp [h]), if_pos (Option.isSome_iff_ne_none.mpr howner)]
  · rw [if_neg (by simp [h]), howner, h]
    rfl
  · rw [if_neg (by simp [h2]), howner, h1]
    rfl

/-- A region table installed while no record settles (R159, R169). -/
theorem installRegion_settled (table : RegionTable)
    (h : ∀ role e, p.resident role = some e → ∀ n, e.state ≠ .settling n) :
    p.installRegion table = { p with watch := { p.watch with region := table } } := by
  have hentry : ∀ role, Part.remapEntry { p with watch := { p.watch with region := table } } role =
      { p with watch := { p.watch with region := table } } := by
    intro role
    have hsettled : ({ p with watch := { p.watch with region := table } } : Part).isSettling role = false :=
      Bool.eq_false_iff.mpr fun hc => by
        obtain ⟨e, n, he, hs⟩ := isSettling_iff.mp hc
        exact h role e he n hs
    unfold Part.remapEntry
    rw [hsettled]
    cases Part.resident { p with watch := { p.watch with region := table } } role <;> rfl
  unfold Part.installRegion allRoles
  simp only [List.foldl, hentry]

end Records

/-! ### Jumps (R35, R126) -/

section Jumps
variable {p : Part} {a : ArmedCue} {target : Nat} {sec : SongSection}

/-- A jump's target taken with no trigger standing leaves the scene loader and the cue unit as they are. -/
theorem jumpTo_keeps (hsec : p.sectionAt target = some sec) (ht : p.loader.trigger = none)
    (hbars : p.landsAtOnce = true → 1 < sec.bars) :
    (p.jumpTo target).loader = p.loader ∧ (p.jumpTo target).cues = p.cues ∧
      (p.landsAtOnce = true → (p.jumpTo target).pointer.sectionIndex = target) := by
  have hload : ({ p.loader with trigger := none } : Loader) = p.loader := by rw [← ht]
  obtain ⟨hparked, hcount, hwaits, hlands⟩ := jumpTo_jumped p target sec hsec
  have hplays : p.timeline.clock = .playing ∨ p.timeline.clock = .paused →
      (p.jumpTo target).loader = p.loader ∧ (p.jumpTo target).cues = p.cues ∧
        (p.landsAtOnce = true → (p.jumpTo target).pointer.sectionIndex = target) := by
    intro hclock
    cases hopen : p.timeline.beatOpen with
    | false =>
      rw [hwaits hclock hopen]
      refine ⟨rfl, rfl, fun h => ?_⟩
      unfold Part.landsAtOnce at h
      rw [hopen] at h
      simp at h
    | true =>
      have h1 : p.landsAtOnce = true := by
        unfold Part.landsAtOnce
        rw [hopen]
        simpa using hclock
      rw [hlands hclock hopen (hbars h1)]
      exact ⟨hload, rfl, fun _ => rfl⟩
  have hno : p.timeline.clock ≠ .playing → p.timeline.clock ≠ .paused → ¬p.landsAtOnce = true := by
    intro h1 h2 h
    unfold Part.landsAtOnce at h
    simp [h1, h2] at h
  cases hclock : p.timeline.clock with
  | idle =>
    have hidle : p.jumpTo target = p := by unfold Part.jumpTo; rw [hclock]
    rw [hidle]
    exact ⟨rfl, rfl, fun h => absurd h (hno (by simp [hclock]) (by simp [hclock]))⟩
  | parked =>
    rw [hparked hclock]
    exact ⟨rfl, rfl, fun h => absurd h (hno (by simp [hclock]) (by simp [hclock]))⟩
  | countIn =>
    rw [hcount hclock]
    exact ⟨rfl, rfl, fun h => absurd h (hno (by simp [hclock]) (by simp [hclock]))⟩
  | playing => exact hplays (.inl hclock)
  | paused => exact hplays (.inr hclock)

/-- A jump that needs no fetch, with no trigger standing and the scene loader at rest where it lands at once. -/
theorem jumpPlain_eq (hsec : p.sectionAt target = some sec)
    (hscene : ∀ scene, sec.scene = some scene → p.loader.activeScene.map (·.number) = some scene)
    (ht : p.loader.trigger = none) (hland : p.landsAtOnce = true → p.loaderAtRest ∧ 1 < sec.bars) :
    p.jumpPlain target = p.jumpTo target := by
  obtain ⟨hload, -, hplace⟩ := jumpTo_keeps hsec ht fun h => (hland h).2
  have hentry : (p.jumpTo target).considerLanding p.landsAtOnce = p.jumpTo target := by
    unfold Part.considerLanding
    split
    · rename_i h
      obtain ⟨⟨howner, hlate, hheld⟩, -⟩ := hland h
      refine considerEntry_rest _ (by rw [hload, howner]) (by rw [hload, hlate]) (by rw [hload, hheld]) fun scene hs => ?_
      have hsame : (p.jumpTo target).sceneOf target = p.sceneOf target := by
        unfold Part.sceneOf Part.sectionAt
        rw [hload]
      rw [hplace h, hsame] at hs
      unfold Part.sceneOf at hs
      rw [hsec] at hs
      rw [hload]
      exact hscene scene hs
    · rfl
  unfold Part.jumpPlain
  rw [hentry]
  exact actTrigger_off _ (.inl (by rw [hload, ht]))

theorem jumpScene_eq (hsec : p.sectionAt target = some sec) :
    ((∀ scene, sec.scene = some scene → p.loader.activeScene.map (·.number) = some scene) → p.jumpScene target = none) ∧
    (∀ scene, sec.scene = some scene → p.loader.activeScene.map (·.number) ≠ some scene →
      p.jumpScene target = some scene) := by
  have hsceneOf : p.sceneOf target = sec.scene := by
    unfold Part.sceneOf
    rw [hsec]
    rfl
  unfold Part.jumpScene
  rw [hsceneOf]
  refine ⟨fun h => ?_, fun scene hs hne => ?_⟩
  · cases hs : sec.scene with
    | none => rfl
    | some scene => exact if_pos (h scene hs)
  · rw [hs]
    exact if_neg hne

/-- A SectionJump that does not own the shadow (R126). -/
theorem executeJump_unowned (howner : p.loader.owner ≠ some (.cue a.slot)) :
    (p.sectionCount ≤ target → p.executeJump a target = p.endCue a .badParam 0) ∧
    (target < p.sectionCount → p.jumpScene target = none → p.executeJump a target = (p.jumpPlain target).endCue a .ok 0) ∧
    (∀ scene, target < p.sectionCount → p.jumpScene target = some scene →
      p.executeJump a target = p.jumpNeedsFetch a scene) := by
  have hunowned : p.ownedBy a.slot = false := by
    unfold Part.ownedBy
    simpa using howner
  unfold Part.executeJump
  dsimp only
  rw [hunowned]
  refine ⟨fun h => ?_, fun h hscene => ?_, fun scene h hscene => ?_⟩
  · rw [if_pos h]
    rfl
  · rw [if_neg (Nat.not_le.mpr h), hscene]
    rfl
  · rw [if_neg (Nat.not_le.mpr h), hscene]
    rfl

/-- The armed cue of a jump that finds that it needs a fetch (R125, R126). -/
def ArmedCue.lateJump (clockRuns : Bool) (b : ArmedCue) : ArmedCue := { b with
  working := true
  due := if b.atBoundary then !clockRuns else b.due
  atBoundary := false
  missed := b.missed + if b.atBoundary then 1 else 0
  wait := if b.atBoundary = true ∧ b.wait = .newSection then .bar else b.wait }

theorem lateAt_working (clockRuns : Bool) (b : ArmedCue) :
    ArmedCue.lateAt clockRuns { b with working := true } = b.lateJump clockRuns := by
  have hwait : b.wait.afterLate = if b.wait = .newSection then .bar else b.wait := by cases b.wait <;> rfl
  unfold ArmedCue.lateAt ArmedCue.lateJump ArmedCue.passedOn
  cases h : b.atBoundary with
  | false => simp
  | true => simp [hwait]

/-- A jump that finds at execution that it needs a fetch (R125, R126). -/
theorem jumpNeedsFetch_eq {scene : Nat} (hfree : p.loader.owner = none) (hw : p.writesOwn a.slot) :
    p.jumpNeedsFetch a scene = { p with
      loader := { p.loader with
        owner := some (.cue a.slot), shadowSong := none, shadowScene := none, ready := false
        fetch := some (sceneFetch scene) }
      cues := { p.cues with
        arms := p.cues.arms.map fun b => if b.slot ≠ a.slot then b else b.lateJump p.clockRuns
        writes := [stateItem a.slot true] }
      watch := { p.watch with
        owners := p.watch.owners.set a.slot (.engine .working)
        residents := { p.watch.residents with shadowSong := none, shadowScene := none } } } := by
  have hclaim := (claimForCue_claims p a.slot (sceneFetch scene)).1 (.inl hfree)
  have hqueue := queueWrite_own (item := stateItem a.slot true) hw
  have harms : ((p.cues.arms.map fun b => if b.slot = a.slot then { b with working := true } else b).map
      fun b => if b.slot = a.slot then ArmedCue.lateAt p.clockRuns b else b) =
      p.cues.arms.map fun b => if b.slot ≠ a.slot then b else b.lateJump p.clockRuns := by
    rw [List.map_map]
    refine List.map_congr_left fun b _ => ?_
    by_cases hb : b.slot = a.slot
    · have hwork : (if b.slot = a.slot then { b with working := true } else b) = { b with working := true } := if_pos hb
      refine Eq.trans ?_ (if_neg (not_not.mpr hb)).symm
      refine (congrArg (fun c : ArmedCue => if c.slot = a.slot then ArmedCue.lateAt p.clockRuns c else c) hwork).trans ?_
      exact (if_pos hb).trans (lateAt_working _ _)
    · have hsame : (if b.slot = a.slot then { b with working := true } else b) = b := if_neg hb
      refine Eq.trans ?_ (if_pos hb).symm
      refine (congrArg (fun c : ArmedCue => if c.slot = a.slot then ArmedCue.lateAt p.clockRuns c else c) hsame).trans ?_
      exact if_neg hb
  unfold Part.jumpNeedsFetch
  rw [hclaim]
  exact congrArg₂ (fun arms writes => ({ p with
    loader := { p.loader with
      owner := some (.cue a.slot), shadowSong := none, shadowScene := none, ready := false
      fetch := some (sceneFetch scene) }
    cues := { p.cues with arms := arms, writes := writes }
    watch := { p.watch with
      owners := p.watch.owners.set a.slot (.engine .working)
      residents := { p.watch.residents with shadowSong := none, shadowScene := none } } } : Part)) harms hqueue

end Jumps

end Sys2Proof.Machine
end

section
/-! PROOFS. The obligation about cues executed (O55). -/

namespace Sys2Proof.Machine

section Executed
variable {s : State} {q : Part} {a : ArmedCue} {c : Cue} {outcome : CueOutcome}

theorem exec_cueExecute_of {x : Part} (h : s.part.executeNext = x) : exec .cueExecute s = .next { s with part := x } := by
  rw [exec_cueExecute, ← h]
  rfl

/-- The next cue, of a kind that makes no switch, with its effect and its end (R144, R145). -/
theorem cueExecute_plain (hnext : s.part.executeNext = s.part.executeCue a) (hw : s.part.writesOwn a.slot) (hc : a.cue = c)
    (hkind : c.sceneChanging = false) (heffect : s.part.plainEffect { a with cue := c } = (q, outcome))
    (hwrites : q.cues.writes = s.part.cues.writes) : exec .cueExecute s = .next { s with part := q.cueEnded a outcome } := by
  subst hc
  exact exec_cueExecute_of (hnext.trans (executeCue_plain hkind heffect hwrites hw))

theorem enterParked_writes (p : Part) : p.enterParked.cues.writes = p.cues.writes := by
  obtain ⟨plan, tempo, h⟩ := enterParked_aside p
  have hcues : p.enterParked.cues =
      if p.clockRuns then { p.cues with arms := p.cues.arms.map fun b => { b with due := true } } else p.cues :=
    congrArg Aside.cues h
  rw [hcues]
  split <;> rfl

/-- The next cue is a SectionJump that does not own the shadow (R126). -/
theorem executeCue_jump {p : Part} {target : Nat} (hc : a.cue = .sectionJump target) :
    p.executeCue a = p.executeJump a target := by
  unfold Part.executeCue
  rw [hc]

end Executed

/-- Settles O55: the next cue by its kind, its effect, and its end. -/
theorem cuesTakeEffect : Obligations.CuesTakeEffect := by
  unfold Obligations.CuesTakeEffect
  intro s a p run holds first allDue ended ok refused timed roles looks follows stops
  refine ⟨fun h => exec_cueExecute_of (nextCue_none h), fun ahead h rest harms hheld hahead =>
    exec_cueExecute_of (nextCue_held harms hheld hahead), ?_⟩
  rintro ⟨waiting, rest, harms, hwaiting, hheld, hdue, hready, hw⟩
  have hnext : p.executeNext = p.executeCue a := executeNext_first harms hwaiting hheld hdue hready
  have hown : p.writesOwn a.slot := hw
  have hok : ∀ (c : Cue) (q : Part), a.cue = c → c.sceneChanging = false → p.plainEffect { a with cue := c } = (q, .ok) →
      q.cues.writes = p.cues.writes → ok q :=
    fun c q hc hkind heffect hwrites => cueExecute_plain hnext hown hc hkind heffect hwrites
  have hrefused : ∀ (c : Cue), a.cue = c → c.sceneChanging = false → p.plainEffect { a with cue := c } = (p, .notReady) →
      refused .notReady :=
    fun c hc hkind heffect => cueExecute_plain hnext hown hc hkind heffect rfl
  refine ⟨fun on hc => ?_, fun target ramp keep hc => ?_, fun mix levels trim mute hc => ?_,
    fun sound address length hc => ?_, fun hc => ?_, fun hc => ?_, fun hc => ?_, fun nextBar hc => ?_, fun hc hclock => ?_,
    fun hc hruns hlate => ?_, fun hc hclock => ?_, fun hc hclock => ?_, fun action hc hfits => ?_, fun target hc howner => ?_,
    fun hc => ?_, fun place table hc htable hsettled => ?_⟩
  · exact hok _ _ hc rfl rfl rfl
  · intro t m plan
    obtain ⟨hruns, hstill⟩ := setOverride_cases (p := p) target ramp keep
    exact ⟨fun h => hok _ _ hc rfl (congrArg (·, CueOutcome.ok) (hruns h)) rfl,
      fun h => hok _ _ hc rfl (congrArg (·, CueOutcome.ok) (hstill h)) rfl⟩
  · intro old ends new
    exact hok _ _ hc rfl (congrArg (·, CueOutcome.ok) (mixSet_eq mix levels trim mute)) rfl
  · intro words
    exact hok _ _ hc rfl (congrArg (·, CueOutcome.ok) (loadSound_eq sound address length)) rfl
  · exact hok _ _ hc rfl rfl rfl
  · obtain ⟨htaken, hnot⟩ := clockSelect_external (p := p)
    exact ⟨fun h => hok _ _ hc rfl (htaken h) rfl, fun hs hm => hrefused _ hc rfl (hnot hs hm)⟩
  · intro set here
    refine ⟨fun hlast ht => hok _ _ hc rfl (congrArg (·, CueOutcome.ok) (vampSet_quiet hlast ht)) rfl,
      fun hlast hp hi hk hstands => hok _ _ hc rfl (congrArg (·, CueOutcome.ok) ?_) rfl⟩
    rw [vampSet_triggers hlast hp hi hk]
    rcases hstands with hlate | ⟨hrest, hscene⟩
    · exact actTrigger_off _ (.inr hlate)
    · refine actTrigger_unwanted (trigger := .toSection here) hrest rfl fun target scene htarget hs => ?_
      cases htarget
      exact hscene scene hs
  · intro released given gives
    have hfollows : (p.vampFreed nextBar).nextTrigger = follows := rfl
    have hgiven : gives → p.vampRelease nextBar = given := fun h =>
      (vampRelease_triggers h).trans (congrArg (fun t => (p.vampFreed nextBar).setTrigger (some t)) hfollows)
    refine ⟨fun h ht => hok _ _ hc rfl (congrArg (·, CueOutcome.ok) (vampRelease_quiet h ht)) rfl, fun h hlate => ?_,
      fun h hrest => ⟨fun target scene htarget hs hne => ?_, fun hscene => ?_⟩⟩
    · refine hok _ given hc rfl (congrArg (·, CueOutcome.ok) ?_) rfl
      exact (congrArg Part.actTrigger (hgiven h)).trans (actTrigger_off given (.inr hlate))
    · refine hok _ (looks given scene) hc rfl (congrArg (·, CueOutcome.ok) ?_) rfl
      exact (congrArg Part.actTrigger (hgiven h)).trans
        (actTrigger_wanted (p := given) (trigger := follows) hrest rfl ⟨target, htarget, hs, hne⟩)
    · refine hok _ given hc rfl (congrArg (·, CueOutcome.ok) ?_) rfl
      exact (congrArg Part.actTrigger (hgiven h)).trans (actTrigger_unwanted (p := given) (trigger := follows) hrest rfl hscene)
  · exact hok _ _ hc rfl (transportCue_fits (by rw [hclock]; rfl)) rfl
  · refine hok _ _ hc rfl ((transportCue_fits (fits_of_runs hruns).1).trans ?_) rfl
    exact congrArg (·, CueOutcome.ok) (pauseClock_eq hlate)
  · refine hok _ _ hc rfl ((transportCue_fits (by rw [hclock]; rfl)).trans ?_) rfl
    exact congrArg (·, CueOutcome.ok) resumeClock_eq
  · have hfits : TransportAction.fits .stop p.timeline.clock = true := by
      rcases hclock with h | h
      · exact (fits_of_runs h).2
      · rw [h]; rfl
    exact ⟨p.enterParked, enterParked_parks p, hok _ _ hc rfl (transportCue_fits hfits) (enterParked_writes p)⟩
  · exact hrefused _ hc rfl (transportCue_unfit hfits)
  · have hjump : p.executeNext = p.executeJump a target := hnext.trans (executeCue_jump hc)
    obtain ⟨habsent, hplain, hfetch⟩ := executeJump_unowned (p := p) (a := a) (target := target) howner
    refine ⟨fun hcount => ?_, fun sec hsec => ⟨fun hscene ht hland => ?_, fun scene hscene hne hrest => ?_⟩⟩
    · exact exec_cueExecute_of (hjump.trans ((habsent hcount).trans (endCue_ended .badParam hown)))
    · obtain ⟨-, hcues, -⟩ := jumpTo_keeps hsec ht fun h => (hland h).2
      have hwrites : (p.jumpTo target).writesOwn a.slot := by
        unfold Part.writesOwn
        rw [hcues]
        exact hown
      refine ⟨p.jumpTo target, jumpTo_jumped p target sec hsec, exec_cueExecute_of (hjump.trans ?_)⟩
      refine (hplain (sectionCount_of p target sec hsec) ((jumpScene_eq hsec).1 hscene)).trans ?_
      exact (congrArg (fun q : Part => q.endCue a .ok 0) (jumpPlain_eq hsec hscene ht hland)).trans (endCue_ended .ok hwrites)
    · refine exec_cueExecute_of (hjump.trans ?_)
      exact (hfetch scene (sectionCount_of p target sec hsec) ((jumpScene_eq hsec).2 scene hscene hne)).trans
        (jumpNeedsFetch_eq hrest.1 hown)
  · intro again owned
    obtain ⟨hfresh, hbusy, hsong, hscene⟩ := sceneRefresh_cases (p := p)
    refine ⟨fun h1 h2 => hok _ _ hc rfl (hfresh h1 h2) rfl, fun h howner => hrefused _ hc rfl (hbusy h howner),
      fun e howner he hs => hok _ _ hc rfl ?_ rfl, fun e howner h1 he hs => hok _ _ hc rfl ?_ rfl⟩
    · exact (hsong howner (isStale_iff.mpr ⟨e, he, hs⟩)).trans
        (congrArg (·, CueOutcome.ok) (beginSongRefresh_eq (p.isStale .activeScene) he))
    · exact (hscene howner h1 (isStale_iff.mpr ⟨e, he, hs⟩)).trans (congrArg (·, CueOutcome.ok) (beginSceneRefresh_eq he))
  · refine hok _ _ hc rfl ?_ rfl
    unfold Part.plainEffect
    dsimp only
    rw [htable]
    exact congrArg (·, CueOutcome.ok) (installRegion_settled table hsettled)

end Sys2Proof.Machine
end
